-- ==== Sys2Proof/Word.lean ====
section
/-! DEFINITION. The word types of the Aethunex A4: bytes, words, lines and packets (R6, R7, R15), and the
sparse containers the state is written with. -/

namespace Sys2Proof

/-- One byte. -/
abbrev Byte := BitVec 8
/-- A 32-bit register or semaphore (R15, R46). -/
abbrev Word := BitVec 32
/-- A 64-bit register, counter cell or reference time (R15, R174, R281). -/
abbrev DWord := BitVec 64
/-- A queue instruction (R41). -/
abbrev QWord := BitVec 128
/-- A command packet, a copy descriptor or a line of 64 bytes, byte 0 in bits [7:0] (R6, R64, R369). -/
abbrev Line := BitVec 512

/-- Sparse bytes: address and value, addresses strictly rising, no value 0 (what an unlisted address reads as). -/
abbrev Mem := List Host.Cell

/-- A sparse table by number: keys strictly rising. An absent key stands for the table's default. -/
abbrev Tab (α : Type) := List (Nat × α)

end Sys2Proof
end

