-- ==== Sys2Proof/Machine/HostTypes.lean ====
section
/-! DEFINITION. The plain data of the hub: status codes (R17), fault reasons and records (R70, R445), host functions,
rings and commands (R365 to R389), contexts and partitions (R390 to R416), the recovery state (R450 to R465). -/

namespace Sys2Proof.Machine

/-- The shared status codes of R17. -/
inductive Status where
  | ok | pending | partialResult | badOpcode | badParam | badCrc | noResource | denied | timeout | faulted | aborted
  | joinMismatch | incompatibleDie
deriving DecidableEq, Repr

/-- The five engines and their queues, in the order MXE, VXE, TGE, CPE0, CPE1 (R40, R47, R70). -/
inductive Eng where
  | mxe | vxe | tge | cpe0 | cpe1
deriving DecidableEq, Repr

/-- The reasons of context faults (R70, R502). -/
inductive Reason where
  | illegalInstruction | streamOverrun | queueDeadlock | syncOverflow | waitTimeout | badDescriptor | translation
  | spRange | exactRange | operandMismatch | accAbsent | lenOver | accType | unconvergedCollective | divergenceDepth
  | threadMisaligned | deadReread | exactRangeCpe | partnerDenied | partnerTimeout | remoteRefused
deriving DecidableEq, Repr

/-- What a context fault tells the record: reason, status code, address and, for a translation fault, the cause
(R397, R445, R502). -/
structure CtxFault where
  reason : Reason
  status : Nat
  addr   : Nat := 0
  cause  : Nat := 0
deriving DecidableEq, Repr

/-- One record of the fault log, the fields of R445 but NUMBER (its place in the log) and CRC (computed). -/
structure FaultRec where
  cls       : BitVec 8 := 0
  cause     : BitVec 8 := 0
  status    : BitVec 8 := 0
  tagValid  : Bool := false
  remote    : Bool := false
  host      : Bool := false
  governing : Bool := false
  subsumed  : Bool := false
  time      : BitVec 64 := 0
  context   : BitVec 8 := 0
  partition : BitVec 4 := 0
  srcDevice : BitVec 16 := 0
  core      : BitVec 16 := 0xFFFF
  queue     : BitVec 8 := 7
  die       : BitVec 8 := 7
  addr      : BitVec 64 := 0
  detail    : BitVec 64 := 0
  seq       : BitVec 32 := 0
  ring      : BitVec 8 := 0
  function  : BitVec 8 := 0
deriving DecidableEq, Repr

/-- The fault log of the always-on domain: records by number, and NEXT (R444). -/
structure FaultLog where
  recs : Tab FaultRec := []
  next : BitVec 32 := 0
deriving DecidableEq, Repr

/-- The recovery a fault of class 2 or 3 makes due, or that runs (R20, R450, R455, R462). -/
structure Recovery where
  /-- HUB_RECOVERY_STATUS.STATE: 0 in service, 1 compute-part reset, 2 full recovery, 3 out of service. -/
  state   : BitVec 3 := 0
  step    : BitVec 4 := 0
  memLost : Bool := false
  computeResets  : BitVec 8 := 0
  fullRecoveries : BitVec 8 := 0
  /-- The class of the recovery that a recorded fault has made due and that has not begun. -/
  due     : Nat := 0
  /-- The number of the governing record, and its detection time. -/
  record  : Nat := 0
  detected : Nat := 0
  /-- The numbers of the records that the recovery covers. -/
  covers  : List Nat := []
  /-- Was step 3 of the full recovery complete on every channel (R463, R464)? -/
  refreshed : Bool := false
  /-- Has the compute part lost its supply or tripped, so that steps 2 and 3 are skipped (R462)? -/
  noPower : Bool := false
  /-- The recovery follows a fall of PWR_OK, whose power-down takes the place of its first three steps (R493). -/
  powerDown : Bool := false
  /-- The start from which the 6 s of a full recovery count (R450). -/
  started : Nat := 0
deriving DecidableEq, Repr

/-- Midwinter (R449 to R453, R465). -/
structure Midwinter where
  hang     : Bool := false
  overrun  : Bool := false
  lastBeat : BitVec 64 := 0
  sampleKib : BitVec 7 := 0
  crashPage : BitVec 10 := 0
deriving DecidableEq, Repr

/-- One ring of a function (R365, R389). -/
structure Ring where
  base     : BitVec 64 := 0
  status   : BitVec 64 := 0
  enable   : Bool := false
  ringVa   : Bool := false
  statusVa : Bool := false
  sizeLog2 : BitVec 5 := 0
  vector   : BitVec 3 := 0
  tail     : BitVec 32 := 0
  head     : BitVec 32 := 0
  overflow : Bool := false
  cause    : BitVec 3 := 0
deriving DecidableEq, Repr

/-- One PCI Express function: its HOST_ block, its latches for 64-bit registers (R15), the low words that wait for
their high word (R15), and what its last reads returned. -/
structure HostFn where
  rings    : Tab Ring := []
  vaBase   : BitVec 34 := 0
  context  : BitVec 8 := 0
  mapped   : Bool := false
  /-- Words latched, by their own offset. -/
  latches  : Tab Word := []
  /-- Low words written, by their offset. -/
  lows     : Tab Word := []
  /-- Data of the last BAR0 read, 32 bits in the low half or 64. -/
  bar0Data : DWord := 0
  /-- Bytes of the last BAR2 read, none after Unsupported Request or Completer Abort. -/
  bar2Data : Option (List Byte) := some []
  /-- Was the last BAR2 read completed with Completer Abort (R457)? -/
  bar2Abort : Bool := false
deriving DecidableEq, Repr

/-- A launch descriptor as checked and held (R53). -/
structure Kernel where
  desc      : Nat := 0
  keep      : Bool := false
  l1        : Nat := 1
  regs      : Nat := 32
  first     : Nat := 0
  count     : Nat := 0
  argLen    : Nat := 0
  argAddr   : Nat := 0
  doneCtr   : Nat := 0
  /-- The five streams, address and length in bytes, in queue order. -/
  streams   : List (Nat × Nat) := []
deriving DecidableEq, Repr

/-- A LAUNCH in hand (R380, R407 to R410). -/
structure Launch where
  prim     : Kernel := {}
  fall     : Option Kernel := none
  /-- The deadline as reference time; 0 for none. A frame deadline is evaluated as the calendar does. -/
  deadline : Nat := 0
  dlFrame  : Bool := false
  dlOffset : Nat := 0
  calIdx   : Option Nat := none
  runLimit : Nat := 0
  startAt  : Nat := 0
  /-- First core start of the primary and of the fallback (R407). -/
  first0   : Option Nat := none
  first1   : Option Nat := none
  /-- Has the deadline monitor switched, and the MARK at the switch (R409)? -/
  switched : Bool := false
  m0       : Nat := 0
  prog0    : Nat := 0
  late     : Bool := false
  /-- Indexes whose core waits for its start, per model in turn; indexes that have ended. -/
  waiting  : List Nat := []
  ended0   : List Nat := []
  ended1   : List Nat := []
  /-- Has the kernel its turn (no running kernel of the context overlaps it)? -/
  active   : Bool := false
deriving DecidableEq, Repr

/-- A command the device has taken (R367 to R376). -/
structure Cmd where
  fn      : Nat := 0
  ring    : Nat := 0
  index   : BitVec 32 := 0
  /-- Its number in the order of taking; cores and schedules name it by this. -/
  id      : Nat := 0
  pkt     : Line := 0
  started : Bool := false
  status  : Status := .pending
  info    : BitVec 8 := 0
  detail  : BitVec 16 := 0
  progress : BitVec 32 := 0
  mark    : BitVec 32 := 0
  launch  : Option Launch := none
  /-- For a command that runs on after its start: the time until which it may run, in reference time. -/
  limit   : Nat := 0
  /-- Status writes are discarded (R388). -/
  mute    : Bool := false
  /-- It has started and waits: for a teardown (R392), for a line, for an answer. -/
  waiting : Bool := false
  /-- Its status word has changed and could not be written yet. -/
  dirty   : Bool := false
  /-- Where its status word lies, in the BAR2 context's addresses or on the host bus, and its MSI-X vector, as the ring
  had them when the packet was taken. -/
  statusVa : Bool := false
  statusAt : Nat := 0
  vector  : Nat := 0
deriving DecidableEq, Repr

/-- The states of a context number (R392). -/
inductive CtxState where
  | free | created | active | faulted | tearing
deriving DecidableEq, Repr

/-- Why a context is torn down (R411): a context fault, RUN_LIMIT_MS, CTX_DESTROY, a Function Level Reset. -/
inductive TearCause where
  | fault | runLimit | destroy | flr
deriving DecidableEq, Repr

/-- A teardown in progress (R411). -/
structure Teardown where
  cause  : TearCause := .fault
  /-- The command whose kernel faulted, or whose run limit expired, or the CTX_DESTROY. -/
  cmd    : Option Nat := none
  reason : Nat := 0
  /-- The last step of the table Teardown steps that has run. -/
  step   : Nat := 0
  started : Nat := 0
  /-- The number of the fault record, for a context fault. -/
  record : Option Nat := none
deriving DecidableEq, Repr

/-- One context (R392, R393, R399 to R416). -/
structure Ctx where
  state     : CtxState := .free
  partition : BitVec 4 := 0
  level     : BitVec 2 := 0
  exactFault : Bool := false
  deadFault : Bool := false
  share     : BitVec 16 := 0
  root      : BitVec 48 := 0
  coreFirst : Nat := 0
  coreCount : Nat := 0
  creator   : Nat := 0
  /-- HUB_CTX_TIME_c_e, in µs. -/
  time      : Tab DWord := []
  switches  : DWord := 0
  dlSwitches : BitVec 16 := 0
  late      : BitVec 16 := 0
  /-- Kernel durations that ended OK, per launch descriptor address, most recently used address first (R407). -/
  durations : List (Nat × List Nat) := []
  tear      : Option Teardown := none
  /-- The reason of the fault that its last teardown followed (R373: DETAIL of FAULTED). -/
  reason    : Nat := 0
deriving DecidableEq, Repr

/-- One partition: the resources of R390 and what PART_CONFIG set (R383). -/
structure Part where
  ctxFirst  : Nat := 0
  ctxCount  : Nat := 0
  coreFirst : BitVec 10 := 0
  coreCount : BitVec 10 := 0
  memBase   : BitVec 13 := 0
  memGib    : BitVec 13 := 0
  saveGib   : BitVec 10 := 0
  segFirst  : Nat := 0
  segCount  : Nat := 0
  calQuota  : Nat := 0
  trackResv : BitVec 15 := 0
  sealed    : Bool := false
  solShare  : Nat := 0
  powerW    : Nat := 0
deriving DecidableEq, Repr

/-- What the scheduler keeps for one core (R399, R400). -/
structure Sched where
  /-- Virtual time of each context, V(c, n). -/
  v        : Tab Nat := []
  /-- Reference time of the resident context's last restore or core start. -/
  since    : Nat := 0
  /-- Nanoseconds of the present µs in which the resident context has held the core. -/
  rest     : Nat := 0
  /-- The context to which a decision has given the core while another holds it (R402). -/
  next     : Option Nat := none
deriving DecidableEq, Repr

end Sys2Proof.Machine
end

