-- ==== Sys2Proof/Machine/Bits.lean ====
section
/-! DEFINITION. Bit fields, little-endian bytes, the sparse containers' operations, the check codes (CRC-32 of
R53 and its like, CRC-8 of R395) and SHA-256 (R481). -/

namespace Sys2Proof.Machine

/-- The field [high:low] of a word (R7), as a number. -/
def fld {n : Nat} (w : BitVec n) (high low : Nat) : Nat := (w.toNat >>> low) % 2 ^ (high + 1 - low)

/-- The bit [k] of a word. -/
def bit {n : Nat} (w : BitVec n) (k : Nat) : Bool := w.getLsbD k

/-- A Bool as a one-bit field. -/
def b2n (b : Bool) : Nat := if b then 1 else 0

/-- Fields written most significant first, as the manual's register maps list them: (width, value). -/
def pack (fields : List (Nat × Nat)) : Nat := fields.foldl (fun acc f => acc * 2 ^ f.1 + f.2 % 2 ^ f.1) 0

/-- The two's-complement value of an n-bit number. -/
def signed (n v : Nat) : Int := if v % 2 ^ n < 2 ^ (n - 1) then ((v % 2 ^ n : Nat) : Int) else ((v % 2 ^ n : Nat) : Int) - ((2 ^ n : Nat) : Int)

/-- n bytes of a number, least significant first (R6). -/
def leBytes : Nat → Nat → List Byte
  | 0, _ => []
  | n + 1, v => BitVec.ofNat 8 v :: leBytes n (v / 256)

/-- The number that bytes spell, least significant first (R6). -/
def leVal : List Byte → Nat
  | [] => 0
  | b :: bs => b.toNat + 256 * leVal bs

/-- Bytes off to off + n - 1 of a word, as a number. -/
def byteFld {k : Nat} (w : BitVec k) (off n : Nat) : Nat := (w.toNat >>> (8 * off)) % 2 ^ (8 * n)

/-- Fields of a byte list. -/
def byteAt (bs : List Byte) (off n : Nat) : Nat := leVal ((bs.drop off).take n)

/-- A list padded with zero bytes, or cut, to n bytes. -/
def padTo (n : Nat) (bs : List Byte) : List Byte := (bs ++ List.replicate (n - bs.length) 0).take n

def ceilDiv (a b : Nat) : Nat := (a + b - 1) / b

/-- A condition that has held since `since` has held for `d` at `now`. -/
def heldFor (since : Option Nat) (d now : Nat) : Bool :=
  match since with
  | some t => decide (t + d ≤ now)
  | none => false

/-! Tables by number. -/

def tabGet? {α : Type} : Tab α → Nat → Option α
  | [], _ => none
  | (k, v) :: r, a => if k = a then some v else tabGet? r a

def tabGet {α : Type} (d : α) (t : Tab α) (a : Nat) : α := (tabGet? t a).getD d

def tabSet {α : Type} : Tab α → Nat → α → Tab α
  | [], a, x => [(a, x)]
  | (k, v) :: r, a, x =>
    if k < a then (k, v) :: tabSet r a x
    else if k = a then (a, x) :: r
    else (a, x) :: (k, v) :: r

def tabDel {α : Type} (t : Tab α) (a : Nat) : Tab α := t.filter (fun p => p.1 != a)

def tabMod {α : Type} (d : α) (t : Tab α) (a : Nat) (f : α → α) : Tab α := tabSet t a (f (tabGet d t a))

/-- Numbers by index: an unlisted index holds 0, and no 0 is listed. -/
def zGet (t : Tab Nat) (k : Nat) : Nat := (tabGet? t k).getD 0

def zSet (t : Tab Nat) (k v : Nat) : Tab Nat := if v = 0 then tabDel t k else tabSet t k v

/-- Strictly rising keys. -/
def tabWf {α : Type} : Tab α → Bool
  | [] => true
  | [_] => true
  | (a, _) :: (b, y) :: r => decide (a < b) && tabWf ((b, y) :: r)

/-! Sparse bytes: what an unlisted address reads as is 0 (assumption 1). -/

/-- The byte at an address. -/
def memRd : Mem → Nat → Byte
  | [], _ => 0
  | (k, v) :: r, a => if k = a then v else memRd r a

/-- Write one byte, keeping the canonical form. -/
def memWr : Mem → Nat → Byte → Mem
  | [], a, b => if b = 0 then [] else [(a, b)]
  | (k, v) :: r, a, b =>
    if k < a then (k, v) :: memWr r a b
    else if k = a then (if b = 0 then r else (a, b) :: r)
    else (if b = 0 then (k, v) :: r else (a, b) :: (k, v) :: r)

/-- The canonical form: addresses strictly rising, no byte 0 listed. -/
def memWf : Mem → Bool
  | [] => true
  | [(_, v)] => v != 0
  | (a, v) :: (b, w) :: r => decide (a < b) && v != 0 && memWf ((b, w) :: r)

/-- n bytes from an address upward. -/
def memRdN (m : Mem) : Nat → Nat → List Byte
  | _, 0 => []
  | a, n + 1 => memRd m a :: memRdN m (a + 1) n

/-- Bytes written from an address upward. -/
def memWrN (m : Mem) : Nat → List Byte → Mem
  | _, [] => m
  | a, b :: bs => memWrN (memWr m a b) (a + 1) bs

/-- Bytes written at listed addresses, in list order. -/
def memWrL (m : Mem) : List Host.Cell → Mem
  | [] => m
  | (a, b) :: bs => memWrL (memWr m a b) bs

/-- A little-endian number of n bytes (R6). -/
def memRdLE (m : Mem) (a n : Nat) : Nat := leVal (memRdN m a n)

def memWrLE (m : Mem) (a n v : Nat) : Mem := memWrN m a (leBytes n v)

/-- Drop every byte at or above lo and below hi (they read 0). -/
def memZero (m : Mem) (lo hi : Nat) : Mem := m.filter (fun c => decide (c.1 < lo) || decide (hi ≤ c.1))

/-! Lines of 64 bytes as one word, byte 0 in bits [7:0]. -/

def lineBytes (l : Line) : List Byte := leBytes 64 l.toNat

def bytesLine (bs : List Byte) : Line := BitVec.ofNat 512 (leVal bs)

/-- n bytes of a line from an offset. -/
def lineRd (l : Line) (off n : Nat) : Nat := byteFld l off n

/-- Put n bytes of v at an offset of a line. -/
def lineWr (l : Line) (off n v : Nat) : Line :=
  let m := (2 ^ (8 * n) - 1) <<< (8 * off)
  BitVec.ofNat 512 ((l.toNat &&& (2 ^ 512 - 1 - m % 2 ^ 512)) ||| (((v % 2 ^ (8 * n)) <<< (8 * off)) % 2 ^ 512))

/-- Merge the bytes of new whose mask bit is set into old (R186). -/
def lineMerge (old new : Line) (mask : BitVec 64) : Line :=
  bytesLine ((List.range 64).map fun i => BitVec.ofNat 8 (if mask.getLsbD i then byteFld new i 1 else byteFld old i 1))

/-! CRC-32 of IEEE 802.3 (R53, R64, R257, R306, R316, R322, R342, R369, R445): register starting at all ones,
bytes least significant bit first, final inversion. Mark: DEDUCED (assumption 8). -/

def crc32Bit (c : Nat) : Nat := if c % 2 = 1 then (c >>> 1) ^^^ 0xEDB88320 else c >>> 1

def crc32Byte (c : Nat) (b : Byte) : Nat :=
  crc32Bit (crc32Bit (crc32Bit (crc32Bit (crc32Bit (crc32Bit (crc32Bit (crc32Bit (c ^^^ b.toNat))))))))

def crc32 (bs : List Byte) : Nat := (bs.foldl crc32Byte 0xFFFFFFFF) ^^^ 0xFFFFFFFF

/-! CRC-8 of a translation entry (R395): polynomial 0x07, register 0, most significant bit first, no inversion. -/

def crc8Bit (c : Nat) : Nat := if c / 128 % 2 = 1 then ((c * 2) % 256) ^^^ 7 else (c * 2) % 256

def crc8Byte (c : Nat) (b : Byte) : Nat :=
  crc8Bit (crc8Bit (crc8Bit (crc8Bit (crc8Bit (crc8Bit (crc8Bit (crc8Bit (c ^^^ b.toNat))))))))

def crc8 (bs : List Byte) : Nat := bs.foldl crc8Byte 0

/-! SHA-256, the hash of every signature and measurement of the device (R3, R481). The spec names the published
standard; its constants are those of FIPS 180-4. Mark: PRESUMED (assumption 9). -/

def sha256K : List (BitVec 32) :=
  [0x428a2f98, 0x71374491, 0xb5c0fbcf, 0xe9b5dba5, 0x3956c25b, 0x59f111f1, 0x923f82a4, 0xab1c5ed5,
   0xd807aa98, 0x12835b01, 0x243185be, 0x550c7dc3, 0x72be5d74, 0x80deb1fe, 0x9bdc06a7, 0xc19bf174,
   0xe49b69c1, 0xefbe4786, 0x0fc19dc6, 0x240ca1cc, 0x2de92c6f, 0x4a7484aa, 0x5cb0a9dc, 0x76f988da,
   0x983e5152, 0xa831c66d, 0xb00327c8, 0xbf597fc7, 0xc6e00bf3, 0xd5a79147, 0x06ca6351, 0x14292967,
   0x27b70a85, 0x2e1b2138, 0x4d2c6dfc, 0x53380d13, 0x650a7354, 0x766a0abb, 0x81c2c92e, 0x92722c85] ++
  [0xa2bfe8a1, 0xa81a664b, 0xc24b8b70, 0xc76c51a3, 0xd192e819, 0xd6990624, 0xf40e3585, 0x106aa070,
   0x19a4c116, 0x1e376c08, 0x2748774c, 0x34b0bcb5, 0x391c0cb3, 0x4ed8aa4a, 0x5b9cca4f, 0x682e6ff3,
   0x748f82ee, 0x78a5636f, 0x84c87814, 0x8cc70208, 0x90befffa, 0xa4506ceb, 0xbef9a3f7, 0xc67178f2]

structure Sha where
  a : BitVec 32
  b : BitVec 32
  c : BitVec 32
  d : BitVec 32
  e : BitVec 32
  f : BitVec 32
  g : BitVec 32
  h : BitVec 32
deriving DecidableEq, Repr

def shaInit : Sha := ⟨0x6a09e667, 0xbb67ae85, 0x3c6ef372, 0xa54ff53a, 0x510e527f, 0x9b05688c, 0x1f83d9ab, 0x5be0cd19⟩

def shaRound (s : Sha) (k w : BitVec 32) : Sha :=
  let s1 := s.e.rotateRight 6 ^^^ s.e.rotateRight 11 ^^^ s.e.rotateRight 25
  let ch := (s.e &&& s.f) ^^^ (~~~s.e &&& s.g)
  let t1 := s.h + s1 + ch + k + w
  let s0 := s.a.rotateRight 2 ^^^ s.a.rotateRight 13 ^^^ s.a.rotateRight 22
  let mj := (s.a &&& s.b) ^^^ (s.a &&& s.c) ^^^ (s.b &&& s.c)
  ⟨t1 + (s0 + mj), s.a, s.b, s.c, s.d + t1, s.e, s.f, s.g⟩

/-- The message schedule: the window holds the last 16 words, oldest first. -/
def shaSched : Nat → List (BitVec 32) → List (BitVec 32)
  | 0, _ => []
  | n + 1, win =>
    let w0 := win.headD 0
    let a := win.getD 1 0
    let b := win.getD 14 0
    let g0 := a.rotateRight 7 ^^^ a.rotateRight 18 ^^^ (a >>> 3)
    let g1 := b.rotateRight 17 ^^^ b.rotateRight 19 ^^^ (b >>> 10)
    w0 :: shaSched n (win.drop 1 ++ [w0 + g0 + win.getD 9 0 + g1])

def shaBlock (s : Sha) (words : List (BitVec 32)) : Sha :=
  let r := (List.zip sha256K (shaSched 64 words)).foldl (fun t kw => shaRound t kw.1 kw.2) s
  ⟨s.a + r.a, s.b + r.b, s.c + r.c, s.d + r.d, s.e + r.e, s.f + r.f, s.g + r.g, s.h + r.h⟩

def beVal : List Byte → Nat := fun bs => bs.foldl (fun acc b => acc * 256 + b.toNat) 0

def shaWords : Nat → List Byte → List (BitVec 32)
  | 0, _ => []
  | n + 1, bs => BitVec.ofNat 32 (beVal (bs.take 4)) :: shaWords n (bs.drop 4)

def shaBlocks : Nat → Sha → List Byte → Sha
  | 0, s, _ => s
  | n + 1, s, bs => shaBlocks n (shaBlock s (shaWords 16 bs)) (bs.drop 64)

def shaPad (bs : List Byte) : List Byte :=
  bs ++ (0x80 : Byte) :: List.replicate ((119 - bs.length % 64) % 64) 0 ++ (leBytes 8 (8 * bs.length)).reverse

/-- The digest as 32 bytes, the first byte first. -/
def sha256 (bs : List Byte) : List Byte :=
  let p := shaPad bs
  let r := shaBlocks (p.length / 64) shaInit p
  [r.a, r.b, r.c, r.d, r.e, r.f, r.g, r.h].flatMap fun w => (leBytes 4 w.toNat).reverse

/-! RSASSA-PKCS1-v1_5 with SHA-256, 3,072-bit modulus, exponent 65,537 (R469, R470): the check of a signature. -/

def sqMod (n : Nat) : Nat → Nat → Nat
  | 0, x => x
  | k + 1, x => sqMod n k (x * x % n)

/-- The 384-byte encoded message of PKCS #1 v2.2 for a digest. -/
def pkcsEncode (msg : List Byte) : List Byte :=
  [0x00, 0x01] ++ List.replicate 330 0xFF ++ [0x00, 0x30, 0x31, 0x30, 0x0d, 0x06, 0x09, 0x60, 0x86, 0x48, 0x01,
    0x65, 0x03, 0x04, 0x02, 0x01, 0x05, 0x00, 0x04, 0x20] ++ sha256 msg

/-- Does a signature verify under a modulus? Both stand most significant byte first, as PKCS #1 writes them. -/
def rsaVerify (modulus sig msg : List Byte) : Bool :=
  let n := beVal modulus
  let s := beVal sig
  decide (s < n) && (s * sqMod n 16 s) % n == beVal (pkcsEncode msg)

end Sys2Proof.Machine
end

