-- ==== Sys2Proof/Machine/MemTypes.lean ====
section
/-! DEFINITION. The plain data of the memory system: requests and their tags (R21, R217, R225), LLC slices with their
directory (R185 to R215), messages on their way (R217), memory channels (R232 to R253). -/

namespace Sys2Proof.Machine

/-- The context tag of a request (R21): context and partition, the requesting device for a request from another
device, whether it is a BAR2 access, and whether any request is involved at all (R446). -/
structure Tag where
  ctx    : Nat := 0
  part   : Nat := 0
  remote : Option Nat := none
  host   : Bool := false
  /-- The queue that issued it, on a core of this device. -/
  core   : Option Nat := none
  queue  : Nat := 7
deriving DecidableEq, Repr

/-- The kinds of request at a home (R217). -/
inductive ReqKind where
  | rdOnce | rdShared | rdUnique | upgrade | wrThrough | wrInv | atomic | wrBack | evict
deriving DecidableEq, Repr

/-- What an atomic does (R154, R174, R199): the thread atomics, the counter add and the reduction updates. -/
inductive AtomOp where
  | add | min | max | exch | cas | fadd | redFp32 | redBf16 | redExact
deriving DecidableEq, Repr

/-- A request at the home slice of a line. The line is PA[47:6]. -/
structure Req where
  kind      : ReqKind := .rdOnce
  /-- The requester number of R225. -/
  requester : Nat := 0
  line      : Nat := 0
  off       : Nat := 0
  len       : Nat := 64
  /-- Bytes of a write, or the operand of an atomic in the bytes it touches. -/
  data      : Line := 0
  mask      : BitVec 64 := 0
  op        : AtomOp := .add
  /-- The value compared by a compare-and-swap. -/
  cmp       : BitVec 64 := 0
  tag       : Tag := {}
  /-- The last-use mark of R194. -/
  lastUse   : Bool := false
  /-- It reads a structure with a check of its own, so that an uncorrectable error fails that check instead (R448). -/
  checked   : Bool := false
  /-- It found its line Dead and re-reads it (R196). -/
  reread    : Bool := false
  /-- Its number: COMP and INV_DONE name the request by it. -/
  id        : Nat := 0
deriving DecidableEq, Repr

/-- The reduction and arithmetic flags that an acknowledgement carries (R199, R205). -/
structure RedFlags where
  ovf : Bool := false
  nan : Bool := false
  invalid : Bool := false
  range : Bool := false
deriving DecidableEq, Repr

/-- The states of a way (R185). -/
inductive WayState where
  | invalid | filling | clean | dirty | dead
deriving DecidableEq, Repr

/-- The directory states (R214), with the owner of E and M. -/
inductive Dir where
  | i | s | e (owner : Nat) | m (owner : Nat)
deriving DecidableEq, Repr

/-- The sharer record of a line in S (R215): hub cores and partner dies exactly, up to four L1s exactly or else one
bit per row. -/
structure Sharers where
  agents : List Nat := []
  l1s    : List Nat := []
  coarse : Bool := false
  rows   : List Nat := []
deriving DecidableEq, Repr

/-- One way of a set. -/
structure Way where
  st      : WayState := .invalid
  line    : Nat := 0
  data    : Line := 0
  pinned  : Bool := false
  /-- The slice's running number at the last reduction update (R187 step 4, R200). -/
  pinAt   : Nat := 0
  /-- A last-use mark that waits for the pin to end (R195). -/
  marked  : Bool := false
  dir     : Dir := .i
  sh      : Sharers := {}
deriving DecidableEq, Repr

/-- The three snoops (R217). -/
inductive SnoopKind where
  | inv | share | recall
deriving DecidableEq, Repr

/-- What the snoops of a transaction are for: to serve its request, to evict the victim of its way, to drop the line
under a last-use mark, to take the line back from its owner for an access that waits at its engine (R216, R218). -/
inductive TxnFor where
  | serve | evict | drop | clear
deriving DecidableEq, Repr

/-- A transaction in progress on a line (R214, R218): the agents that still owe an answer, whether data is owed after
SNP_ACK_WB (R224) or as WR_DATA (R229), and since when. -/
structure Txn where
  why     : TxnFor := .serve
  /-- The number that its snoops carry. -/
  id      : Nat := 0
  req     : Req := {}
  owed    : List (Nat × SnoopKind) := []
  dataFrom : Option Nat := none
  since   : Nat := 0
deriving DecidableEq, Repr

/-- A miss-table entry: one line being filled or with a transaction in progress, and its waiting accesses in arrival
order (R190, R214). -/
structure MissEntry where
  line    : Nat := 0
  /-- Key of the way it fills. -/
  way     : Nat := 0
  filling : Bool := true
  /-- Its accesses wait for forwarded updates of the line, or for a way (R187, R202). -/
  parked  : Bool := false
  waiters : List Req := []
  txn     : Option Txn := none
  /-- The way's mask owner, for the reserved entries of a sealed partition (R208). -/
  part    : Nat := 0
deriving DecidableEq, Repr

/-- One LLC slice. -/
structure Slice where
  /-- Ways by key 12 × set + way. -/
  ways     : Tab Way := []
  /-- Pseudo-LRU tree of each set, 15 bits, node k of level order in bit k (R187). -/
  plru     : Tab Nat := []
  miss     : List MissEntry := []
  /-- Requesters waiting for a CREDIT, and the one that holds each granted CREDIT with its time (R226). -/
  retry    : List Req := []
  credited : List (Req × Nat) := []
  /-- Reduction updates forwarded to the memory controller, in home order (R202). -/
  forwarded : List Req := []
  /-- Write requests accepted whose WR_DATA has not arrived, and since when (R217, R229). -/
  owedData : List (Req × Nat) := []
  flushing : Bool := false
  order    : Nat := 0
  deadCtx  : BitVec 8 := 0
  deadPart : BitVec 4 := 0
  deadRemote : Bool := false
  deadHost : Bool := false
  deadLine : BitVec 42 := 0
  /-- Slice counters k = 0 to 12 (R210, R231). -/
  cnt      : Tab DWord := []
deriving DecidableEq, Repr

/-- LLC_PART_p and MC_PART_p (R210, R253): what PART_CONFIG set for the slices and the channels. -/
structure LlcPart where
  sealed   : Bool := false
  missResv : BitVec 3 := 0
  ways     : BitVec 12 := 0xFFF
  cycles   : BitVec 16 := 0
  windows  : BitVec 16 := 0
deriving DecidableEq, Repr

/-- A write, atomic or reduction whose COMP or INV_DONE has not gone out (R220): the agents whose INV_ACK is awaited,
and what was sent. -/
structure WriteRec where
  id       : Nat := 0
  line     : Nat := 0
  requester : Nat := 0
  core     : Option Nat := none
  queue    : Nat := 7
  acks     : List Nat := []
  /-- Did it cause a snoop, so that INV_DONE goes out by itself? -/
  snooped  : Bool := false
  comp     : Bool := false
  /-- The invalidations of an RD_UNIQUE, for which no COMP goes out (R218). -/
  silent   : Bool := false
  /-- COMP grants the line to this agent (UPGRADE, R223). -/
  grants   : Bool := false
  /-- The flags of a reduction that COMP carries (R205). -/
  flags    : RedFlags := {}
  /-- COMP answers a reduction that re-read its line (R196, R197). -/
  reread   : Bool := false
  /-- The context it belongs to. -/
  ctx      : Nat := 0
deriving DecidableEq, Repr

/-- The messages that leave a home or an agent (R217), held until they arrive. -/
inductive MsgKind where
  | snpInv | snpShare | snpRecall | invAck | retry | fault | dataS | dataE | rdData
deriving DecidableEq, Repr

/-- A message on its way: its kind, the agent it goes to (snoops, DATA_S, DATA_E) or the requester (the others), its
line, data and the request it answers. -/
structure Msg where
  kind : MsgKind := .invAck
  dest : Nat := 0
  line : Nat := 0
  data : Line := 0
  req  : Req := {}
deriving DecidableEq, Repr

/-- What an agent 576 to 581 holds of one line (R211, R223): owner or sharer, the data it received, and the hold of a line
just won. -/
structure AgentLine where
  owner   : Bool := false
  data    : Line := 0
  /-- Is the hold of R223 running? -/
  hold    : Bool := false
  /-- Has a WR_BACK or EVICT of the line left and not been answered (R223)? -/
  wbSent  : Bool := false
  evSent  : Bool := false
  /-- The snoop that has arrived and is not answered, with the number it carries, and since when the answer is due:
  its arrival or the end of the hold (R223, R229). -/
  snoop   : Option (SnoopKind × Nat) := none
  since   : Nat := 0
deriving DecidableEq, Repr

/-- The state of the coherent domain (R229 to R231). -/
structure Coh where
  down   : Bool := false
  cause  : BitVec 3 := 0
  agent  : BitVec 10 := 0
  slice  : BitVec 8 := 0
  ctx    : BitVec 8 := 0
  isReq  : Bool := false
  requester : BitVec 12 := 0
  line   : BitVec 42 := 0
deriving DecidableEq, Repr

/-- One memory channel and its controller (R253). -/
structure Chan where
  state    : BitVec 4 := 0
  refresh  : BitVec 2 := 0
  overTemp : Bool := false
  ceCount  : BitVec 32 := 0
  errLoc   : BitVec 32 := 0
  ueValid  : Bool := false
  ueOverflow : Bool := false
  ueSource : BitVec 2 := 0
  ueRemote : Bool := false
  ueHost   : Bool := false
  ueCtx    : BitVec 8 := 0
  uePart   : BitVec 4 := 0
  ueLine   : BitVec 42 := 0
  reads    : DWord := 0
  writes   : DWord := 0
  /-- The channel line index that the patrol scrub reads next (R245). -/
  scrub    : BitVec 28 := 0
  /-- Timing adjustment of the last DQS measurement, in per cent of the trained eye width (R248). -/
  drift    : Nat := 0
deriving DecidableEq, Repr

/-- Error symbols of one line as they now stand in the memory device: position 36 × subchannel + symbol and the bits
that differ from the codeword (R239). -/
abbrev ErrPat := List (Nat × Byte)

/-- Device memory (R182, R232 to R253): bytes, error patterns by line, channels, MC_GLOBAL. -/
structure Memory where
  bytes      : Mem := []
  errs       : Tab ErrPat := []
  chans      : Tab Chan := []
  rate       : BitVec 4 := 0
  scrubHours : BitVec 8 := 0
  trained    : BitVec 9 := 0
  /-- The data rate that boot found, at which a full recovery trains again (R246, R247). -/
  running    : BitVec 4 := 0
deriving DecidableEq, Repr

/-- The cache system: slices, partition settings, agents, messages, outstanding writes. -/
structure Cache where
  slices : Tab Slice := []
  parts  : Tab LlcPart := []
  /-- Copies of agents 576 to 581, by agent, then by line. -/
  agents : Tab (Tab AgentLine) := []
  msgs   : List Msg := []
  writes : List WriteRec := []
  nextId : Nat := 0
  coh    : Coh := {}
deriving DecidableEq, Repr

end Sys2Proof.Machine
end

