-- ==== Sys2Proof/Machine/NetTypes.lean ====
section
/-! DEFINITION. The plain data of the die links and partner sites (R254 to R280), the fabric (R302 to R330), the
Solstice schedules and the join (R331 to R360). -/

namespace Sys2Proof.Machine

/-- One direction of a link with go-back-N retry (R257, R260, R306, R308): the sender's next SEQ and the SEQs it holds
for replay, the receiver's last SEQ in order, whether it discards until the replay, whether the sender replays, how often
the flit in hand has failed, and the units last handed on with their kinds. -/
structure LinkDir where
  next    : Nat := 0
  buffer  : List Nat := []
  last    : Option Nat := none
  discarding : Bool := false
  replaying : Bool := false
  failures : Nat := 0
  handed  : List (Nat × Line) := []
deriving DecidableEq, Repr

/-- A die link or the link of a partner site (R254, R261, R263, R280). -/
structure DieLink where
  state     : BitVec 3 := 0
  failLanes : BitVec 10 := 0
  firstLane : BitVec 10 := 0
  dir       : Bool := false
  crcErr    : DWord := 0
  retries   : DWord := 0
  dir0      : LinkDir := {}
  dir1      : LinkDir := {}
  /-- Retries of each direction in the present ms of reference time (R261). -/
  ms        : Nat := 0
  retryMs0  : Nat := 0
  retryMs1  : Nat := 0
  /-- A lane has lost lock. -/
  lost      : Bool := false
  /-- A pending injection: direction and transmissions left (R263). -/
  inject    : Option (Bool × Nat) := none
deriving DecidableEq, Repr

/-- One segment entry, the fields of R316 but CRC (computed). -/
structure Seg where
  kind      : Nat := 0
  sizeLog2  : Nat := 0
  rights    : BitVec 8 := 0
  context   : Nat := 0
  partition : Nat := 0
  device    : Nat := 0
  offset    : Nat := 0
  peer      : Nat := 0
  count     : Nat := 0
  generation : BitVec 32 := 0
deriving DecidableEq, Repr

/-- Where the response of a remote request goes (R324, R326, R503): registers of a thread group's lane, a read or a
write of a copy descriptor and its counter add, an acknowledgement that only fences wait for, a fallback stream, a join
message, a party that makes its access again once the bytes are there. -/
inductive RemoteDest where
  | regs (core slot lane reg count : Nat)
  | copyRead (core cpe id off : Nat)
  | copyWrite (core cpe id : Nat)
  | copyAdd (core cpe id : Nat)
  | ack (core queue : Nat)
  | stream (g stream bytes : Nat)
  | streamAdd (g stream : Nat)
  | join (g : Nat)
  /-- Bytes that a stream or code fetch, a WAITMEM or the hub waits for: the waiting party. -/
  | buffer (owner : Nat)
deriving DecidableEq, Repr

/-- The operations of the firewall (R274, R280). -/
inductive SiteOp where
  | read | write | atomic | reduce | counter
deriving DecidableEq, Repr

/-- A request of a partner die that the firewall holds (R275, R276): its rule and what it asks. -/
structure SiteIn where
  rule : Nat := 0
  op   : SiteOp := .read
  aop  : AtomOp := .add
  addr : Nat := 0
  len  : Nat := 0
  data : List Byte := []
  cmp  : BitVec 64 := 0
deriving DecidableEq, Repr

/-- An outbound request without answer (R278). -/
structure SiteReq where
  id     : Nat := 0
  size   : Nat := 0
  req    : Req := {}
  /-- Where the answer goes. -/
  dest   : RemoteDest := .ack 0 7
  since  : Nat := 0
deriving DecidableEq, Repr

/-- What the training of a partner site came to (R264, R268): no link came up, it failed, or the link runs with a rate and
a number of modules (codes of R280). -/
inductive SiteTraining where
  | nothing
  | failed
  | up (rate : BitVec 2) (modules : BitVec 3)
deriving DecidableEq, Repr

/-- The states of a partner site (R280). -/
inductive SiteState where
  | empty | training | discovery | admitted | disabled | quiesced
deriving DecidableEq, Repr

/-- One partner site (R266 to R280). -/
structure Site where
  state   : SiteState := .empty
  openMode : Bool := false
  reason  : BitVec 4 := 0
  rate    : BitVec 2 := 0
  modules : BitVec 3 := 0
  powerW  : BitVec 8 := 0
  /-- Firewall rules of 32 bytes by number; unlisted ones are all zero. -/
  rules   : Tab (BitVec 256) := []
  /-- Bucket of each inbound rule: bytes held, and the reference time of the last gain (R276). -/
  buckets : Tab (Nat × Nat) := []
  held    : List SiteIn := []
  /-- Answers given to the partner's fenced requests, oldest first: bytes, or none for an error completion. -/
  answers : List (Option (List Byte)) := []
  outbound : List SiteReq := []
  denied  : DWord := 0
  lastDenied : DWord := 0
  /-- The partner record with which it was last admitted (R266, R481). -/
  record  : List Byte := []
  /-- Rules that the last FW_RULES left in force (R384). -/
  fwRun   : Bool := false
  /-- May the site be open again before the next full recovery (R271, R272)? -/
  keepFenced : Bool := false
  /-- The slices take back its lines: 1 to be fenced (R271), 2 to be quiesced (R278); 0 not. -/
  closing : Nat := 0
  /-- The SITE_RESET that has put it into training (R384), 0 for none. -/
  resetBy : Nat := 0
deriving DecidableEq, Repr

/-- Links 0 to 7, the links of the sites as 8 and 9, and the sites. -/
structure Links where
  links : Tab DieLink := []
  sites : Tab Site := []
deriving DecidableEq, Repr

/-- A remote request of this device without response (R327, R328). -/
structure Outstanding where
  tag     : Nat := 0
  hdr     : Line := 0
  dest    : RemoteDest := .join 0
  core    : Nat := 0xFFFF
  queue   : Nat := 7
  /-- The import entry through which it was translated, none for a message of the hub's (R320). -/
  imp     : Option Nat := none
  since   : Nat := 0
deriving DecidableEq, Repr

/-- A packet: its header unit and its data bytes (R322). -/
structure Packet where
  hdr  : Line := 0
  data : List Byte := []
deriving DecidableEq, Repr

/-- An inbound request performed whose COMP awaits the INV_DONE of these writes (R323). -/
structure Inbound where
  hdr  : Line := 0
  ids  : List Nat := []
  flags : RedFlags := {}
deriving DecidableEq, Repr

/-- A fabric port (R302 to R311, R330). -/
structure Port where
  state     : BitVec 3 := 0
  failLanes : BitVec 4 := 0
  peer      : BitVec 16 := 0
  peerPort  : BitVec 5 := 0
  miscabled : Bool := false
  optical   : Bool := false
  crcErr    : DWord := 0
  retries   : DWord := 0
  fec       : DWord := 0
  delayValid : Bool := false
  delayNs   : BitVec 16 := 0
  /-- The ingress: what this device receives. -/
  rx        : LinkDir := {}
  /-- The egress: what this device sends. -/
  tx        : LinkDir := {}
  ms        : Nat := 0
  retryMs   : Nat := 0
  lost      : Bool := false
  /-- Equinox units sent and not yet credited, by 2 × channel + buffer set (R358). -/
  owed      : Tab Nat := []
deriving DecidableEq, Repr

/-- The fabric. -/
structure Fabric where
  device   : BitVec 16 := 0
  zdim     : BitVec 6 := 0
  wdim     : BitVec 6 := 0
  base     : BitVec 2 := 0
  /-- Devices of the domain (R312). -/
  size     : Nat := 1
  segs     : Tab Seg := []
  /-- The GENERATION that an export index last held (R319). -/
  gens     : Tab (BitVec 32) := []
  /-- The generation floor F of the always-on domain, which an index counts as having last held (R464). -/
  floor    : BitVec 32 := 0
  inDenied : DWord := 0
  lastDenied : DWord := 0
  discarded : DWord := 0
  ports    : Tab Port := []
  tracker  : List Outstanding := []
  /-- Packets put on this device's ports whose units are not all credited yet, oldest first: egress port and packet. -/
  departed : List (Nat × Packet) := []
  inbound  : List Inbound := []
  /-- Segment entries waiting to be freed once their requests are answered (R320): index and command. -/
  unmaps   : List (Nat × Nat) := []
  /-- Response data held for the parties of RemoteDest.buffer: party, Tsuran address, bytes. -/
  arrived  : List (Nat × Nat × List Byte) := []
deriving DecidableEq, Repr

/-- A stream record (R342). -/
structure StreamRec where
  stream   : Nat := 0
  role     : BitVec 8 := 0
  context  : Nat := 0
  srcCore  : Nat := 0
  sinkCore : Nat := 0
  cpes     : BitVec 8 := 0
  ringLog2 : Nat := 0
  srcDev   : Nat := 0
  sinkDev  : Nat := 0
  ringVa   : Nat := 0
  ctrVa    : Nat := 0
  ringRemote : Nat := 0
  ctrRemote : Nat := 0
  units    : Nat := 0
deriving DecidableEq, Repr

/-- A slot entry (R342). -/
structure SlotEntry where
  point  : Nat := 0
  source : Nat := 0
  first  : Nat := 0
  slots  : Nat := 0
  stream : Nat := 0
  units  : Nat := 0
  delay  : Nat := 0
deriving DecidableEq, Repr

/-- A unit queued at a point, with the compiled slot it is due in, counted from slot 0 of epoch 0 (R343, R346). -/
structure SolUnit where
  due  : Nat := 0
  data : Line := 0
deriving DecidableEq, Repr

/-- What this device keeps of one stream (R333 to R336, R359). -/
structure StreamState where
  /-- Bytes sent, landed and consumed. -/
  sent     : Nat := 0
  landed   : Nat := 0
  consumed : Nat := 0
  stopped  : Bool := false
  /-- Fallback: bytes written and answered, bytes that adds have counted, and the count of the add without answer. -/
  written  : Nat := 0
  added    : Nat := 0
  adding   : Option Nat := none
  /-- Units that have landed in one slot: the slot, counted from epoch 0, and how many. -/
  slotAt   : Nat := 0
  slotCount : Nat := 0
deriving DecidableEq, Repr

/-- What GO tells a member (R355, R356): the job runs, on Solstice or with a cause of fallback, from T0 with a spread; or the
digests differ, that of a device first. -/
inductive JoinOutcome where
  | run (cause : Fin 3) (t0 spread : Nat)
  | mismatch (device : Nat)
deriving DecidableEq, Repr

/-- A member as the leader of a join sees it (R355). -/
structure JoinMember where
  device : Nat := 0
  digest : BitVec 256 := 0
  offset : Option Int := none
  tod    : Bool := false
deriving DecidableEq, Repr

/-- A join in progress on this device (R355). -/
structure Joining where
  cmd     : Nat := 0
  leader  : Nat := 0
  context : Nat := 0
  deadline : Nat := 0
  digest  : BitVec 256 := 0
  t1      : Nat := 0
  offset  : Option Int := none
  /-- GO: the mode (0 Solstice, else the cause of the fallback), T0 and the spread. -/
  go      : Option (Nat × Nat × Nat) := none
  members : List JoinMember := []
deriving DecidableEq, Repr

/-- One schedule index (R342, R346 to R360). -/
structure Schedule where
  state    : BitVec 3 := 0
  cause    : BitVec 3 := 0
  pace     : BitVec 5 := 0
  nextQ    : BitVec 5 := 0
  ownReq   : BitVec 5 := 0
  govReq   : BitVec 5 := 0
  lateReq  : BitVec 5 := 0
  late     : Bool := false
  time     : Bool := false
  t0       : BitVec 64 := 0
  epoch    : BitVec 64 := 0
  lateCount : DWord := 0
  overrun  : DWord := 0
  fault    : DWord := 0
  /-- The image: header and its lists. -/
  job      : BitVec 64 := 0
  digest   : List Byte := []
  paceGroup : BitVec 16 := 0
  slotNs   : Nat := 0
  guardNs  : Nat := 0
  first    : Nat := 0
  share    : Nat := 0
  partition : BitVec 4 := 0
  members  : Nat := 0
  paceInit : Nat := 0
  streams  : List StreamRec := []
  entries  : List SlotEntry := []
  /-- Start of the present epoch (R337). In fallback under R353, t(E) + P of R359. -/
  epochAt  : Nat := 0
  fallbackAt : Nat := 0
  /-- By point: the slot, counted from epoch 0, after the last in which it has sent. -/
  sentAt   : Tab Nat := []
  /-- Queues by 65,536 × point + stream (R346). -/
  queues   : Tab (List SolUnit) := []
  str      : Tab StreamState := []
  /-- The pace decided for epoch e + 2, once known (R351), whether it carries TIME, and the up records gathered. -/
  decision : Option (Nat × Bool) := none
  /-- Pace records that wait for a slot of the pace point. -/
  paceOut  : List Line := []
  ups      : List Line := []
  /-- Epochs in a row without a late unit, without LOCKED, and with the offset over its limit (R351, R353). -/
  goodRun  : Nat := 0
  unlocked : Nat := 0
  offRun   : Nat := 0
  joining  : Option Joining := none
  /-- The context of the JOIN, for fault notices (R459). -/
  joinCtx  : Nat := 0
deriving DecidableEq, Repr

/-- The Solstice path: the four schedule indexes, groups of units that a point of this device has sent to others of it, and
the last group that each egress has sent. -/
structure Solstice where
  sched : Tab Schedule := []
  wires : List (Nat × List Line) := []
  out   : Tab (List Line) := []
deriving DecidableEq, Repr

end Sys2Proof.Machine
end

