-- ==== Sys2Proof/Machine/SysTypes.lean ====
section
/-! DEFINITION. The plain data of the hub (R16, R22 to R39), reference time and the calendar (R281 to R301), the host
side of the link, power (R417 to R443), security (R466 to R486) and supplies (R487 to R501). -/

namespace Sys2Proof.Machine

/-- What the hub shows of its dies and of the core map (R16, R26 to R39). -/
structure Hub where
  feature    : BitVec 8 := 0
  bootStatus : BitVec 8 := 0x01
  /-- HUB_DIE_REV_n: type, stepping, greatest level; HUB_DIE_SERIAL_n. -/
  dieRevs    : Tab (Nat × Nat × Nat) := []
  dieSerials : Tab Nat := []
  checkVersion : BitVec 8 := 0
  checkDone  : Bool := false
  checkFail  : Bool := false
  checkA     : BitVec 3 := 0
  checkB     : BitVec 3 := 0
  checkCap   : BitVec 8 := 0
  sparesUsed : BitVec 8 := 0
  spareReason : BitVec 4 := 0
  spareDie   : BitVec 3 := 0
  spareRow   : BitVec 4 := 0
  spareSlice : BitVec 6 := 0
  /-- HUB_CORE_MAP_n of the 48 rows. -/
  coreMap    : Tab Nat := []
  /-- The sparing record as boot accepted it (R31), and the last BIST failure mask of each row. -/
  sparing    : List Byte := []
  bist       : Tab Nat := []
deriving DecidableEq, Repr

/-- What a die reports (R34): type, stepping, greatest level, serial. -/
structure DieRev where
  kind     : BitVec 8 := 0
  stepping : BitVec 8 := 0
  level    : BitVec 8 := 0
  serial   : BitVec 64 := 0
deriving DecidableEq, Repr

/-- What the map-building steps meet (R35 to R37): a die whose record cannot be read, the records in the order CD0 to CD3, HD,
the compatibility table of the image with its version, and the failures that the self-tests find. -/
structure MapInputs where
  unread   : Option (Fin 5) := none
  dies     : List DieRev := []
  version  : BitVec 8 := 0
  compat   : List ((BitVec 8 × BitVec 8) × (BitVec 8 × BitVec 8) × BitVec 8) := []
  hubOk    : Bool := true
  badSlice : Option (Fin 256) := none
  /-- Failed columns of the rows, 12 × die + row; rows that are not listed pass. -/
  bist     : List (Fin 48 × BitVec 13) := []
deriving DecidableEq, Repr

/-- What the training of a fabric port came to (R305). -/
structure PortTraining where
  up       : Bool := false
  failLanes : BitVec 4 := 0
  peer     : BitVec 16 := 0
  peerPort : BitVec 5 := 0
  optical  : Bool := false
deriving DecidableEq, Repr

/-- What training came to: the channels that fail in each attempt (R246, R247), the die-link lanes that fail (R262), the
ports. -/
structure TrainInputs where
  channels : List (List (Fin 256)) := []
  links    : List (Fin 8 × Bool × BitVec 10 × BitVec 10) := []
  ports    : List (Fin 18 × PortTraining) := []
deriving DecidableEq, Repr

/-- What boot meets (R466 to R476): the outcome of the PUF reconstruction, the identity key (modulus, then private exponent),
the certificate and whether its key matches, the counters (none: their authentication fails) and whether their raises succeed,
the keys of the mask ROM and of the image, and the slots and records of the flash. -/
structure BootInputs where
  seed     : Bool := true
  key      : List Byte := []
  cert     : List Byte := []
  certOk   : Bool := true
  counters : Option (List (BitVec 32)) := none
  raise2   : Bool := true
  raise9   : Bool := true
  romKeys  : List (BitVec 256) := []
  factory  : List Byte := []
  ownerKeys : List (List Byte) := []
  imageA   : List Byte := []
  imageB   : List Byte := []
  sparing  : List Byte := []
  owner    : List Byte := []
  configA  : List Byte := []
  configB  : List Byte := []
  map      : MapInputs := {}
  train    : TrainInputs := {}
deriving DecidableEq, Repr

/-- What a full recovery meets (R438, R462, R479): whether every sensor reads below 85 °C, the image in the slot booted, the
map-building steps and the training; and rows retested by a compute-part reset. -/
structure RecoveryInputs where
  cool     : Bool := true
  image    : List Byte := []
  map      : MapInputs := {}
  train    : TrainInputs := {}
deriving DecidableEq, Repr

/-- States of the reference-time unit (R286). -/
inductive TimState where
  | unset | acquiring | locked | holdover
deriving DecidableEq, Repr

/-- The time inputs (R285): REF_10M, REF_PPS, PTP over the fabric, PTP through the host, REF_FRAME. -/
inductive TimeInput where
  | ref10m | pps | ptpFabric | ptpHost | frame
deriving DecidableEq, Repr

/-- Why an input is rejected (R285, R301). -/
inductive RejectCause where
  | stop | jump | drift
deriving DecidableEq, Repr

/-- An input as the unit judges it: qualified, or since when it has met every limit (R285). -/
structure InputState where
  qualified : Bool := false
  since     : Nat := 0
  /-- Edges counted toward requalification, and the last one (REF_FRAME). -/
  good      : Nat := 0
  last      : Nat := 0
deriving DecidableEq, Repr

/-- IEEE 1588 timestamps kept for a fabric port (R284, R311). -/
structure PtpPort where
  syncAt    : Option Nat := none
  t1        : Option Nat := none
  /-- The last peer delays in ns, newest first, at most 8. -/
  delays    : List Nat := []
  served    : Option Nat := none
deriving DecidableEq, Repr

/-- The reference-time unit (R281 to R290, R301) and the idle states (R298 to R301). -/
structure Tim where
  now     : BitVec 64 := 0
  /-- Fraction of a nanosecond in units of 2^-32. -/
  frac    : BitVec 32 := 0
  /-- Rate correction in force, in parts per 10^9: what the unit has learned, and the steering. -/
  learned : Int := 0
  steer   : Int := 0
  /-- The offset that a slew has still to take away, in parts per 10^6 of a ns (R288). -/
  toSlew  : Int := 0
  state   : TimState := .unset
  src     : BitVec 3 := 0
  todValid : Bool := false
  stepped : Bool := false
  slewing : Bool := false
  frameLocked : Bool := false
  frameHoldover : Bool := false
  rejectCause : BitVec 4 := 0
  rejectInput : BitVec 4 := 0
  rejects : BitVec 12 := 0
  primary : BitVec 4 := 0
  secondary : BitVec 4 := 0
  ptpDomain : BitVec 8 := 0
  syncExp : BitVec 4 := 0
  hostTraceable : Bool := false
  num     : BitVec 16 := 0
  den     : BitVec 16 := 1
  /-- A rate that takes effect at the next edge (R290). -/
  nextRate : Option (BitVec 16 × BitVec 16) := none
  offset  : BitVec 32 := 0
  frame   : BitVec 48 := 0
  frameEdge : BitVec 64 := 0
  /-- The last real edge, or the edge of a change of rate, and the edges synthesised since (R289). -/
  synFrom : Nat := 0
  synCount : Nat := 0
  /-- After a rate of 0, no edge is synthesised before REF_FRAME qualifies (R290). -/
  noSyn   : Bool := false
  inputs  : Tab InputState := []
  /-- TAI second that a TIME_SET named, and the command (R287). -/
  setTo   : Option (Nat × Nat) := none
  lastPps : Option Nat := none
  ports   : Tab PtpPort := []
  idle    : BitVec 3 := 0
  maxState : BitVec 3 := 1
  margin  : BitVec 10 := 2
  /-- Reference time at which a wake ends; the unscheduled causes held until then (R300). -/
  wakeEnd : Option Nat := none
  held    : Nat := 0
  /-- Reference time at which the entry to the idle state is complete. -/
  entryEnd : Nat := 0
deriving DecidableEq, Repr

/-- One calendar entry (R291), with the number of its next firing (R294). -/
structure CalEntry where
  due     : BitVec 64 := 0
  period  : BitVec 64 := 0
  offset  : BitVec 32 := 0
  cls     : BitVec 8 := 0
  base    : Bool := false
  context : BitVec 8 := 0
  partition : BitVec 4 := 0
  arg     : BitVec 64 := 0
  n       : Nat := 0
  /-- How often it has fired. -/
  count   : Nat := 0
  /-- It was armed with a due time already past (R296). -/
  past    : Bool := false
  /-- The command that armed it for itself (a LAUNCH's deadline, a PHASE), 0 for none. -/
  cmd     : Nat := 0
deriving DecidableEq, Repr

/-- The event calendar. -/
structure Calendar where
  entries : Tab CalEntry := []
  late    : BitVec 16 := 0
  /-- Start of the present 100 ns window and the entries fired in it (R295). -/
  window  : Nat := 0
  fired   : Nat := 0
deriving DecidableEq, Repr

/-- What the device has put on the PCI Express link: host memory as it wrote it, MSI-X messages in order, and whether the link
is up (R373, R376, R495, R497). -/
structure HostSide where
  mem    : Mem := []
  msix   : List (Nat × Nat) := []
  linkUp : Bool := false
deriving DecidableEq, Repr

/-- What the last completed loop step found, in mW: package input, uncore, the cores that it does not throttle, and of those
that it does the power at level 0 and the leakage in it (R420, R425). -/
structure LoopStep where
  power  : Nat := 0
  uncore : Nat := 0
  others : Nat := 0
  full   : Nat := 0
  leak   : Nat := 0
deriving DecidableEq, Repr

/-- Power and thermal control (R417 to R443). -/
structure Power where
  level      : BitVec 4 := 0
  hot        : Bool := false
  sealBreach : Bool := false
  coolantHigh : Bool := false
  calOut     : Bool := false
  /-- Target of the last step, and the thermal target, in mW. -/
  target     : Nat := 3000000
  thermal    : Nat := 3600000
  /-- The boost credit, and the energy since power-on, of the package and of each partition's cores, in nJ. -/
  credit     : Nat := 6000000000
  energy     : Nat := 0
  partEnergy : Tab Nat := []
  last       : LoopStep := {}
  tjMax      : BitVec 12 := 0
  tjDie      : BitVec 3 := 0
  coolant    : BitVec 12 := 0
  coolantValid : Bool := false
  /-- PWR_DIE_CAL_d. -/
  ratios     : Tab (BitVec 16) := []
  measured   : Tab (BitVec 16) := []
  /-- Dies whose raw ratio has left its range (R419). -/
  outDies    : List Nat := []
  /-- Sum of a die's estimates in the present millisecond, in nJ. -/
  msEnergy   : Tab Nat := []
  stretches  : Tab DWord := []
  /-- Power of each partition's cores in the last step in mW, and the highest level among them. -/
  partCore   : Tab Nat := []
  /-- Power of each core in the last step in mW (R430). -/
  coreLast   : Tab Nat := []
  partLevel  : Tab Nat := []
  /-- Hints in force: POWER_W, reference time of the end, context (R428, R429). -/
  rises      : List (Nat × Nat × Nat) := []
  falls      : List (Nat × Nat × Nat) := []
  /-- The regulator set points are raised (R429). -/
  setPoint   : Bool := false
  /-- Dies that have stretched in the present window; windows with stretches in a row; the end of the level that R422 holds. -/
  stretched  : List Nat := []
  stretchRuns : Tab Nat := []
  droopEnd   : Tab Nat := []
  stretchAt  : Tab Nat := []
  /-- Calibration ratios at the moment of sealing, by 8 × partition + die (R434). -/
  frozen     : Tab (BitVec 16) := []
  /-- Reference times: since which TJ_MAX is at or above 95 °C, below 90 °C, the inlet above 40 °C, at or below 39 °C; of the
  last breaching step, the last loop step, the last window, the last calibration of each die. -/
  hotSince   : Option Nat := none
  coolSince  : Option Nat := none
  inletSince : Option Nat := none
  inletCool  : Option Nat := none
  breachAt   : Nat := 0
  lastStep   : Nat := 0
  windowAt   : Nat := 0
  calAt      : Tab Nat := []
  /-- THERM_N is asserted. -/
  therm      : Bool := false
deriving DecidableEq, Repr

/-- The security block (R466 to R486). -/
structure Security where
  locked   : Bool := false
  identity : Bool := false
  certOk   : Bool := false
  imageSlot : Bool := false
  configSlot : Bool := false
  reason   : BitVec 4 := 0
  debugMode : BitVec 2 := 0
  eventNext : BitVec 32 := 0
  counters : Tab (BitVec 32) := []
  fwVersion : BitVec 32 := 0
  meas     : Tab (BitVec 256) := []
  pmeas    : Tab (BitVec 256) := []
  events   : Tab (BitVec 128) := []
  cert     : Mem := []
  /-- Kept by the always-on domain: the configuration record, the owner's key, the digest of the booted image (R475,
  R479). -/
  config   : List Byte := []
  owner    : List Byte := []
  digest   : BitVec 256 := 0
  key      : List Byte := []
deriving DecidableEq, Repr

/-- Supplies, pins and the sideband (R487 to R501). -/
structure Supplies where
  mainOk   : Bool := false
  auxOk    : Bool := false
  onAux    : Bool := false
  pwrOk    : Bool := false
  resetN   : Bool := false
  refclkOk : Bool := false
  pwrOkBad : Bool := false
  vinMain  : BitVec 8 := 0
  vinAux   : BitVec 8 := 0
  switchovers : BitVec 8 := 0
  resetPulses : BitVec 8 := 0
  glitches : BitVec 8 := 0
  /-- The always-on domain has left reset (R491). -/
  on       : Bool := false
  /-- Power is away from the compute part while memory is kept (R489, R493, R494). -/
  partOff  : Bool := false
  /-- Since when PWR_OK has been high while VIN_MAIN is out of range (R492). -/
  badSince : Option Nat := none
  i3cAddr  : Option (BitVec 7) := none
  i3cSelect : BitVec 24 := 0
  i3cData  : Word := 0
deriving DecidableEq, Repr

end Sys2Proof.Machine
end

