-- ==== Sys2Proof/Syntax.lean ====
section
/-! DEFINITION. The commands of the block: one constructor for each row of the opcode table, in its order. Queue and
thread instructions name the queue or group that issues: their fields stand in the fetched word. -/

namespace Sys2Proof

/-- A command of the Aethunex A4. -/
inductive Instr where
  /-- NOP (R42): Shared queue instruction that takes one issue cycle and does nothing else. -/
  | nop (core : Fin 576) (q : Machine.Eng)
  /-- END (R42): Ends this queue for the current kernel, including from inside a loop body. -/
  | endQueue (core : Fin 576) (q : Machine.Eng)
  /-- SIGNAL (R42): Issues a semaphore add that is performed once every earlier instruction of its queue has completed. -/
  | signal (core : Fin 576) (q : Machine.Eng)
  /-- SIGNAL_PERFORM (R47): Once earlier instructions of the queue complete, the SIGNAL adds AMOUNT to the semaphore and the WAITs are tested and granted in round-robin order. -/
  | signalPerform (core : Fin 576) (qs : List Machine.Eng)
  /-- WAIT (R42): Holds the queue until semaphore SEM is at least VALUE, with an optional take. -/
  | wait (core : Fin 576) (q : Machine.Eng)
  /-- WAITMEM (R503): Holds the queue until a 64-bit counter cell is at least VALUE + STEP × I, and reads or watches the cell according to where it lies. -/
  | waitmem (core : Fin 576) (q : Machine.Eng)
  /-- WAITMEM_NOTICE (R503): The home slice notifies the sequencer that the watched line was written, and the cell is read again and the wait may release. -/
  | waitmemNotice (core : Fin 576) (q : Machine.Eng)
  /-- WAIT_TIMEOUT (R49): A WAIT or WAITMEM whose 2^TIMEOUT_EXP µs of resident reference time expires raises a context fault with status TIMEOUT. -/
  | waitTimeout (core : Fin 576) (q : Machine.Eng)
  /-- QUEUE_DEADLOCK (R50): When every queue that has not ended is held in WAIT and nothing is incomplete, the sequencer raises a context fault on the lowest waiting queue. -/
  | queueDeadlock (core : Fin 576)
  /-- FENCE (R165): Holds the queue until its earlier writes are performed and their invalidations applied at the scope named. -/
  | fence (core : Fin 576) (q : Machine.Eng)
  /-- LOOP (R45): Runs the next BODY instructions COUNT times, with its own iteration index. -/
  | loop (core : Fin 576) (q : Machine.Eng)
  /-- GRANULE_FETCH (R52): A 64-byte granule of a stream fetched through the LLC arrives at the sequencer and its instructions enter the queue. -/
  | granuleFetch (core : Fin 576) (q : Machine.Eng)
  /-- ISSUE (R63): Copy-engine instruction that runs COUNT consecutive copy descriptors from DESC_ADDR + STEP × I. -/
  | issue (core : Fin 576) (cpe : Fin 2)
  /-- DESCRIPTOR_START (R66): A CPE reaches a copy descriptor, checks it, and starts its transfer once it has room and no overlap with a descriptor in flight. -/
  | descriptorStart (core : Fin 576) (cpe : Fin 2)
  /-- DESCRIPTOR_COMPLETE (R68): When every byte of a descriptor is performed at its destination, the CPE makes the descriptor's single atomic counter add. -/
  | descriptorComplete (core : Fin 576) (cpe : Fin 2) (index : Fin 16)
  /-- CORE_START (R55): A core assigned to a kernel sets its split, zeroes the scratchpad, writes the launch header and arguments, clears its state and starts all five queues. -/
  | coreStart (core : Fin 576)
  /-- CORE_END (R57): Once all five queues have reached END and every instruction has completed, the core invalidates its caches, adds to DONE_CTR and reports the end to the hub. -/
  | coreEnd (core : Fin 576)
  /-- LDB (R81): Loads K_SLABS slabs of a B operand from scratchpad into stage slots and marks them valid with their format. -/
  | ldb (core : Fin 576)
  /-- MMA (R86): Multiplies A from scratchpad by B from the stage into one accumulator tile, group by group, in FP32, INT32 or exact mode. -/
  | mma (core : Fin 576)
  /-- ACCMODE (R81): Selects FP32 or exact accumulator mode and makes every tile empty. -/
  | accmode (core : Fin 576)
  /-- ACCZERO (R81): Makes the tiles named in MASK empty and clears their flags. -/
  | acczero (core : Fin 576)
  /-- ACCST (R82): Stores one tile's raw contents to scratchpad. -/
  | accst (core : Fin 576)
  /-- ACCLD (R97): Loads one tile's raw contents from scratchpad and sets its type and flags. -/
  | accld (core : Fin 576)
  /-- STSTAT (R98): Stores the status words of the named tiles to scratchpad and optionally clears their flags, as one step. -/
  | ststat (core : Fin 576)
  /-- SETLEN (R106): Sets the VXE length register ROWS and COLS from a total, a step and a loop index. -/
  | setlen (core : Fin 576)
  /-- VXE_LD (R116): Loads ROWS rows of COLS elements from scratchpad into a tile register. -/
  | vxeLd (core : Fin 576)
  /-- VXE_ST (R116): Stores ROWS rows of COLS elements from a tile register to scratchpad. -/
  | vxeSt (core : Fin 576)
  /-- STSLAB (R123): Stores the active rows of a narrowed register as lanes of a dense MXE slab. -/
  | stslab (core : Fin 576)
  /-- ALU (R117): Element-wise VXE operation or compare of A and B. -/
  | alu (core : Fin 576)
  /-- FMA (R112): Fused element-wise D = A × B + C, rounded once. -/
  | fma (core : Fin 576)
  /-- VXE_SEL (R117): Takes A where the C element is not zero and B elsewhere, moving bits unchanged. -/
  | vxeSel (core : Fin 576)
  /-- VXE_FUNC (R125): Computes an activation or transcendental function of A with the bits of the reference tables. -/
  | vxeFunc (core : Fin 576)
  /-- VXE_CVT (R121): Converts A to another format, with optional scaling, pairing, block scales and saturation. -/
  | vxeCvt (core : Fin 576)
  /-- RED (R126): Reduces the active elements of A along rows or columns with an exact sum rounded once, or with MAX or MIN. -/
  | red (core : Fin 576)
  /-- VSTAT (R130): Stores the VXE sticky flags to scratchpad and optionally clears them, as one step. -/
  | vstat (core : Fin 576)
  /-- TSTART (R134): TGE queue instruction that asks for GROUPS thread groups to start at PC with ARG. -/
  | tstart (core : Fin 576)
  /-- TSTART_GROUPS_START (R135): Once no earlier TSTART waits and enough resident slots are free, all groups of the TSTART start in one cycle with their initial registers. -/
  | tstartGroupsStart (core : Fin 576)
  /-- TSTART_COMPLETE (R135): A TSTART completes once every one of its threads has exited and their writes have completed. -/
  | tstartComplete (core : Fin 576) (index : Nat)
  /-- THREAD_NOP (R138): Thread instruction that does nothing. -/
  | threadNop (core : Fin 576) (slot : Fin 64)
  /-- EXIT (R146): The active lanes of the path end, the path is removed, and parked paths may merge. -/
  | exit (core : Fin 576) (slot : Fin 64)
  /-- BRNZ (R145): Each active lane branches if s[A] is not zero, splitting the path when the lanes disagree. -/
  | brnz (core : Fin 576) (slot : Fin 64)
  /-- BRZ (R145): Each active lane branches if s[A] is zero, splitting the path when the lanes disagree. -/
  | brz (core : Fin 576) (slot : Fin 64)
  /-- PATH_ROTATION (R147): When a path's backward-branch count reaches 64, the group becomes the youngest and the running path yields to another path. -/
  | pathRotation (core : Fin 576) (slot : Fin 64)
  /-- ADD (R140): Thread integer add, wrapping modulo 2^32. -/
  | add (core : Fin 576) (slot : Fin 64)
  /-- SUB (R140): Thread integer subtract, wrapping modulo 2^32. -/
  | sub (core : Fin 576) (slot : Fin 64)
  /-- MUL (R140): Thread integer multiply giving the low 32 bits. -/
  | mul (core : Fin 576) (slot : Fin 64)
  /-- MULHI (R140): Thread multiply giving the high 32 bits of the unsigned product. -/
  | mulhi (core : Fin 576) (slot : Fin 64)
  /-- AND (R138): Thread bitwise and. -/
  | and (core : Fin 576) (slot : Fin 64)
  /-- OR (R138): Thread bitwise or. -/
  | or (core : Fin 576) (slot : Fin 64)
  /-- XOR (R138): Thread bitwise exclusive or. -/
  | xor (core : Fin 576) (slot : Fin 64)
  /-- SHL (R140): Thread shift left by bits [4:0] of s[B]. -/
  | shl (core : Fin 576) (slot : Fin 64)
  /-- SHR (R140): Thread logical shift right by bits [4:0] of s[B]. -/
  | shr (core : Fin 576) (slot : Fin 64)
  /-- SRA (R140): Thread arithmetic shift right by bits [4:0] of s[B]. -/
  | sra (core : Fin 576) (slot : Fin 64)
  /-- SLT (R140): Thread signed compare giving 1 or 0. -/
  | slt (core : Fin 576) (slot : Fin 64)
  /-- SLTU (R140): Thread unsigned compare giving 1 or 0. -/
  | sltu (core : Fin 576) (slot : Fin 64)
  /-- ADD64 (R140): Thread 64-bit add of register pairs, wrapping modulo 2^64. -/
  | add64 (core : Fin 576) (slot : Fin 64)
  /-- ADDI (R138): Thread add of a 32-bit immediate. -/
  | addi (core : Fin 576) (slot : Fin 64)
  /-- MOVI (R138): Thread move of a 32-bit immediate. -/
  | movi (core : Fin 576) (slot : Fin 64)
  /-- THREAD_SEL (R138): Thread select of B if A is not zero, else C. -/
  | threadSel (core : Fin 576) (slot : Fin 64)
  /-- FADD (R140): Thread FP32 add. -/
  | fadd (core : Fin 576) (slot : Fin 64)
  /-- FSUB (R140): Thread FP32 subtract. -/
  | fsub (core : Fin 576) (slot : Fin 64)
  /-- FMUL (R140): Thread FP32 multiply. -/
  | fmul (core : Fin 576) (slot : Fin 64)
  /-- FFMA (R140): Thread fused FP32 A × B + C. -/
  | ffma (core : Fin 576) (slot : Fin 64)
  /-- FMIN (R140): Thread FP32 minimum. -/
  | fmin (core : Fin 576) (slot : Fin 64)
  /-- FMAX (R140): Thread FP32 maximum. -/
  | fmax (core : Fin 576) (slot : Fin 64)
  /-- FSLT (R140): Thread FP32 less-than compare, 0 on NaN. -/
  | fslt (core : Fin 576) (slot : Fin 64)
  /-- FSEQ (R140): Thread FP32 equality compare, 0 on NaN. -/
  | fseq (core : Fin 576) (slot : Fin 64)
  /-- THREAD_CVT (R140): Thread format conversion as R121 gives with SCALE_EXP 0. -/
  | threadCvt (core : Fin 576) (slot : Fin 64)
  /-- THREAD_FUNC (R140): Thread FP32 function giving the same bits as the VXE. -/
  | threadFunc (core : Fin 576) (slot : Fin 64)
  /-- THREAD_LD (R152): Thread load from scratchpad or a virtual address, through the store buffer and L1. -/
  | threadLd (core : Fin 576) (slot : Fin 64)
  /-- THREAD_ST (R153): Thread store to scratchpad, or into the store buffer for a virtual address. -/
  | threadSt (core : Fin 576) (slot : Fin 64)
  /-- AADD (R154): Thread atomic add performed at the home, returning the old value. -/
  | aadd (core : Fin 576) (slot : Fin 64)
  /-- AMIN (R154): Thread atomic signed minimum performed at the home. -/
  | amin (core : Fin 576) (slot : Fin 64)
  /-- AMAX (R154): Thread atomic signed maximum performed at the home. -/
  | amax (core : Fin 576) (slot : Fin 64)
  /-- AEXCH (R154): Thread atomic exchange performed at the home. -/
  | aexch (core : Fin 576) (slot : Fin 64)
  /-- ACAS (R154): Thread atomic compare-and-swap performed at the home. -/
  | acas (core : Fin 576) (slot : Fin 64)
  /-- AFADD (R154): Thread atomic FP32 add performed at the home. -/
  | afadd (core : Fin 576) (slot : Fin 64)
  /-- THREAD_FENCE (R156): Thread memory fence at a scope, as acquire, release or both. -/
  | threadFence (core : Fin 576) (slot : Fin 64)
  /-- VOTE (R149): ANY, ALL or BALLOT of s[A] over the active lanes. -/
  | vote (core : Fin 576) (slot : Fin 64)
  /-- SHFL (R149): Each active lane takes s[A] of the lane named by its own s[B]. -/
  | shfl (core : Fin 576) (slot : Fin 64)
  /-- BAR (R150): Holds a converged group at a barrier of the groups of one TSTART. -/
  | bar (core : Fin 576) (slot : Fin 64)
  /-- BAR_RELEASE (R150): When the last group of the TSTART arrives, all waiting groups are released together with block-scope visibility. -/
  | barRelease (core : Fin 576) (index : Nat)
  /-- GRPMUL (R151): Group tile multiply of 16 × K by K × 16 from scratchpad plus C, rounded once into eight registers per lane. -/
  | grpmul (core : Fin 576) (slot : Fin 64)
  /-- STORE_BUFFER_DRAIN (R153): A store-buffer entry drains as one write to its home slice and into any L1 copy, within 1 µs of its first store. -/
  | storeBufferDrain (core : Fin 576) (index : Fin 32)
  /-- INVALIDATION_APPLY (R221): The L1 applies the next entry of its invalidation queue, within 256 cycles of its entry. -/
  | invalidationApply (core : Fin 576)
  /-- RD_ONCE (R218): Cacheless read of 1 to 64 bytes served at the home slice, keeping no copy. -/
  | rdOnce (requester : Fin 2329) (line : BitVec 42) (off : Fin 64) (len : Nat) (ctx : BitVec 8) (part : BitVec 4) (device : BitVec 16) (lastUse : Bool)
  /-- RD_SHARED (R218): Read of a line that keeps a shared copy at the requester. -/
  | rdShared (requester : Fin 2329) (line : BitVec 42) (ctx : BitVec 8) (part : BitVec 4) (device : BitVec 16) (lastUse : Bool)
  /-- RD_UNIQUE (R218): Read of a line that the requester will own. -/
  | rdUnique (requester : Fin 2329) (line : BitVec 42) (ctx : BitVec 8) (part : BitVec 4) (device : BitVec 16)
  /-- UPGRADE (R218): A sharer asks to own a line without data. -/
  | upgrade (requester : Fin 2329) (line : BitVec 42) (ctx : BitVec 8) (part : BitVec 4) (device : BitVec 16)
  /-- WR_THROUGH (R218): Store-buffer drain writes bytes at the home, keeping the requester's own L1 copy. -/
  | wrThrough (requester : Fin 2329) (line : BitVec 42) (ctx : BitVec 8) (part : BitVec 4) (device : BitVec 16) (lastUse : Bool)
  /-- WR_INV (R218): Cacheless write that invalidates every copy of the line. -/
  | wrInv (requester : Fin 2329) (line : BitVec 42) (ctx : BitVec 8) (part : BitVec 4) (device : BitVec 16)
  /-- ATOMIC (R218): Atomic, counter add or reduction update performed at the home slice. -/
  | atomic (requester : Fin 2329) (line : BitVec 42) (op : Machine.AtomOp) (off : Fin 64) (len : Nat) (operand : BitVec 512) (compare : BitVec 64) (ctx : BitVec 8) (part : BitVec 4) (device : BitVec 16) (lastUse : Bool)
  /-- WR_BACK (R224): An owner in M returns the line with its data and drops it. -/
  | wrBack (agent : Fin 582) (line : BitVec 42)
  /-- EVICT (R218): An owner in E or a sharer drops its copy. -/
  | evict (agent : Fin 582) (line : BitVec 42)
  /-- SNP_INV (R221): Home snoop that invalidates a copy; an L1 queues it and answers INV_ACK. -/
  | snpInv (agent : Fin 582) (line : BitVec 42)
  /-- SNP_SHARE (R218): Home snoop by which the owner keeps a shared copy and returns data if in M. -/
  | snpShare (agent : Fin 582) (line : BitVec 42)
  /-- SNP_RECALL (R218): Home snoop by which the owner drops the line and returns data if in M. -/
  | snpRecall (agent : Fin 582) (line : BitVec 42)
  /-- COMP (R220): The home reports a request performed and its invalidations acknowledged. -/
  | comp (id : Nat)
  /-- INV_DONE (R220): The home reports every invalidation that a request caused as applied, releasing waiting fences. -/
  | invDone (id : Nat)
  /-- RETRY (R226): The slice refuses a request for lack of capacity and queues the requester. -/
  | retry (slice : Fin 256) (requester : Fin 2329)
  /-- CREDIT (R226): The slice grants a queued requester its credit so that it resends. -/
  | credit (slice : Fin 256)
  /-- INV_ACK (R220): An L1 acknowledges that an SNP_INV has entered its queue. -/
  | invAck (agent : Fin 582) (line : BitVec 42)
  /-- SNP_ACK (R219): A snooped agent answers without data, or with its line already gone. -/
  | snpAck (agent : Fin 582) (line : BitVec 42)
  /-- SNP_ACK_WB (R224): A snooped agent answers that a WR_BACK for the line is already in flight. -/
  | snpAckWb (agent : Fin 582) (line : BitVec 42)
  /-- FAULT (R230): The home answers that the coherent domain is down and the request is not performed. -/
  | fault (requester : Fin 2329) (line : BitVec 42)
  /-- DATA_S (R222): Line data for a shared copy arrives and is delivered, installed unless an invalidation overtook it. -/
  | dataS (requester : Fin 2329) (line : BitVec 42)
  /-- DATA_E (R223): Line data for an exclusive copy arrives and starts the owner's hold. -/
  | dataE (agent : Fin 582) (line : BitVec 42)
  /-- SNP_DATA (R219): Line data returned by an owner for a snoop is merged at the home. -/
  | snpData (agent : Fin 582) (line : BitVec 42) (data : BitVec 512)
  /-- WR_DATA (R217): Bytes and byte mask of a write or write-back arrive at the home. -/
  | wrData (requester : Fin 2329) (line : BitVec 42) (data : BitVec 512) (mask : BitVec 64)
  /-- RD_DATA (R218): Bytes of an RD_ONCE or the old value of an ATOMIC arrive at the requester. -/
  | rdData (requester : Fin 2329) (line : BitVec 42) (data : BitVec 512)
  /-- HOLD_END (R223): The 32-cycle hold on a line just won ends and a waiting snoop is answered. -/
  | holdEnd (agent : Fin 582) (line : BitVec 42)
  /-- FILL_LANDED (R190): A line fill lands at the slice, is delivered to the merged reads and the remaining accesses of the entry are performed in order. -/
  | fillLanded (line : BitVec 42) (first second : List (Fin 72 × BitVec 8))
  /-- PIN_RELEASE (R200): A pinned line that has gone 65,536 cycles without a reduction update is unpinned. -/
  | pinRelease (line : BitVec 42)
  /-- MEMORY_CONTROLLER_REDUCTION (R202): The memory controller completes a forwarded reduction update as a read-modify-write on its channel. -/
  | memoryControllerReduction (line : BitVec 42)
  /-- SNOOP_TIMEOUT (R229): A snooped agent that has not answered within 20 µs takes the coherent domain down as a job fault. -/
  | snoopTimeout (agent : Fin 582) (line : BitVec 42)
  /-- DATA_TIMEOUT (R229): Owed data not arriving within 20 µs takes the coherent domain down. -/
  | dataTimeout (requester : Fin 2329) (line : BitVec 42)
  /-- CREDIT_TIMEOUT (R229): A requester holding a CREDIT for 20 µs without resending takes the coherent domain down. -/
  | creditTimeout (slice : Fin 256) (requester : Fin 2329)
  /-- PATROL_SCRUB (R245): A controller reads the next line of its scrub pass and corrects it, recording any uncorrectable error without a fault. -/
  | patrolScrub (chan : Fin 256) (first second : List (Fin 72 × BitVec 8))
  /-- REFRESH_REPORT (R249): Every 1 ms the controller reads the memory device's refresh-rate report and sets the refresh factor and OVER_TEMP. -/
  | refreshReport (chan : Fin 256) (report : Fin 4)
  /-- DQS_TRACKING (R248): Every 32 ms a controller measures its DQS oscillators and adjusts timing, declaring a device fault on drift beyond 25 %. -/
  | dqsTracking (chan : Fin 256) (drift : Int)
  /-- SELF_REFRESH_ENTRY (R250): The slices stop sending, the channel queues drain and every channel enters self-refresh. -/
  | selfRefreshEntry
  /-- SELF_REFRESH_EXIT (R250): A calendar wake or an access starts exit from self-refresh, with DQS tracking redone before the first access. -/
  | selfRefreshExit
  /-- DIE_LINK_FLIT_RECEIVE (R260): A die-link flit is received, its CRC checked and its units handed on, or it is discarded and a NAK sent. -/
  | dieLinkFlitReceive (link : Fin 10) (dir : Bool) (flit : BitVec 1088)
  /-- DIE_LINK_NAK (R260): A NAK received on a die link makes the sender replay every flit after the named SEQ. -/
  | dieLinkNak (link : Fin 10) (dir : Bool) (ack : BitVec 10)
  /-- DIE_LINK_PERSISTENT_FAULT (R261): A die link with a persistent fault stops, tests its lanes and the hub declares a device fault. -/
  | dieLinkPersistentFault (link : Fin 8) (dir : Bool) (failed first : BitVec 10)
  /-- D2D_INJECT (R263): A physical-function write that corrupts COUNT successive transmissions of the next flit on a chosen link direction. -/
  | d2dInject (fn : Fin 16) (value : BitVec 32)
  /-- PARTNER_ADMISSION (R268): The hub trains a partner site, reads and checks its partner record, chooses the mode and loads its firewall rules. -/
  | partnerAdmission (site : Fin 2) (training : Machine.SiteTraining) (record : List (BitVec 8))
  /-- PARTNER_INBOUND_REQUEST (R275): The firewall checks kind, window, operation, context and rate of an inbound request from a fenced partner. -/
  | partnerInboundRequest (site : Fin 2) (op : Option Machine.SiteOp) (aop : Machine.AtomOp) (addr : BitVec 48) (len : Nat) (data : List (BitVec 8)) (compare : BitVec 64)
  /-- FIREWALL_BUCKET_PASS (R276): A request held at the firewall passes once its rule's byte bucket holds its size. -/
  | firewallBucketPass (site : Fin 2)
  /-- PARTNER_TIMEOUT (R278): An outbound request unanswered for 20 µs raises a context fault and quiesces the site. -/
  | partnerTimeout (site : Fin 2)
  /-- PARTNER_LINK_FAILURE (R279): A persistent link fault at a partner site disables it, and at an open site takes the coherent domain down. -/
  | partnerLinkFailure (site : Fin 2)
  /-- SOURCE_REJECT (R285): A time input that breaks a stop, jump or drift limit is rejected and the unit changes source or enters holdover. -/
  | sourceReject (input : Machine.TimeInput) (cause : Machine.RejectCause) (measured : Nat)
  /-- SOURCE_REQUALIFY (R285): A rejected time input that has met every limit for the requalification period is accepted again. -/
  | sourceRequalify (input : Machine.TimeInput)
  /-- TIME_LOCK (R286): The unit reaches LOCKED on a qualified source, stepping reference time once on the first lock with a time of day. -/
  | timeLock (offset : Int) (rate : Int)
  /-- REF_PPS_PULSE (R287): A REF_PPS pulse marks the second boundary and performs the step that a TIME_SET named. -/
  | refPpsPulse
  /-- REF_FRAME_EDGE (R289): A rising REF_FRAME edge adds 1 to the frame count and records its reference time. -/
  | refFrameEdge
  /-- SYNTHESISED_FRAME_EDGE (R289): While REF_FRAME is rejected, a synthesised edge falls due and advances the frame count. -/
  | synthesisedFrameEdge
  /-- SYNC (R284): An IEEE 1588 Sync message received or sent with a hardware timestamp. -/
  | sync (port : Fin 18) (received : Bool)
  /-- FOLLOW_UP (R284): An IEEE 1588 Follow_Up message carrying the precise Sync departure time. -/
  | followUp (port : Fin 18) (received : Bool) (origin : Nat)
  /-- PDELAY_REQ (R311): A port sends Pdelay_Req at the end of training and every 125 ms, and answers one it receives. -/
  | pdelayReq (port : Fin 18) (received : Bool)
  /-- PDELAY_RESP (R311): A Pdelay_Resp completes a peer-delay measurement and updates FAB_PORT_DELAY_p. -/
  | pdelayResp (port : Fin 18) (t2 t3 : Nat)
  /-- EPOCH (R337): A calendar EPOCH entry starts a Solstice epoch for its pace group and the members sample their pace requests. -/
  | epoch (entry : Fin 4096)
  /-- PHASE_FIRE (R428): A calendar PHASE entry fires and applies its rise or fall hint to the power control. -/
  | phaseFire (entry : Fin 4096)
  /-- DEADLINE (R410): A calendar DEADLINE entry fires and marks a non-final LAUNCH as late. -/
  | deadline (entry : Fin 4096)
  /-- LOW_POWER (R292): A calendar LOW_POWER entry sets TIM_IDLE.MAX_STATE. -/
  | lowPower (entry : Fin 4096)
  /-- TELEMETRY (R442): A calendar TELEMETRY entry writes a 64-byte telemetry record to its context's address. -/
  | telemetry (entry : Fin 4096)
  /-- HEARTBEAT (R449): Calendar entry 0 fires and hub firmware writes its beat to Midwinter. -/
  | heartbeat (entry : Fin 4096)
  /-- WAKE (R292): A calendar WAKE entry falls due, needing the device awake and doing nothing else. -/
  | wake (entry : Fin 4096)
  /-- IDLE_ENTRY (R299): The device chooses and enters the deepest allowed idle state that fits before the next event. -/
  | idleEntry
  /-- WAKE_START (R300): The device starts its wake at next(s) − wake(s) − MARGIN, or at once on an unscheduled cause. -/
  | wakeStart
  /-- FABRIC_FLIT_RECEIVE (R308): A fabric flit is received, checked and its units handed on, or discarded with a NAK. -/
  | fabricFlitReceive (port : Fin 18) (flit : BitVec 2144) (corrected : Nat)
  /-- FABRIC_NAK (R308): A NAK received on a fabric port makes the sender replay from its 4,096-flit buffer. -/
  | fabricNak (port : Fin 18) (ack : BitVec 16)
  /-- FABRIC_PORT_PERSISTENT_FAULT (R309): A port with a persistent fault stops, tests its lanes and the hub declares a device fault. -/
  | fabricPortPersistentFault (port : Fin 18) (lanes : BitVec 4)
  /-- LANE_LOCK_LOSS (R261): A die-link or fabric lane loses lock, making the link fault persistent at once. -/
  | laneLockLoss (link : Fin 28)
  /-- FORWARD (R314): HD forwards an Equinox or Solstice unit toward its destination, or discards it. -/
  | forward (port : Fin 18) (header : BitVec 512) (data : List (BitVec 8))
  /-- READ (R323): Remote read request checked and performed at the destination's home slice, answered with DATA. -/
  | read (port : Fin 18) (header : BitVec 512) (data : List (BitVec 8))
  /-- WRITE (R323): Remote write request checked and performed as WR_INV, answered with COMP. -/
  | write (port : Fin 18) (header : BitVec 512) (data : List (BitVec 8))
  /-- REMOTE_ATOMIC (R323): Remote atomic request performed at the home, answered with the old value. -/
  | remoteAtomic (port : Fin 18) (header : BitVec 512) (data : List (BitVec 8))
  /-- REDUCE (R323): Remote reduction request performed as element updates, answered with COMP and flags. -/
  | reduce (port : Fin 18) (header : BitVec 512) (data : List (BitVec 8))
  /-- COUNTER_ADD (R323): Remote 64-bit counter add performed at the home, answered with COMP. -/
  | counterAdd (port : Fin 18) (header : BitVec 512) (data : List (BitVec 8))
  /-- DATA (R323): Remote response carrying read data or an old value arrives at the requester. -/
  | data (port : Fin 18) (header : BitVec 512) (data : List (BitVec 8))
  /-- REMOTE_COMP (R324): Remote completion arrives at the requester, with any reduction flags. -/
  | remoteComp (port : Fin 18) (header : BitVec 512) (data : List (BitVec 8))
  /-- ERROR (R326): A remote ERROR response raises the context fault REMOTE_REFUSED on the issuing queue. -/
  | error (port : Fin 18) (header : BitVec 512) (data : List (BitVec 8))
  /-- REMOTE_REQUEST_TIMEOUT (R327): A remote request without response for 10 ms raises a job fault on the requesting device. -/
  | remoteRequestTimeout (tag : BitVec 14)
  /-- SLOT_SEND (R341): At each compiled slot a point sends one header and its listed data units for each schedule with an entry there. -/
  | slotSend (point : Fin 4096)
  /-- SLOT_HEADER_RECEIVE (R348): A point receives a slot header and its units, queues them, or records a Solstice collision. -/
  | slotHeaderReceive (source : Fin 4096) (header : BitVec 512) (units : List (BitVec 512))
  /-- UNIT_LAND (R334): A land point writes a unit into the sink ring and then adds 64 to the landed counter in stream order. -/
  | unitLand (core : Fin 576) (g : Fin 4) (stream : BitVec 16)
  /-- UNIT_OVERDUE (R348): A unit that has not left or landed 4,096 slots after its due slot is a collision of cause 4. -/
  | unitOverdue (g : Fin 4) (point : Fin 4096) (stream : BitVec 16)
  /-- PACE_RECORD (R350): A pace record received on the pace tree is combined up or applied down, or raises a collision on disagreement. -/
  | paceRecord (g : Fin 4)
  /-- PACE_DECISION_MISSING (R352): A member with no decision when epoch e + 2 starts takes a collision of cause 7. -/
  | paceDecisionMissing (g : Fin 4)
  /-- HELLO (R355): A joining member's timestamped HELLO with its digest reaches the leader. -/
  | hello (g : Fin 4) (device : BitVec 16) (digest : BitVec 256)
  /-- REPLY (R355): The leader's timestamped REPLY reaches the member, which computes its offset. -/
  | reply (g : Fin 4) (t2 t3 : BitVec 64)
  /-- TIME (R355): A member's offset and TOD_VALID reach the leader. -/
  | time (g : Fin 4) (device : BitVec 16) (offset : Int) (tod : Bool)
  /-- GO (R355): The leader's GO, with mode and T0, reaches a member, which arms its epoch entry. -/
  | go (g : Fin 4) (outcome : Machine.JoinOutcome)
  /-- JOIN_T0 (R355): At T0 the member's JOIN completes with OK, the mode and the spread. -/
  | joinT0 (g : Fin 4)
  /-- JOIN_TIMEOUT (R355): A member without GO by the timeout or T0 − 1 ms ends its JOIN with TIMEOUT. -/
  | joinTimeout (g : Fin 4)
  /-- EQUINOX_CREDIT_RETURN (R358): A link-control unit returns Equinox buffer space to the sender. -/
  | equinoxCreditReturn (port : Fin 18) (channel : Fin 8) (set : Bool) (units : Nat)
  /-- HOST_RING_TAIL (R366): The host's doorbell write to TAIL, ignored with OVERFLOW if it would overfill the ring. -/
  | hostRingTail (fn : Fin 16) (ring : Fin 4) (value : BitVec 32)
  /-- HOST_RING_CTRL (R365): A write to the ring control that enables a ring, resetting HEAD and TAIL, or disables it, discarding packets not taken. -/
  | hostRingCtrl (fn : Fin 16) (ring : Fin 4) (value : BitVec 32)
  /-- PACKET_TAKE (R370): The device takes the packet at HEAD when its status slot is free, writes PENDING and checks the CRC. -/
  | packetTake (fn : Fin 16) (ring : Fin 4) (packet : Option Line)
  /-- CMD_NOP (R377): Command that does nothing and returns RESULT 0. -/
  | cmdNop (fn : Fin 16) (ring : Fin 4) (index : BitVec 32)
  /-- QUERY (R447): Command that copies a BAR0 view or fault records to a destination. -/
  | query (fn : Fin 16) (ring : Fin 4) (index : BitVec 32)
  /-- PHASE (R387): Command that arms a one-shot class 2 power-phase calendar entry. -/
  | phase (fn : Fin 16) (ring : Fin 4) (index : BitVec 32)
  /-- CAL_ARM (R293): Command that arms a calendar entry for the context within its partition's quota. -/
  | calArm (fn : Fin 16) (ring : Fin 4) (index : BitVec 32)
  /-- CAL_CANCEL (R297): Command that frees a context's calendar entry. -/
  | calCancel (fn : Fin 16) (ring : Fin 4) (index : BitVec 32)
  /-- ATTEST (R482): Command that writes a 768-byte report signed with the identity key. -/
  | attest (fn : Fin 16) (ring : Fin 4) (index : BitVec 32)
  /-- CTX_CREATE (R393): Command that creates a context with its translation root, share, level, attributes and cores. -/
  | ctxCreate (fn : Fin 16) (ring : Fin 4) (index : BitVec 32)
  /-- CTX_ATTR (R379): Command that changes a context's share, Equinox level or fault attributes. -/
  | ctxAttr (fn : Fin 16) (ring : Fin 4) (index : BitVec 32)
  /-- CTX_DESTROY (R382): Command that tears a context down and frees its number. -/
  | ctxDestroy (fn : Fin 16) (ring : Fin 4) (index : BitVec 32)
  /-- APERTURE (R364): Command that maps or unmaps the function's BAR2 window onto a context's address space. -/
  | aperture (fn : Fin 16) (ring : Fin 4) (index : BitVec 32)
  /-- LAUNCH (R380): Command that checks launch descriptors and runs a kernel, with optional deadline and fallback model. -/
  | launch (fn : Fin 16) (ring : Fin 4) (index : BitVec 32)
  /-- ABORT (R381): Command that cancels the oldest non-final command of a ring with a given SEQ. -/
  | abort (fn : Fin 16) (ring : Fin 4) (index : BitVec 32)
  /-- SEG_MAP (R318): Command that writes an import or export segment entry. -/
  | segMap (fn : Fin 16) (ring : Fin 4) (index : BitVec 32)
  /-- SEG_UNMAP (R320): Command that frees a segment entry once its requests are answered. -/
  | segUnmap (fn : Fin 16) (ring : Fin 4) (index : BitVec 32)
  /-- SCHED_LOAD (R345): Command that checks and loads a Solstice schedule image into a schedule index. -/
  | schedLoad (fn : Fin 16) (ring : Fin 4) (index : BitVec 32)
  /-- SCHED_STOP (R385): Command that stops a schedule and optionally unloads it. -/
  | schedStop (fn : Fin 16) (ring : Fin 4) (index : BitVec 32)
  /-- JOIN (R355): Command that joins this device into a job by the join handshake. -/
  | join (fn : Fin 16) (ring : Fin 4) (index : BitVec 32)
  /-- PART_CONFIG (R383): Command that sets a partition's way mask and, with SEAL, its frames, windows, reserves and power. -/
  | partConfig (fn : Fin 16) (ring : Fin 4) (index : BitVec 32)
  /-- FW_RULES (R274): Command that loads firewall rules at a partner site. -/
  | fwRules (fn : Fin 16) (ring : Fin 4) (index : BitVec 32) (host : List (BitVec 8))
  /-- SITE_RESET (R384): Command that retrains and readmits a partner site. -/
  | siteReset (fn : Fin 16) (ring : Fin 4) (index : BitVec 32)
  /-- TIME_CONFIG (R290): Command that sets the time sources and the frame rate. -/
  | timeConfig (fn : Fin 16) (ring : Fin 4) (index : BitVec 32)
  /-- TIME_SET (R287): Command that names the TAI second of the next REF_PPS pulse. -/
  | timeSet (fn : Fin 16) (ring : Fin 4) (index : BitVec 32)
  /-- IDLE_CONFIG (R379): Command that writes TIM_IDLE MAX_STATE and MARGIN_US. -/
  | idleConfig (fn : Fin 16) (ring : Fin 4) (index : BitVec 32)
  /-- RESET (R386): Command that runs a compute-part reset or a full recovery. -/
  | reset (fn : Fin 16) (ring : Fin 4) (index : BitVec 32)
  /-- SCHEDULER_DECISION (R399): The scheduler chooses the holder of a core by smallest virtual time, at a free core, an arrival or 1 ms of residence. -/
  | schedulerDecision (core : Fin 576)
  /-- PREEMPTION (R402): A pre-emption stops issue, drains the engines, saves state and restores or starts the incoming context. -/
  | preemption (core : Fin 576)
  /-- DEADLINE_EVALUATION (R408): Every 50 µs or at a core end, the firmware projects a LAUNCH's completion and switches to the fallback model when needed. -/
  | deadlineEvaluation (fn : Fin 16) (ring : Fin 4) (index : BitVec 32)
  /-- RUN_LIMIT_EXPIRY (R380): A kernel still running after RUN_LIMIT_MS is stopped, its LAUNCH ends TIMEOUT and the context is torn down. -/
  | runLimitExpiry (fn : Fin 16) (ring : Fin 4) (index : BitVec 32)
  /-- TEARDOWN (R411): A context is torn down: cores stopped, requests answered, entries freed, commands finalised and state set. -/
  | teardown (ctx : BitVec 8)
  /-- ESTIMATE_WINDOW (R418): Every 2 µs each core turns its activity counters into a dynamic energy estimate. -/
  | estimateWindow (temps : List (BitVec 12)) (millivolts : List Nat)
  /-- CALIBRATION (R419): Every 1 ms each compute die computes and applies the ratio of measured to estimated core energy. -/
  | calibration (die : Fin 5) (measured : Nat)
  /-- DROOP_DETECT (R421): A droop detector seeing the supply more than 4 % low stretches the die's clock. -/
  | droopDetect (die : Fin 4)
  /-- CAPPING_LOOP_STEP (R425): Every 100 µs the loop updates the credit and thermal target and sets the throttle level of the unsealed cores. -/
  | cappingLoopStep (power : Nat) (tj : BitVec 12) (die : Fin 5)
  /-- HOT (R437): TJ_MAX at or above 95 °C for 1 ms sets HOT, asserts ALERT_N and throttles every core. -/
  | hot
  /-- HOT_CLEAR (R437): TJ_MAX below 90 °C for 10 ms clears HOT. -/
  | hotClear
  /-- THERMAL_TRIP (R438): A sensor at 105 °C or more stops and unpowers the compute dies and asserts THERM_N as a device fault. -/
  | thermalTrip (sensor : Fin 68) (reading : BitVec 12)
  /-- COOLANT_READ (R440): Every 100 µs the inlet thermistor is read, with COOLANT_HIGH set after 1 s above 40 °C. -/
  | coolantRead (reading : Option (BitVec 12))
  /-- SEAL_BREACH_CLEAR (R435): SEAL_BREACH clears after 100 ms without a breaching step. -/
  | sealBreachClear
  /-- MIDWINTER_HANG (R449): 50 ms of reference time without a beat makes Midwinter declare a hang and start a compute-part reset. -/
  | midwinterHang
  /-- FORCE_HANG (R451): A physical-function write of MW_CTRL.FORCE_HANG declares a hang at once. -/
  | forceHang (fn : Fin 16) (value : BitVec 32)
  /-- COMPUTE_PART_RESET (R455): Midwinter and restarted firmware stop, sample, flush, reset, retest and settle the compute part. -/
  | computePartReset (bist : List (Fin 48 × BitVec 13))
  /-- RESET_OVERRUN (R450): A compute-part reset not finished 250 ms after detection starts a full recovery. -/
  | resetOverrun
  /-- FULL_RECOVERY (R462): The device resets its compute, link and memory domains, rebuilds the map, retrains and restores its tables. -/
  | fullRecovery (inputs : Machine.RecoveryInputs)
  /-- RECOVERY_OVERRUN (R450): A full recovery not finished within 6 s leaves the device out of service. -/
  | recoveryOverrun
  /-- FAULT_NOTICE (R460): A member receiving a matching fault notice aborts the job's commands, stops the schedule and writes a record. -/
  | faultNotice (notice : BitVec 512)
  /-- POWER_UP (R491): The always-on domain leaves reset once PWR_OK and RESET_N are high with VIN_MAIN in range, and boot begins. -/
  | powerUp
  /-- BOOT (R476): The device runs its boot steps from identity and firmware through map, training, memory zeroing and admission to the lock. -/
  | boot (inputs : Machine.BootInputs)
  /-- VIN_MAIN_SAG (R488): VIN_MAIN below 10.8 V for 1 µs switches the always-on domain to VIN_AUX. -/
  | vinMainSag (level : BitVec 8)
  /-- VIN_MAIN_RETURN (R488): VIN_MAIN at or above 11.2 V for 10 ms switches the always-on domain back. -/
  | vinMainReturn (level : BitVec 8)
  /-- VIN_MAIN_LOSS (R489): VIN_MAIN below 10.0 V for 2 µs removes power from the compute part as a device fault. -/
  | vinMainLoss (level : BitVec 8)
  /-- PWR_OK_FALL (R493): PWR_OK low for 1 µs in service starts the power-down steps as a device fault. -/
  | pwrOkFall (held : Nat)
  /-- PWR_OK_RISE (R494): PWR_OK high again with VIN_MAIN in range for 10 ms continues the full recovery. -/
  | pwrOkRise
  /-- RESET_N_LOW (R495): RESET_N low for at least 100 µs in service resets the endpoint and every function. -/
  | resetNLow (held : Nat)
  /-- REFCLK_LOSS (R497): PCIE_REFCLK without an edge for 10 µs takes the link down until the clock returns. -/
  | refclkLoss
  /-- FUNCTION_LEVEL_RESET (R388): A Function Level Reset disables a function's rings, aborts its commands, unmaps BAR2 and tears down its contexts. -/
  | functionLevelReset (fn : Fin 16)
  /-- BAR2_WRITE (R364): A host write through BAR2 is translated in the mapped context and performed in order. -/
  | bar2Write (fn : Fin 16) (offset : BitVec 36) (bytes : List (BitVec 8))
  /-- BAR2_READ (R364): A host read through BAR2 is translated in the mapped context and returns data. -/
  | bar2Read (fn : Fin 16) (offset : BitVec 36) (len : Fin 4097)
  /-- LATCHED_READ (R15): A 32-bit read of a 64-bit register's low word latches the high word for that function. -/
  | latchedRead (fn : Fin 16) (offset : BitVec 24) (wide : Bool)
  /-- REGISTER_WRITE (R12): A write to a register without a row of its own acts by its access type. -/
  | registerWrite (fn : Fin 16) (offset : BitVec 24) (value : BitVec 64) (wide : Bool)
  /-- I3C_PRIVATE_WRITE (R500): An I3C private write of a 3-byte BAR0 offset selects a register. -/
  | i3cPrivateWrite (address : BitVec 7) (offset : BitVec 24)
  /-- I3C_PRIVATE_READ (R500): An I3C private read returns the selected register as the physical function reads it. -/
  | i3cPrivateRead (address : BitVec 7)
  /-- INSTRUCTION_COMPLETION (R44): An engine instruction that took time (an MMA, an LDB, a VXE instruction) completes, with its results made in tiles, registers or scratchpad, releasing dependent instructions and SIGNALs. -/
  | instructionCompletion (core : Fin 576) (q : Machine.Eng) (index : Fin 64)
  /-- PHASE_EXPIRY (R429): A PHASE entry's DURATION_US runs out, the hint leaves force and, when no rise remains, the regulator set points return. -/
  | phaseExpiry
  /-- WAKE_END (R300): The wake from an idle state ends, the device is active, held causes are served and entries that fell due during the wake fire late. -/
  | wakeEnd
  /-- REFCLK_RETURN (R497): PCIE_REFCLK returns after a loss and the host link retrains within 20 ms. -/
  | refclkReturn
  /-- RESET_N_RISE (R495): RESET_N rises after an in-service reset and the endpoint leaves reset, training within 20 ms and answering configuration within 100 ms. -/
  | resetNRise
  /-- VIN_AUX_CHANGE (R490): VIN_AUX enters or leaves its operating range after its 10 µs filter, setting AUX_OK and deciding whether the always-on domain survives a VIN_MAIN loss. -/
  | vinAuxChange (level : BitVec 8)
  /-- PTM_RESPONSE (R283): A PCI Express Precision Time Measurement response from the host's clock arrives and the reference-time unit measures against it for time source 3. -/
  | ptmResponse (hostTime : Nat)
  /-- ENTDAA (R500): An I3C ENTDAA command assigns the device its dynamic target address on the sideband. -/
  | entdaa (address : BitVec 7)
  /-- I3C_SCL_TIMEOUT (R497): I3C_SCL held low for 50 ms makes the device release SDA and reset its target interface. -/
  | i3cSclTimeout
  /-- PACKET_READ_TIMEOUT (R368): A command packet read that gets no completion within 10 ms disables the ring and records the cause. -/
  | packetReadTimeout (fn : Fin 16) (ring : Fin 4)
deriving DecidableEq, Repr

end Sys2Proof
end

