-- ==== Sys2Proof/Decode.lean ====
section
/-! DEFINITION. The command that a word spells by the bits of the command table. No row of spec/opcode_table.json gives
bits, so no word spells a command; the words that the commands themselves carry (queue instructions, thread
instructions, packets, flits, descriptors) are decoded where each is issued, taken or received. -/

namespace Sys2Proof

/-- The command of a word of nbits: none, as the table gives no row any bits. -/
def decodeTableWord (_nbits _w : Nat) : Option Instr := none

end Sys2Proof
end

