-- ==== Sys2Proof/Config.lean ====
section
/-! DEFINITION. What the specification leaves to an implementation, to firmware that is not in it, or to no one: every
constant here is opaque, so a statement about it holds whatever it is. -/

namespace Sys2Proof.Config

/-- The FUNC reference tables of the feature level (R114, R125): function code and FP32 operand to FP32 result, for the
functions and operands whose result R125 does not fix. Assumption 13. -/
opaque func (level : Nat) (code : Nat) (x : BitVec 32) : BitVec 32

/-- A fresh free choice at each value of the model's counter: which of several behaviours that the specification allows
takes place (R62, R67, R239, R398). Assumption 12. -/
opaque pick (k : Nat) : Nat

/-- The data a decoder delivers for a half line with four or more wrong symbols, where it takes them for a correctable
error (R239). Assumption 12. -/
opaque eccData (k : Nat) : BitVec 256

/-- What memory holds after a recovery that lost it (R464). Assumption 12. -/
opaque lostMemory (k : Nat) : List Host.Cell

/-- The symbols that are wrong in it: line, symbol, differing bits (R464). Assumption 12. -/
opaque lostSymbols (k : Nat) : List (Nat × Nat × Byte)

/-- The 64 bytes of a join message, whose layout the specification does not give (R355). Assumption 12. -/
opaque joinMessage (k : Nat) : BitVec 512

/-- The dynamic energy in nJ that a core estimates from its activity counts of a window, in the order of R418: the weights
are those of the signed hub firmware. Assumption 14. -/
opaque dynamicEnergy (counts : List Nat) : Nat

/-- The leakage in nJ of one window of 2 µs, from the temperature of the core's row in 1/16 °C and the supply voltage in mV
(R418). Assumption 14. -/
opaque leakEnergy (rowTemp millivolts : Nat) : Nat

end Sys2Proof.Config
end

