-- ==== Sys2Proof/Machine/CoreTypes.lean ====
section
/-! DEFINITION. The plain data of a core: its queues (R40 to R52), the matrix engine (R71 to R100), the vector engine
(R101 to R130), the thread-group engine (R131 to R159), the copy engines (R63 to R68), the L1 part (R189). -/

namespace Sys2Proof.Machine

/-- One active loop of a queue (R45): the position of its first body instruction, BODY, COUNT, and the index. -/
structure Loop where
  start : Nat := 0
  body  : Nat := 0
  count : Nat := 0
  idx   : Nat := 0
deriving DecidableEq, Repr

/-- What holds a queue (R70): the states 3 to 6 of CORE_QSTATE, or nothing. -/
inductive Hold where
  | none | wait | waitmem | fence | full
deriving DecidableEq, Repr

/-- A resource that an engine instruction reads or writes (R85, R127): an accumulator tile, a stage slot, a tile
register, the scratchpad bytes from lo to hi - 1. -/
inductive Res where
  | tile (t : Nat) | slot (k : Nat) | vreg (v : Nat) | sp (lo hi : Nat)
deriving DecidableEq, Repr

/-- The six sticky flags of a tile status word (R100). -/
structure TileFlags where
  range : Bool := false
  invalid : Bool := false
  nan : Bool := false
  ovf : Bool := false
  intSat : Bool := false
  sparse : Bool := false
deriving DecidableEq, Repr

/-- The type of an accumulator tile (R100). -/
inductive TileType where
  | fp32 | int32 | exact
deriving DecidableEq, Repr

/-- One accumulator tile (R71, R72, R97): elements by 64 × row + column, as bit patterns of 32 or 128 bits. -/
structure Tile where
  type  : TileType := .fp32
  empty : Bool := true
  flags : TileFlags := {}
  elems : Tab Nat := []
deriving DecidableEq, Repr

/-- One valid stage slot: the format code and its 2 KiB (R71, R84). -/
structure Slot where
  fmt   : Nat := 0
  bytes : Mem := []
deriving DecidableEq, Repr

/-- The matrix engine. A stage slot that is not listed is invalid. -/
structure Mxe where
  exact : Bool := false
  tiles : Tab Tile := []
  slots : Tab Slot := []
  slabs : DWord := 0
deriving DecidableEq, Repr

/-- The sticky flags of VXE_STATUS (R129). -/
structure VFlags where
  accInvalid : Bool := false
  scaleClamp : Bool := false
  cvtSat : Bool := false
  intSat : Bool := false
  ovf : Bool := false
  nan : Bool := false
deriving DecidableEq, Repr

/-- The vector engine (R101): 32 registers of 2 KiB, LEN, the flags. -/
structure Vxe where
  regs  : Tab Mem := []
  rows  : BitVec 6 := 0
  cols  : BitVec 7 := 0
  flags : VFlags := {}
  elems : DWord := 0
deriving DecidableEq, Repr

/-- What an engine instruction that has started makes when it completes (R44, R95, R127). -/
structure Effect where
  sp     : List Host.Cell := []
  tiles  : List (Nat × Tile) := []
  slots  : List (Nat × Slot) := []
  vregs  : List (Nat × Mem) := []
  vflags : VFlags := {}
  /-- ACCMODE: the mode it selects (R81). -/
  mode   : Option Bool := none
  /-- Slabs entered, elements written (MXE_SLABS, VXE_ELEMS). -/
  slabs  : Nat := 0
  elems  : Nat := 0
deriving DecidableEq, Repr

/-- An instruction that has started and not completed (R44): its number in the queue, its opcode, what it reads and
writes, what it will make. -/
structure Flight where
  seq    : Nat := 0
  op     : Nat := 0
  reads  : List Res := []
  writes : List Res := []
  eff    : Effect := {}
  /-- ISSUE: descriptors not yet reached: address space, next address, how many (R63). -/
  va     : Bool := false
  addr   : Nat := 0
  left   : Nat := 0
  /-- TSTART: the number of the TSTART. -/
  ts     : Nat := 0
deriving DecidableEq, Repr

/-- A SIGNAL issued and not yet performed (R47). -/
structure Sig where
  seq    : Nat := 0
  sem    : Nat := 0
  amount : Nat := 0
deriving DecidableEq, Repr

/-- One instruction queue (R40 to R52). -/
structure Queue where
  base     : Nat := 0
  /-- Instructions in the stream. -/
  len      : Nat := 0
  pos      : Nat := 0
  /-- Instructions fetched, by position; at most 64. -/
  buf      : Tab QWord := []
  loops    : List Loop := []
  ended    : Bool := true
  hold     : Hold := .none
  /-- Reference time at which a WAIT or WAITMEM expires; while the context is saved, the time that remains (R49). -/
  deadline : Nat := 0
  /-- The line that a held WAITMEM watches at its home, and whether its home has sent a notice (R503). -/
  watch    : Option Nat := none
  notice   : Bool := false
  /-- Is a remote READ of the watched cell outstanding (R503)? -/
  asked    : Bool := false
  flights  : List Flight := []
  sigs     : List Sig := []
  seq      : Nat := 0
deriving DecidableEq, Repr

/-- One path of a group (R144); the join stack has its top first. -/
structure Path where
  pc     : Nat := 0
  mask   : BitVec 32 := 0
  age    : Nat := 0
  back   : Nat := 0
  joins  : List Nat := []
  parked : Bool := false
deriving DecidableEq, Repr

/-- One resident group (R131, R133, R143). The running path stands first in paths. -/
structure Group where
  ts     : Nat := 0
  idx    : Nat := 0
  /-- Registers by 256 × lane + number; unlisted ones are 0. -/
  regs   : Tab Nat := []
  paths  : List Path := []
  exited : BitVec 32 := 0
  age    : Nat := 0
  nextPathAge : Nat := 1
  bar    : Bool := false
  /-- Registers whose value a remote response will bring (R142). -/
  pend   : List (Nat × Nat) := []
  /-- Lanes of the next instruction, a memory instruction, that have been performed, with the values they brought so far. -/
  did    : List (Nat × Option Nat) := []
deriving DecidableEq, Repr

/-- A TSTART that has issued (R134, R135). -/
structure TStart where
  id      : Nat := 0
  seq     : Nat := 0
  groups  : Nat := 0
  pc      : Nat := 0
  arg     : Nat := 0
  started : Bool := false
deriving DecidableEq, Repr

/-- One entry of the store buffer (R153): the line of a physical address, or the import and the line of a Tsuran
address, bytes and mask, and the TSTARTs whose threads stored into it. -/
structure StoreLine where
  line   : Nat := 0
  imp    : Option Nat := none
  data   : Line := 0
  mask   : BitVec 64 := 0
  dead   : Bool := false
  ts     : List Nat := []
  since  : Nat := 0
deriving DecidableEq, Repr

/-- The thread-group engine (R131, R132, R159). -/
structure Tge where
  regs     : BitVec 8 := 0
  limit    : BitVec 7 := 0
  groups   : Tab Group := []
  starts   : List TStart := []
  stores   : List StoreLine := []
  /-- Thread instructions in the instruction cache, by virtual address. -/
  icache   : Tab DWord := []
  nextTs   : Nat := 0
  nextAge  : Nat := 0
  faultLanes : BitVec 32 := 0
  faultGroup : BitVec 6 := 0
  faultPc  : BitVec 48 := 0
  issued   : DWord := 0
  rotations : BitVec 32 := 0
deriving DecidableEq, Repr

/-- A copy descriptor in flight (R66 to R68, R404): the ISSUE it belongs to, its 64 bytes, what it has read and how far
it has come. -/
structure Copy where
  id      : Nat := 0
  seq     : Nat := 0
  raw     : Line := 0
  /-- The bytes read, by position in the transfer; positions that have not come hold 0. -/
  data    : List Byte := []
  /-- Bytes whose read has been made or sent, bytes whose write has been made or sent. -/
  rd      : Nat := 0
  wr      : Nat := 0
  /-- Requests to other devices and partner dies that are not answered. -/
  owed    : Nat := 0
  /-- Writes on this device whose COMP may be outstanding. -/
  ids     : List Nat := []
  /-- Stream source: units that have left the core, and bytes or descriptors already counted (R333). -/
  gone    : Nat := 0
  counted : Nat := 0
  /-- Stream sink: since when it waits (R335). -/
  since   : Nat := 0
deriving DecidableEq, Repr

/-- One copy engine (R68, R163). -/
structure Cpe where
  copies : List Copy := []
  nextId : Nat := 0
  /-- Descriptor cache: (virtual address?, address, descriptor), newest first, at most 64. -/
  cache  : List (Bool × Nat × Line) := []
deriving DecidableEq, Repr

/-- One line of an L1 part. -/
structure L1Line where
  line : Nat := 0
  data : Line := 0
deriving DecidableEq, Repr

/-- The L1 part of a core (R189, R221, R222). -/
structure L1 where
  /-- Valid lines by 64 × set + way. -/
  lines : Tab L1Line := []
  plru  : Tab Nat := []
  /-- Invalidation queue: line and the request that caused it, oldest first. -/
  invq  : List (Nat × Nat) := []
  /-- Lines whose fill is awaited, and those of them that an invalidation has overtaken. -/
  awaited : List Nat := []
  overtaken : List Nat := []
deriving DecidableEq, Repr

/-- A unit waiting in a Solstice send queue (R333): schedule index and stream, the CPE and the descriptor it came from,
data. -/
structure SendUnit where
  sched  : Nat := 0
  stream : Nat := 0
  cpe    : Nat := 0
  copy   : Nat := 0
  data   : Line := 0
deriving DecidableEq, Repr

/-- One logical core. -/
structure Core where
  context   : BitVec 8 := 0
  partition : BitVec 4 := 0
  resident  : Bool := false
  running   : Bool := false
  faulted   : Bool := false
  faultQueue : BitVec 3 := 7
  faultReason : BitVec 6 := 0
  lastStatus : BitVec 8 := 0
  l1Units   : BitVec 4 := 0
  /-- The scheduler has assigned the core to a kernel whose core start has not run. -/
  assigned  : Bool := false
  /-- CORE_BUSY_e and CORE_WAIT_e, in tenths of a cycle (2.1 cycles in a ns). -/
  busy      : Tab Nat := []
  waited    : Tab Nat := []
  sems      : Tab Nat := []
  /-- The queue last granted on each semaphore; unlisted: CPE1 (R47). -/
  granted   : Tab Nat := []
  /-- The previous kernel's context and L1_UNITS (R59, R412). -/
  prev      : Option (Nat × Nat) := none
  /-- The LAUNCH it runs, the model, the index and the kernel. -/
  cmd       : Nat := 0
  model     : Nat := 0
  index     : Nat := 0
  kernel    : Kernel := {}
  /-- Reference time resident in this kernel before the present residence (R408). -/
  resided   : Nat := 0
  /-- Engine occupancy below 1 µs, per engine (R401). -/
  rest      : Tab Nat := []
  queues    : Tab Queue := []
  sp        : Mem := []
  mxe       : Mxe := {}
  vxe       : Vxe := {}
  tge       : Tge := {}
  cpe0      : Cpe := {}
  cpe1      : Cpe := {}
  l1        : L1 := {}
  /-- Translations cached: page number of 4 KiB and the entry that translates it (R398). -/
  tlb       : Tab Nat := []
  redStatus : BitVec 4 := 0
  sendq     : List SendUnit := []
  /-- Throttle level in force and the one the loop holds, activity counts of the window, dynamic and leakage energy
  estimated in the present loop step, in nJ and before calibration (R418, R424). -/
  level     : BitVec 4 := 0
  nextLevel : BitVec 4 := 0
  counts    : Tab Nat := []
  energy    : Nat := 0
  leak      : Nat := 0
  /-- Stopped by a recovery or a teardown: issues nothing. -/
  stopped   : Bool := false
deriving DecidableEq, Repr

end Sys2Proof.Machine
end

