-- ==== Sys2Proof/Machine/Flags.lean ====
section
/-! DEFINITION. Number formats, exact values, rounding and the flags that rounding gives (R74, R86, R91, R111, R112,
R113, R121, R125, R199). A floating-point value is held exactly and rounded once. -/

namespace Sys2Proof.Machine

/-- The formats of the tables Element formats and VXE format codes (R74, R111). -/
inductive Format where
  | bf16 | fp16 | e4m3 | e5m2 | int8 | e3m2 | e2m3 | fp4 | fp32 | int32
deriving DecidableEq, Repr

def Format.ofCode : Nat → Option Format
  | 0 => some .bf16 | 1 => some .fp16 | 2 => some .e4m3 | 3 => some .e5m2 | 4 => some .int8
  | 5 => some .e3m2 | 6 => some .e2m3 | 7 => some .fp4 | 8 => some .fp32 | 9 => some .int32
  | _ => none

/-- Element width in bits (R111). -/
def Format.width : Format → Nat
  | .bf16 => 16 | .fp16 => 16 | .e4m3 => 8 | .e5m2 => 8 | .int8 => 8 | .e3m2 => 6 | .e2m3 => 6 | .fp4 => 4
  | .fp32 => 32 | .int32 => 32

/-- Mantissa bits (R74). -/
def Format.man : Format → Nat
  | .bf16 => 7 | .fp16 => 10 | .e4m3 => 3 | .e5m2 => 2 | .e3m2 => 2 | .e2m3 => 3 | .fp4 => 1 | .fp32 => 23
  | .int8 => 0 | .int32 => 0

/-- Exponent bias (R74). -/
def Format.bias : Format → Nat
  | .bf16 => 127 | .fp16 => 15 | .e4m3 => 7 | .e5m2 => 15 | .e3m2 => 3 | .e2m3 => 1 | .fp4 => 1 | .fp32 => 127
  | .int8 => 0 | .int32 => 0

def Format.isInt : Format → Bool
  | .int8 => true | .int32 => true | _ => false

/-- Block-scaled formats (R75). -/
def Format.isScaled : Format → Bool
  | .e3m2 => true | .e2m3 => true | .fp4 => true | _ => false

/-- The formats of VXE arithmetic (R111). -/
def Format.isArith : Format → Bool
  | .bf16 => true | .fp16 => true | .fp32 => true | .int32 => true | _ => false

/-- Magnitude code of the largest finite value (R74). -/
def Format.maxCode : Format → Nat
  | .bf16 => 0x7F7F | .fp16 => 0x7BFF | .e4m3 => 0x7E | .e5m2 => 0x7B | .e3m2 => 0x1F | .e2m3 => 0x1F | .fp4 => 7
  | .fp32 => 0x7F7FFFFF | .int8 => 127 | .int32 => 0x7FFFFFFF

/-- Magnitude code of infinity, where the format has one (R74). -/
def Format.infCode : Format → Option Nat
  | .bf16 => some 0x7F80 | .fp16 => some 0x7C00 | .e5m2 => some 0x7C | .fp32 => some 0x7F800000 | _ => none

/-- The canonical NaN (R112). -/
def Format.nanCode : Format → Nat
  | .bf16 => 0x7FC0 | .fp16 => 0x7E00 | .e4m3 => 0x7F | .e5m2 => 0x7E | .fp32 => 0x7FC00000 | _ => 0

/-- An exact value: NaN, an infinity, or (-1)^neg × mant × 2^exp. Zero keeps its sign. -/
inductive Num where
  | nan
  | inf (neg : Bool)
  | fin (neg : Bool) (mant : Nat) (exp : Int)
deriving DecidableEq, Repr

namespace Num

def zero : Num := .fin false 0 0

def ofInt (n : Int) : Num := .fin (decide (n < 0)) n.natAbs 0

def isNan : Num → Bool
  | .nan => true
  | _ => false

def isInf : Num → Bool
  | .inf _ => true
  | _ => false

def isFin : Num → Bool
  | .fin _ _ _ => true
  | _ => false

def neg : Num → Num
  | .nan => .nan
  | .inf s => .inf (!s)
  | .fin s m e => .fin (!s) m e

def abs : Num → Num
  | .nan => .nan
  | .inf _ => .inf false
  | .fin _ m e => .fin false m e

/-- Exact product; infinity times zero is NaN (R86). -/
def mul : Num → Num → Num
  | .nan, _ => .nan
  | _, .nan => .nan
  | .inf a, .inf b => .inf (a != b)
  | .inf a, .fin b m _ => if m = 0 then .nan else .inf (a != b)
  | .fin a m _, .inf b => if m = 0 then .nan else .inf (a != b)
  | .fin a m e, .fin b n f => .fin (a != b) (m * n) (e + f)

def signedMant (s : Bool) (m : Nat) : Int := if s then -(m : Int) else (m : Int)

/-- Exact sum; infinities of opposite sign give NaN (R86); a zero sum is -0 only of two negative zeros. -/
def add : Num → Num → Num
  | .nan, _ => .nan
  | _, .nan => .nan
  | .inf a, .inf b => if a = b then .inf a else .nan
  | .inf a, .fin _ _ _ => .inf a
  | .fin _ _ _, .inf b => .inf b
  | .fin a m e, .fin b n f =>
    let g := if e ≤ f then e else f
    let t := signedMant a (m <<< (e - g).toNat) + signedMant b (n <<< (f - g).toNat)
    .fin (if t = 0 then a && b && m == 0 && n == 0 else decide (t < 0)) t.natAbs g

/-- Exact multiplication by a power of two. -/
def scale (x : Num) (k : Int) : Num :=
  match x with
  | .fin s m e => .fin s m (e + k)
  | y => y

/-- Is a less than b by value? False when either is NaN; the two zeros are equal. -/
def lt : Num → Num → Bool
  | .nan, _ => false
  | _, .nan => false
  | .inf a, .inf b => a && !b
  | .inf a, .fin _ _ _ => a
  | .fin _ _ _, .inf b => !b
  | .fin a m e, .fin b n f =>
    let g := if e ≤ f then e else f
    decide (signedMant a (m <<< (e - g).toNat) < signedMant b (n <<< (f - g).toNat))

/-- Equal by value; false when either is NaN. -/
def eq (a b : Num) : Bool := !a.isNan && !b.isNan && !(lt a b) && !(lt b a)

def sign : Num → Bool
  | .nan => false
  | .inf s => s
  | .fin s _ _ => s

end Num

/-- The exact sum of a list by structural folding. -/
def numSum (l : List Num) : Num :=
  match l with
  | [] => .zero
  | x :: r => r.foldl Num.add x

/-- MIN and MAX (R112): NaN if either operand is NaN; -0 below +0. -/
def numMin (a b : Num) : Num :=
  if a.isNan || b.isNan then .nan
  else if Num.lt a b then a
  else if Num.lt b a then b
  else if a.sign then a else b

def numMax (a b : Num) : Num :=
  if a.isNan || b.isNan then .nan
  else if Num.lt a b then b
  else if Num.lt b a then a
  else if a.sign then b else a

/-- The value of an encoded element (R74, R111). -/
def decodeNum (f : Format) (bits : Nat) : Num :=
  if f.isInt then .ofInt (signed f.width bits)
  else
    let w := f.width
    let b := bits % 2 ^ w
    let neg := decide (2 ^ (w - 1) ≤ b)
    let mag := b % 2 ^ (w - 1)
    let m := mag % 2 ^ f.man
    let e := mag / 2 ^ f.man
    let special := match f.infCode with
      | some i => if mag = i then some (Num.inf neg) else if i < mag then some Num.nan else none
      | none => if f = .e4m3 && mag == 0x7F then some Num.nan else none
    match special with
    | some x => x
    | none =>
      if e = 0 then .fin neg m (1 - (f.bias : Int) - f.man)
      else .fin neg (m + 2 ^ f.man) ((e : Int) - f.bias - f.man)

/-- Division by 2^r rounded to nearest, ties to even. -/
def rneShift (m r : Nat) : Nat :=
  let q := m >>> r
  let rest := m % 2 ^ r
  if r = 0 then m
  else if rest * 2 < 2 ^ r then q
  else if rest * 2 = 2 ^ r then q + q % 2
  else q + 1

/-- The magnitude code that a finite value rounds to, as if the exponent had no upper end (R112). -/
def roundMag (f : Format) (m : Nat) (e : Int) : Nat :=
  if m = 0 then 0
  else
    let qmin : Int := 1 - (f.bias : Int) - f.man
    let top : Int := (m.log2 : Int) + e - f.man
    let q := if top < qmin then qmin else top
    let mm := if q ≤ e then m <<< (e - q).toNat else rneShift m (q - e).toNat
    (q - qmin).toNat * 2 ^ f.man + mm

/-- The sign bit of a code. -/
def signCode (f : Format) (neg : Bool) : Nat := if neg then 2 ^ (f.width - 1) else 0

/-- What a rounding reports: a finite value beyond the largest finite one, a NaN, a saturation (R112, R113, R121). -/
structure RFlags where
  ovf : Bool := false
  nan : Bool := false
  sat : Bool := false
deriving DecidableEq, Repr

def RFlags.or (a b : RFlags) : RFlags := ⟨a.ovf || b.ovf, a.nan || b.nan, a.sat || b.sat⟩

/-- Saturation to an integer format (R113, R121). -/
def satInt (f : Format) (v : Int) : Nat × Bool :=
  let hi : Int := ((2 ^ (f.width - 1) : Nat) : Int) - 1
  let lo : Int := -((2 ^ (f.width - 1) : Nat) : Int)
  let c := if hi < v then hi else if v < lo then lo else v
  ((c % ((2 ^ f.width : Nat) : Int)).toNat, c != v)

/-- Round a finite value to an integer, to nearest with ties to even. -/
def rneInt (s : Bool) (m : Nat) (e : Int) : Int :=
  Num.signedMant s (if 0 ≤ e then m <<< e.toNat else rneShift m (-e).toNat)

/-- One rounding of a result to its format (R112): nearest even, infinity on overflow, canonical NaN. -/
def roundNum (f : Format) (x : Num) : Nat × RFlags :=
  match x with
  | .nan => (f.nanCode, { nan := true })
  | .inf s => ((f.infCode.getD f.maxCode) + signCode f s, {})
  | .fin s m e =>
    let c := roundMag f m e
    if f.maxCode < c then ((f.infCode.getD f.maxCode) + signCode f s, { ovf := true }) else (c + signCode f s, {})

/-- The FP32 code of a value. -/
def toFp32 (x : Num) : Nat := (roundNum .fp32 x).1

def ofFp32 (b : Nat) : Num := decodeNum .fp32 b

/-- A conversion of R121 to a format without block scale: the code and whether it saturated (CVT_SAT) or made a NaN
from a value that is none (FP_NAN). An E4M3 NaN made by overflow keeps its sign. -/
def cvtNum (f : Format) (sat : Bool) (x : Num) : Nat × RFlags :=
  if f.isInt then
    match x with
    | .nan => (0, {})
    | .inf s => let r := satInt f (if s then -((2 ^ 40 : Nat) : Int) else ((2 ^ 40 : Nat) : Int)); (r.1, { sat := true })
    | .fin s m e => let r := satInt f (rneInt s m e); (r.1, { sat := r.2 })
  else
    match x with
    | .nan => (f.nanCode, {})
    | .inf s =>
      if sat then (f.maxCode + signCode f s, { sat := true })
      else match f.infCode with
        | some i => (i + signCode f s, {})
        | none => (f.nanCode + signCode f s, { nan := true })
    | .fin s m e =>
      let c := roundMag f m e
      if f.maxCode < c then
        if sat then (f.maxCode + signCode f s, { sat := true })
        else match f.infCode with
          | some i => (i + signCode f s, { ovf := true })
          | none => (f.nanCode + signCode f s, { nan := true })
      else (c + signCode f s, {})

/-! Square root, correctly rounded (R125). -/

/-- The integer square root, one bit of the root at a time from bit k - 1 down. -/
def isqrtBits (n : Nat) : Nat → Nat → Nat
  | 0, r => r
  | k + 1, r => let c := r + 2 ^ k; isqrtBits n k (if c * c ≤ n then c else r)

def isqrt (n : Nat) : Nat := isqrtBits n (n.log2 / 2 + 1) 0

def numSqrt : Num → Num
  | .nan => .nan
  | .inf s => if s then .nan else .inf false
  | .fin s m e =>
    if m = 0 then .fin s 0 0
    else if s then .nan
    else
      let k : Nat := 64 + (if (e % 2 = 0) then 0 else 1)
      let n := m <<< k
      let r := isqrt n
      .fin false (2 * r + (if r * r = n then 0 else 1)) ((e - k) / 2 - 1)

/-! Exact elements: 128-bit two's complement integers that stand for n × 2^-64 (R89). -/

/-- INVALID (R89). -/
def exactInvalid : Nat := 2 ^ 127

def exactMax : Int := ((2 ^ 127 - 1 : Nat) : Int)

/-- The element of an exact integer in range. -/
def exactCode (n : Int) : Nat := (n % ((2 ^ 128 : Nat) : Int)).toNat

def exactVal (c : Nat) : Int := signed 128 c

/-- Saturation to the representable range, and whether it happened (R90, R91). -/
def exactSat (n : Int) : Int × Bool :=
  if exactMax < n then (exactMax, true) else if n < -exactMax then (-exactMax, true) else (n, false)

/-- R91: the sum of two exact elements, whether it saturated, whether it is INVALID. -/
def exactAdd (a b : Nat) : Nat × RedFlags :=
  if a = exactInvalid || b == exactInvalid then (exactInvalid, { invalid := true })
  else
    let r := exactSat (exactVal a + exactVal b)
    (exactCode r.1, { range := r.2 })

/-- An exact product brought into the window as R90 gives: its multiple of 2^-64, and whether it was clamped or
truncated. -/
def exactProduct (s : Bool) (m : Nat) (e : Int) : Int × Bool :=
  if 0 ≤ e + 64 then
    let n := m <<< (e + 64).toNat
    if 2 ^ 127 ≤ n then (Num.signedMant s (2 ^ 127 - 1), true) else (Num.signedMant s n, false)
  else
    let k := (-(e + 64)).toNat
    let n := m >>> k
    if 2 ^ 127 ≤ n then (Num.signedMant s (2 ^ 127 - 1), true) else (Num.signedMant s n, m % 2 ^ k != 0)

/-- R124: an exact element read as FP32 with a scale, and whether it is INVALID. -/
def exactRead (c : Nat) (k : Int) : Num × Bool :=
  if c = exactInvalid then (.nan, true)
  else let n := exactVal c; (.fin (decide (n < 0)) n.natAbs (k - 64), false)

end Sys2Proof.Machine
end

