-- ==== Sys2Proof/Machine/Operands.lean ====
section
/-! DEFINITION. Codes of statuses, reasons and engines (R17, R70, R502) and the fields of queue instructions, thread
instructions and structures in memory, with the check of reserved bits (R42, R43, R53, R64, R137). -/

namespace Sys2Proof.Machine

/-- The code of a shared status (R17). -/
def Status.code : Status → Nat
  | .ok => 0x00 | .pending => 0x01 | .partialResult => 0x02 | .badOpcode => 0x10 | .badParam => 0x11 | .badCrc => 0x12
  | .noResource => 0x20 | .denied => 0x21 | .timeout => 0x30 | .faulted => 0x31 | .aborted => 0x32
  | .joinMismatch => 0x40 | .incompatibleDie => 0x41

/-- OK and every code at 0x10 or above are final (R17). -/
def Status.final : Status → Bool
  | .pending => false | .partialResult => false | _ => true

/-- The FAULT_REASON code (R70, R502). -/
def Reason.code : Reason → Nat
  | .illegalInstruction => 0x01 | .streamOverrun => 0x02 | .queueDeadlock => 0x03 | .syncOverflow => 0x04
  | .waitTimeout => 0x05 | .badDescriptor => 0x06 | .translation => 0x07 | .spRange => 0x08 | .exactRange => 0x10
  | .operandMismatch => 0x11 | .accAbsent => 0x18 | .lenOver => 0x19 | .accType => 0x1A
  | .unconvergedCollective => 0x20 | .divergenceDepth => 0x21 | .threadMisaligned => 0x22 | .deadReread => 0x28
  | .exactRangeCpe => 0x29 | .partnerDenied => 0x30 | .partnerTimeout => 0x31 | .remoteRefused => 0x38

/-- Queue numbers in the order MXE, VXE, TGE, CPE0, CPE1 (R70). -/
def Eng.num : Eng → Nat
  | .mxe => 0 | .vxe => 1 | .tge => 2 | .cpe0 => 3 | .cpe1 => 4

def Eng.all : List Eng := [.mxe, .vxe, .tge, .cpe0, .cpe1]

/-- A context fault with its reason and status (R502). -/
def mkFault (r : Reason) (s : Status) : CtxFault := { reason := r, status := s.code }

def illegalOp : CtxFault := mkFault .illegalInstruction .badOpcode
def illegalParam : CtxFault := mkFault .illegalInstruction .badParam
def spRangeFault : CtxFault := mkFault .spRange .badParam

/-- A check that fails with a fault. -/
def need (ok : Bool) (f : CtxFault) : Except CtxFault Unit := if ok then .ok () else .error f

/-- Are all bits outside the named ranges (high, low) zero (R13, R43)? -/
def onlyBits {n : Nat} (w : BitVec n) (used : List (Nat × Nat)) : Bool :=
  (used.foldl (fun acc r => acc - (((acc >>> r.2) % 2 ^ (r.1 + 1 - r.2)) <<< r.2)) w.toNat) == 0

/-- Scratchpad size for a split (R58). -/
def spBytes (l1Units : Nat) : Nat := 2097152 - 131072 * l1Units

/-- The index of the loop at a level, 0 the innermost; 0 where no loop is active (R42, R106). -/
def loopIdx (ls : List Loop) (level : Nat) : Nat := ((ls.drop level).headD {}).idx

/-- The opcode of a queue instruction (R41). -/
def opcode (w : QWord) : Nat := fld w 7 0

/-- Does a scratchpad range lie below SP_BYTES (R60)? -/
def spOk (l1Units off len : Nat) : Bool := decide (off + len ≤ spBytes l1Units)

/-! Hazards (R85, R127). -/

def Res.meets : Res → Res → Bool
  | .tile a, .tile b => a == b
  | .slot a, .slot b => a == b
  | .vreg a, .vreg b => a == b
  | .sp a b, .sp c d => decide (a < d) && decide (c < b)
  | _, _ => false

def resMeet (as bs : List Res) : Bool := as.any fun a => bs.any fun b => a.meets b

/-- Must an instruction that reads rd and writes wr wait for an earlier one that has not completed? -/
def hazard (rd wr : List Res) (f : Flight) : Bool :=
  resMeet rd f.writes || resMeet wr f.reads || resMeet wr f.writes

/-! Making the effects of an engine instruction (R44). -/

def VFlags.or (a b : VFlags) : VFlags :=
  ⟨a.accInvalid || b.accInvalid, a.scaleClamp || b.scaleClamp, a.cvtSat || b.cvtSat, a.intSat || b.intSat,
   a.ovf || b.ovf, a.nan || b.nan⟩

/-- The core once an effect is made. -/
def Effect.apply (e : Effect) (c : Core) : Core :=
  { c with
    sp := memWrL c.sp e.sp
    mxe := { c.mxe with
      exact := e.mode.getD c.mxe.exact
      tiles := e.tiles.foldl (fun t p => tabSet t p.1 p.2) c.mxe.tiles
      slots := e.slots.foldl (fun t p => tabSet t p.1 p.2) c.mxe.slots
      slabs := c.mxe.slabs + BitVec.ofNat 64 e.slabs }
    vxe := { c.vxe with
      regs := e.vregs.foldl (fun t p => tabSet t p.1 p.2) c.vxe.regs
      flags := c.vxe.flags.or e.vflags
      elems := c.vxe.elems + BitVec.ofNat 64 e.elems } }

/-- The queue of an engine. -/
def Core.queue (c : Core) (e : Eng) : Queue := tabGet {} c.queues e.num

def Core.setQueue (c : Core) (e : Eng) (q : Queue) : Core := { c with queues := tabSet c.queues e.num q }

/-- The core as the next instruction of a queue finds it: with the effects of that queue's instructions made in order
(R51), whatever is still in progress. -/
def Core.view (c : Core) (e : Eng) : Core := (c.queue e).flights.foldl (fun c f => f.eff.apply c) c

end Sys2Proof.Machine
end

