-- ==== Sys2Proof/Machine/State.lean ====
section
/-! DEFINITION. The state of the Aethunex A4, its faults and refusals, and the state after reset. The initial value of
every field is its reset value; INVENTORY.md lists each with its rule. -/

namespace Sys2Proof.Machine

/-- Where the model stops. -/
inductive Fault where
  /-- Raised by a command that names a physical address that R182 and R277 say does not exist. Safe: the hardware
  has no such access. -/
  | noSuchAddress (pa : Nat)
deriving DecidableEq, Repr

/-- What the model refuses. -/
inductive Refusal where
  /-- The answer of an arm of exec whose command has no meaning yet. Safe. -/
  | notModelled (mnemonic : String)
deriving DecidableEq, Repr

/-- The machine. -/
structure State where
  /-- Commands that wait, first in, first out. -/
  pending : List Sys2Proof.Instr := []
  /-- The model's own counter at which free values are read (assumption 12). -/
  free    : Nat := 0
  hub     : Hub := {}
  cores   : Tab Core := []
  mem     : Memory := {}
  cache   : Cache := {}
  links   : Links := {}
  tim     : Tim := {}
  cal     : Calendar := {}
  fab     : Fabric := {}
  sol     : Solstice := {}
  fns     : Tab HostFn := []
  host    : HostSide := {}
  cmds    : List Cmd := []
  nextCmd : Nat := 1
  ctxs    : Tab Ctx := []
  parts   : Tab Part := []
  scheds  : Tab Sched := []
  /-- Translations that HD has cached, by context (R398). -/
  hdTlb   : Tab (Tab Nat) := []
  /-- Saved core states by context, then by core (R403). -/
  saved   : Tab (Tab Core) := []
  pwr     : Power := {}
  log     : FaultLog := {}
  recov   : Recovery := {}
  mw      : Midwinter := {}
  sec     : Security := {}
  sup     : Supplies := {}
deriving DecidableEq, Repr

/-- The machine at power-on, before its always-on domain has left reset (R491): every field at the value that the
inventory names. -/
def State.reset : State := {}

end Sys2Proof.Machine
end

