-- ==== Sys2Proof/Machine/Ops.lean ====
section
/-! DEFINITION. The named operations over the state: access to its tables, free choices, fault records and the
recoveries they make due (R19 to R21, R444 to R448, R502), final statuses of commands (R373). -/

namespace Sys2Proof.Machine

/-- The outcome of a command. -/
abbrev Out := Host.Outcome State Fault Refusal

/-! Tables of the state. -/

def State.core (s : State) (n : Nat) : Core := tabGet {} s.cores n
def State.setCore (s : State) (n : Nat) (c : Core) : State := { s with cores := tabSet s.cores n c }
def State.modCore (s : State) (n : Nat) (f : Core → Core) : State := s.setCore n (f (s.core n))

def State.ctx (s : State) (n : Nat) : Ctx := tabGet {} s.ctxs n
def State.setCtx (s : State) (n : Nat) (c : Ctx) : State := { s with ctxs := tabSet s.ctxs n c }
def State.modCtx (s : State) (n : Nat) (f : Ctx → Ctx) : State := s.setCtx n (f (s.ctx n))

def State.part (s : State) (n : Nat) : Part := tabGet {} s.parts n
def State.setPart (s : State) (n : Nat) (p : Part) : State := { s with parts := tabSet s.parts n p }

def State.fn (s : State) (n : Nat) : HostFn := tabGet {} s.fns n
def State.setFn (s : State) (n : Nat) (f : HostFn) : State := { s with fns := tabSet s.fns n f }
def State.modFn (s : State) (n : Nat) (f : HostFn → HostFn) : State := s.setFn n (f (s.fn n))

def State.slice (s : State) (n : Nat) : Slice := tabGet {} s.cache.slices n
def State.setSlice (s : State) (n : Nat) (x : Slice) : State :=
  { s with cache := { s.cache with slices := tabSet s.cache.slices n x } }
def State.modSlice (s : State) (n : Nat) (f : Slice → Slice) : State := s.setSlice n (f (s.slice n))

def State.chan (s : State) (n : Nat) : Chan := tabGet {} s.mem.chans n
def State.setChan (s : State) (n : Nat) (x : Chan) : State := { s with mem := { s.mem with chans := tabSet s.mem.chans n x } }

def State.llcPart (s : State) (p : Nat) : LlcPart := tabGet {} s.cache.parts p

def State.port (s : State) (p : Nat) : Port := tabGet {} s.fab.ports p
def State.setPort (s : State) (p : Nat) (x : Port) : State := { s with fab := { s.fab with ports := tabSet s.fab.ports p x } }

def State.link (s : State) (n : Nat) : DieLink := tabGet {} s.links.links n
def State.setLink (s : State) (n : Nat) (x : DieLink) : State := { s with links := { s.links with links := tabSet s.links.links n x } }

def State.site (s : State) (n : Nat) : Site := tabGet {} s.links.sites n
def State.setSite (s : State) (n : Nat) (x : Site) : State := { s with links := { s.links with sites := tabSet s.links.sites n x } }

def State.sched (s : State) (g : Nat) : Schedule := tabGet {} s.sol.sched g
def State.setSched (s : State) (g : Nat) (x : Schedule) : State := { s with sol := { s.sol with sched := tabSet s.sol.sched g x } }

/-- Reference time in ns (R281). -/
def State.now (s : State) : Nat := s.tim.now.toNat

/-- Hold a number at its greatest value. -/
def satTo (max n : Nat) : Nat := if max < n then max else n

/-! Free choices (assumption 12). -/

/-- One of n behaviours that the specification allows, and the state whose counter has advanced. -/
def State.choose (s : State) (n : Nat) : Nat × State := (Config.pick s.free % n, { s with free := s.free + 1 })

/-! Fault records (R444, R445). -/

/-- Add a record; the log holds the last 4,096. The answer is its number. -/
def State.record (s : State) (r : FaultRec) : Nat × State :=
  let n := s.log.next.toNat
  let kept := if 4096 ≤ n then tabDel s.log.recs (n - 4096) else s.log.recs
  (n, { s with log := { recs := tabSet kept n { r with time := s.tim.now }, next := s.log.next + 1 } })

/-- Change a record that is still held. -/
def State.modRecord (s : State) (n : Nat) (f : FaultRec → FaultRec) : State :=
  match tabGet? s.log.recs n with
  | none => s
  | some r => { s with log := { s.log with recs := tabSet s.log.recs n (f r) } }

def FaultRec.govern (r : FaultRec) : FaultRec := { r with governing := true, subsumed := false }
def FaultRec.subsume (r : FaultRec) : FaultRec := { r with governing := false, subsumed := true }

/-- Numbers of the records of context faults whose teardown has not begun (R20). -/
def State.openFaults (s : State) : List Nat :=
  s.ctxs.filterMap fun p => match p.2.tear with
    | some t => if t.step = 0 then t.record else none
    | none => none

/-- R20: a fault of class 2 or 3 is recorded and makes its recovery due; the higher class governs, and what the
recovery covers is subsumed. R458: what happens to one that is detected during a recovery. -/
def State.arise (s : State) (cls : Nat) (r : FaultRec) : State :=
  let r := { r with cls := BitVec.ofNat 8 cls }
  let cur := if s.recov.state = 0 then s.recov.due else s.recov.state.toNat + 1
  if s.recov.state = 3 then (s.record r).2
  else if s.recov.state = 2 then
    if cls = 3 then
      let s := (s.record r).2
      { s with recov := { s.recov with state := 3, step := 0 }, hub := { s.hub with bootStatus := 0x31 } }
    else
      let (n, s) := s.record r.subsume
      { s with recov := { s.recov with covers := s.recov.covers ++ [n] } }
  else if cls ≤ cur then
    let (n, s) := s.record r.subsume
    { s with recov := { s.recov with covers := s.recov.covers ++ [n] } }
  else
    let opened := s.openFaults
    let before := if cur = 0 then [] else [s.recov.record]
    let s := (opened ++ before).foldl (fun s n => s.modRecord n FaultRec.subsume) s
    let (n, s) := s.record r.govern
    { s with recov := { s.recov with
        due := cls, record := n
        detected := if cur = 0 then s.now else s.recov.detected
        covers := s.recov.covers ++ opened ++ before ++ [n] } }

/-- A cause without a request (R446): context 0 of partition 0, TAG_VALID 0. -/
def FaultRec.untagged (s : State) (cause : Nat) (detail : Nat) : FaultRec :=
  { cause := BitVec.ofNat 8 cause, status := BitVec.ofNat 8 Status.faulted.code, srcDevice := s.fab.device,
    detail := BitVec.ofNat 64 detail }

/-! Commands by their number. -/

def State.cmd? (s : State) (id : Nat) : Option Cmd := s.cmds.find? fun c => c.id == id

def State.modCmd (s : State) (id : Nat) (f : Cmd → Cmd) : State :=
  { s with cmds := s.cmds.map fun c => if c.id = id then f c else c }

/-- The SEQ of a command packet (R369): bytes 4 to 7. -/
def Cmd.seq (c : Cmd) : Nat := byteFld c.pkt 4 4

/-- The fields of a record that name a command (R445). -/
def FaultRec.ofCmd (r : FaultRec) (c : Option Cmd) : FaultRec :=
  match c with
  | none => r
  | some c => { r with seq := BitVec.ofNat 32 c.seq, ring := BitVec.ofNat 8 c.ring, function := BitVec.ofNat 8 c.fn }

/-- The record of a fault on a request with a tag (R21, R445): the context, where it came from, and the command. -/
def FaultRec.ofTag (s : State) (t : Tag) (cause : Nat) (die addr detail : Nat) : FaultRec :=
  let base : FaultRec :=
    { cause := BitVec.ofNat 8 cause, status := BitVec.ofNat 8 Status.faulted.code, tagValid := true
      remote := t.remote.isSome, host := t.host
      srcDevice := match t.remote with
        | some d => BitVec.ofNat 16 d
        | none => s.fab.device
      context := BitVec.ofNat 8 t.ctx, partition := BitVec.ofNat 4 t.part
      core := match t.core with
        | some c => BitVec.ofNat 16 c
        | none => 0xFFFF
      queue := BitVec.ofNat 8 t.queue, die := BitVec.ofNat 8 die
      addr := BitVec.ofNat 64 addr, detail := BitVec.ofNat 64 detail }
  match t.core with
  | some c => base.ofCmd (s.cmd? (s.core c).cmd)
  | none => base

/-- A context fault on a queue of a core, 7 for none (R19, R70, R411, R502): the record, CORE_STATUS, and state 4 of the
context. -/
def State.faultQueue (s : State) (n q : Nat) (f : CtxFault) : State :=
  let c := s.core n
  let during := s.recov.due != 0 || s.recov.state == 1 || s.recov.state == 2
  let r : FaultRec :=
    { cls := 1, cause := BitVec.ofNat 8 f.reason.code, status := BitVec.ofNat 8 f.status, tagValid := true
      subsumed := during, context := c.context, partition := c.partition, srcDevice := s.fab.device
      core := BitVec.ofNat 16 n, queue := BitVec.ofNat 8 q, die := BitVec.ofNat 8 (n / 144)
      addr := BitVec.ofNat 64 f.addr
      detail := BitVec.ofNat 64 (if f.reason = .translation then f.cause else f.status) }
  let (k, s) := s.record (r.ofCmd (s.cmd? c.cmd))
  let s := if during then { s with recov := { s.recov with covers := s.recov.covers ++ [k] } } else s
  let s := s.setCore n { c with
    faulted := true, faultQueue := BitVec.ofNat 3 q, faultReason := BitVec.ofNat 6 f.reason.code
    lastStatus := BitVec.ofNat 8 Status.faulted.code, stopped := true }
  s.modCtx c.context.toNat fun x =>
    if x.tear.isSome then x
    else { x with state := .tearing
                  tear := some { cause := .fault, cmd := some c.cmd, reason := f.reason.code, started := s.now, record := some k } }

def State.faultCtx (s : State) (n : Nat) (e : Eng) (f : CtxFault) : State := s.faultQueue n e.num f

/-- A job fault on a request (R19, R448). -/
def State.jobFault (s : State) (t : Tag) (cause die addr detail : Nat) : State :=
  s.arise 2 (FaultRec.ofTag s t cause die addr detail)

/-- A device fault without a request (R19, R446, R448). -/
def State.deviceFault (s : State) (cause detail die : Nat) : State :=
  s.arise 3 { FaultRec.untagged s cause detail with die := BitVec.ofNat 8 die }

/-- Is the device in service: no recovery runs, and the compute part has its supply (R438, R455, R462, R489)? -/
def State.serving (s : State) : Bool := s.recov.state == 0 && !s.recov.noPower

/-- Is a core between core start and kernel end, and not stopped by a fault or a recovery? -/
def State.live (s : State) (n : Nat) : Bool :=
  let c := s.core n
  c.running && c.resident && !c.stopped && s.serving

/-- Does a core issue instructions? Not once its pre-emption has begun (R402 step 1). -/
def State.issues (s : State) (n : Nat) : Bool := s.live n && ((tabGet? s.scheds n).bind Sched.next).isNone

end Sys2Proof.Machine
end

