-- ==== Sys2Proof/Machine/Tick.lean ====
section
/-! DEFINITION. Reference time as it passes (R281, R282, R286, R288), what accrues with it on the cores (R70, R399, R401),
and the edges of frames (R289, R294). -/

namespace Sys2Proof.Machine

/-- Rounding to the nearest integer of a / b. -/
def roundDiv (a b : Nat) : Nat := (2 * a + b) / (2 * b)

/-- Nanoseconds from a frame edge to the k-th edge after it (R289). -/
def Tim.frames (t : Tim) (k : Nat) : Nat := roundDiv (k * 10 ^ 9 * t.den.toNat) t.num.toNat

/-- The reference time of the edge of a frame, as the calendar expects it (R289, R294); none without a frame rate, or while
frames have not come again after a rate of 0 (R290). -/
def Tim.frameTime (t : Tim) (f : Nat) : Option Nat :=
  if t.num = 0 then none
  else if t.noSyn && decide (t.frame.toNat < f) then none
  else if t.frame.toNat ≤ f then some (t.synFrom + t.frames (t.synCount + (f - t.frame.toNat)))
  else some (t.frameEdge.toNat - t.frames (t.frame.toNat - f))

/-- The due time of a calendar entry's next firing (R294); none while no frame rate is set. -/
def CalEntry.dueAt (e : CalEntry) (t : Tim) : Option Nat :=
  let w := e.due.toNat + e.n * e.period.toNat
  if e.base then (t.frameTime w).map (· + e.offset.toNat) else some w

/-- The rate of reference time against the local oscillator, in parts per 10^9: the correction learned, the steering, and
the 50 ppm of a slew (R286, R288). -/
def Tim.rate (t : Tim) : Int :=
  t.learned + t.steer + (if t.slewing then (if 0 < t.toSlew then 50000 else if t.toSlew < 0 then -50000 else 0) else 0)

/-- Advance reference time by n nanoseconds of the local oscillator; the fraction of 32 bits carries (R282). A slew goes
on until 10 ns of its offset are left (R288); toSlew counts in parts per 10^6 of a nanosecond. -/
def Tim.advance (t : Tim) (n : Nat) : Tim :=
  let total : Int := (t.now.toNat * 2 ^ 32 + t.frac.toNat : Nat) + (n : Int) * (2 ^ 32 + t.rate * 2 ^ 32 / 10 ^ 9)
  let left : Int := if !t.slewing then t.toSlew
    else if 0 < t.toSlew then t.toSlew - 50 * n else t.toSlew + 50 * n
  { t with now := BitVec.ofInt 64 (total / 2 ^ 32), frac := BitVec.ofInt 32 (total % 2 ^ 32)
           toSlew := left, slewing := t.slewing && decide (10 * 10 ^ 6 < left.natAbs) }

/-- Does an engine have an instruction executing? -/
def Core.executes (c : Core) (e : Eng) : Bool :=
  match e with
  | .tge => !c.tge.groups.isEmpty
  | .cpe0 => !c.cpe0.copies.isEmpty
  | .cpe1 => !c.cpe1.copies.isEmpty
  | _ => !(c.queue e).flights.isEmpty

/-- CORE_BUSY_e and CORE_WAIT_e, in tenths of a cycle of 2.1 GHz, over ns of reference time (R70). -/
def Core.clock (c : Core) (ns : Nat) : Core :=
  Eng.all.foldl (fun c e =>
    let h := (c.queue e).hold
    let c := if c.executes e then { c with busy := zSet c.busy e.num (zGet c.busy e.num + 21 * ns) } else c
    if h = .wait || h == .waitmem || h == .fence then { c with waited := zSet c.waited e.num (zGet c.waited e.num + 21 * ns) }
    else c) c

/-- The occupancy of the engines of a resident core (R401): whole microseconds go to the context, the rest stays. -/
def State.occupy (s : State) (n ns : Nat) : State :=
  Eng.all.foldl (fun s e =>
    let c := s.core n
    if (c.queue e).ended then s
    else
      let r := zGet c.rest e.num + ns
      let s := s.setCore n { c with rest := zSet c.rest e.num (r % 1000) }
      s.modCtx c.context.toNat fun x => { x with time := tabMod 0 x.time e.num fun t => t + BitVec.ofNat 64 (r / 1000) }) s

/-- The scheduler's record of a core. -/
def State.plan (s : State) (n : Nat) : Sched := tabGet {} s.scheds n
def State.setPlan (s : State) (n : Nat) (p : Sched) : State := { s with scheds := tabSet s.scheds n p }

/-- V(c, n) grows by ceiling(2^32 / SHARE) in each microsecond in which c is resident on n (R399). -/
def State.charge (s : State) (n ns : Nat) : State :=
  let p := s.plan n
  let c := (s.core n).context.toNat
  let us := (p.rest + ns) / 1000
  let share := (s.ctx c).share.toNat
  s.setPlan n { p with rest := (p.rest + ns) % 1000, v := zSet p.v c (zGet p.v c + us * ceilDiv (2 ^ 32) share) }

/-- What ns of reference time bring to the cores. -/
def State.pass (s : State) (ns : Nat) : State :=
  if ns = 0 then s
  else
    let resident := (s.cores.filter fun p => p.2.resident).map (·.1)
    resident.foldl (fun s n => ((s.modCore n fun c => c.clock ns).occupy n ns).charge n ns) s

end Sys2Proof.Machine
end

