-- ==== Sys2Proof/Machine/LlcOps.lean ====
section
/-! DEFINITION. The home of a line: the slice hash (R182 to R184), memory behind it with its ECC (R235 to R244), ways and
their replacement (R185 to R188), performing a request (R186, R194 to R203, R218), transactions and their snoops (R214 to
R224), the L1 part (R189, R221). -/

namespace Sys2Proof.Machine

/-! Where a line lives. -/

def rotl8 (x k : Nat) : Nat := ((x <<< k) ||| (x >>> (8 - k))) % 256

/-- The slice, and channel, of the line a = PA[47:6] (R183). -/
def sliceOf (a : Nat) : Nat :=
  let c (i : Nat) : Nat := (a >>> (8 * i)) % 256
  c 0 ^^^ rotl8 (c 1) 1 ^^^ rotl8 (c 2) 2 ^^^ rotl8 (c 3) 3 ^^^ rotl8 (c 4) 4 ^^^ rotl8 ((a >>> 40) % 4) 5

/-- The set within the slice (R184). -/
def setOf (a : Nat) : Nat := ((a >>> 8) % 2048) ^^^ ((a >>> 19) % 2048)

/-- The channel line index (R237). -/
def chanIndex (a : Nat) : Nat := (a >>> 8) % 2 ^ 28

/-- Rank, bank group, bank, row and column of a channel line index (R237). -/
def placeOf (l : Nat) : List (Nat × Nat) :=
  [(1, (l >>> 10) % 2), (2, ((l >>> 6) % 4) ^^^ ((l >>> 11) % 4)), (2, ((l >>> 8) % 4) ^^^ ((l >>> 13) % 4)),
   (17, (l >>> 11) % 2 ^ 17), (6, l % 64)]

/-- The line stored at a channel's line index (R238). -/
def lineAt (chan l : Nat) : Nat :=
  let hi := l <<< 8
  hi ||| (chan ^^^ sliceOf hi)

/-- Does a line lie in device memory (R182)? -/
def inMemory (a : Nat) : Bool := decide (a < 2 ^ 36)

/-! Memory and its ECC (R239 to R244). -/

/-- Error patterns united: symbols that differ twice the same way are right again. -/
def errXor (a b : ErrPat) : ErrPat :=
  b.foldl (fun (acc : ErrPat) (e : Nat × Byte) =>
    let v : Byte := ((tabGet? acc e.1).getD 0) ^^^ e.2
    if v = 0 then tabDel acc e.1 else tabSet acc e.1 v) a

/-- The wrong symbols of one half line. -/
def errHalf (e : ErrPat) (h : Nat) : ErrPat := e.filter fun p => p.1 / 36 == h

/-- What the decoder makes of a half line: its 32 bytes as a number, and 0 no error, 1 corrected, 2 uncorrectable. -/
structure HalfRead where
  data : Nat
  kind : Nat
deriving DecidableEq, Repr

/-- R239: one wrong symbol is corrected, two or three are detected, the outcome of four or more is open. -/
def decodeHalf (good : Nat) (e : ErrPat) (h k : Nat) : HalfRead :=
  let e := errHalf e h
  if e.length = 0 then ⟨good, 0⟩
  else if e.length = 1 then ⟨good, 1⟩
  else if e.length < 4 then ⟨good, 2⟩
  else
    let pick := Config.pick k % 3
    if pick = 0 then ⟨good, 2⟩
    else if pick = 1 then ⟨(Config.eccData k).toNat, 1⟩
    else ⟨e.foldl (fun d p => if p.1 % 36 < 32 then d ^^^ (p.2.toNat <<< (8 * (p.1 % 36))) else d) good, 0⟩

/-- The bytes that stand in memory for a line, without regard to errors. -/
def State.memLine (s : State) (a : Nat) : Line := bytesLine (memRdN s.mem.bytes (64 * a) 64)

/-- A write of a whole line to its channel: both codewords are new (R241, R244). -/
def State.chanWrite (s : State) (a : Nat) (l : Line) : State :=
  let n := sliceOf a
  let c := s.chan n
  let s := s.setChan n { c with writes := c.writes + 1 }
  { s with mem := { s.mem with bytes := memWrN s.mem.bytes (64 * a) (lineBytes l), errs := tabDel s.mem.errs a } }

/-- MC_ERR_LOC (R253). -/
def errLocWord (a : Nat) (ue : Bool) (sub : Nat) : Word :=
  BitVec.ofNat 32 (pack ([(1, b2n ue), (1, sub)] ++ placeOf (chanIndex a) ++ [(2, 0)]))

/-- MC_UE_INFO (R253). -/
def Chan.ueInfo (c : Chan) : Nat :=
  pack [(1, b2n c.ueValid), (1, b2n c.ueOverflow), (2, c.ueSource.toNat), (1, b2n c.ueRemote), (1, b2n c.ueHost),
        (8, c.ueCtx.toNat), (4, c.uePart.toNat), (14, 0)]

/-- The record of an uncorrectable error in the channel's registers (R253). -/
def State.recordUe (s : State) (a : Nat) (source : Nat) (t : Tag) (sub : Nat) : State :=
  let n := sliceOf a
  let c := { s.chan n with errLoc := errLocWord a true sub }
  s.setChan n (if c.ueValid then { c with ueOverflow := true } else
    { c with ueValid := true, ueSource := BitVec.ofNat 2 source, ueRemote := t.remote.isSome, ueHost := t.host
             ueCtx := if source = 2 then 0 else BitVec.ofNat 8 t.ctx
             uePart := if source = 2 then 0 else BitVec.ofNat 4 t.part, ueLine := BitVec.ofNat 42 a })

/-- One read of a line from its channel with the flips that this read alone meets: what the decoder delivers. -/
def State.readOnce (s : State) (a : Nat) (flips : ErrPat) : HalfRead × HalfRead × State :=
  let n := sliceOf a
  let c := s.chan n
  let e := errXor (tabGet [] s.mem.errs a) flips
  let good := (s.memLine a).toNat
  let r0 := decodeHalf (good % 2 ^ 256) e 0 s.free
  let r1 := decodeHalf (good / 2 ^ 256) e 1 (s.free + 1)
  (r0, r1, { (s.setChan n { c with reads := c.reads + 1 }) with free := s.free + 2 })

def joinHalves (r0 r1 : HalfRead) : Line := BitVec.ofNat 512 (r0.data % 2 ^ 256 + 2 ^ 256 * r1.data)

/-- What a read without uncorrectable half delivers: corrected errors are counted, located and written back (R242). -/
def State.readGood (s : State) (a : Nat) (r0 r1 : HalfRead) : Line × State :=
  let l := joinHalves r0 r1
  if r0.kind = 0 && r1.kind == 0 then (l, s)
  else
    let n := sliceOf a
    let c := s.chan n
    let s := s.setChan n { c with
      ceCount := if c.ceCount = 0xFFFFFFFF then c.ceCount else c.ceCount + 1
      errLoc := errLocWord a false (if r1.kind = 0 then 0 else 1) }
    (l, s.chanWrite a l)

/-- A line read with its check: an uncorrectable error is read once more (R242, R243). None: the error stands. -/
def State.chanRead (s : State) (a : Nat) (source : Nat) (t : Tag) (first second : ErrPat) : Option Line × State :=
  let (r0, r1, s) := s.readOnce a first
  if r0.kind < 2 && r1.kind < 2 then
    let (l, s) := s.readGood a r0 r1
    (some l, s)
  else
    let (r0, r1, s) := s.readOnce a second
    if r0.kind < 2 && r1.kind < 2 then
      let (l, s) := s.readGood a r0 r1
      (some l, s)
    else (none, s.recordUe a source t (if r0.kind = 2 then 0 else 1))

/-- The job fault of an uncorrectable read (R243, R448 cause 0x01). -/
def State.ueFault (s : State) (a : Nat) (t : Tag) : State :=
  s.jobFault t 0x01 (sliceOf a / 64) (64 * a) ((s.chan (sliceOf a)).ueInfo + sliceOf a * 2 ^ 32)

/-! Ways and their replacement (R187). -/

def setBit (b k : Nat) (v : Bool) : Nat := if v then b ||| 2 ^ k else if b.testBit k then b - 2 ^ k else b

/-- Every node on the path to a leaf points to the other branch. -/
def plruTouch (depth bits leaf : Nat) : Nat :=
  (List.range depth).foldl (fun b i =>
    setBit b (2 ^ i - 1 + (leaf >>> (depth - i))) ((leaf >>> (depth - 1 - i)) % 2 == 0)) bits

/-- The walk from the root over the branches that hold a candidate: remaining depth, node, first leaf. -/
def plruWalk (bits : Nat) (cand : Nat → Bool) : Nat → Nat → Nat → Nat
  | 0, _, leaf => leaf
  | d + 1, node, leaf =>
    let holds (side : Nat) : Bool := (List.range (2 ^ d)).any fun i => cand (leaf + side * 2 ^ d + i)
    let side := if bits.testBit node then (if holds 1 then 1 else 0) else (if holds 0 then 0 else 1)
    plruWalk bits cand d (2 * node + 1 + side) (leaf + side * 2 ^ d)

def Slice.way (sl : Slice) (k : Nat) : Way := tabGet {} sl.ways k

/-- An invalid way that never held anything is not listed. -/
def Slice.setWay (sl : Slice) (k : Nat) (w : Way) : Slice :=
  { sl with ways := if w = {} then tabDel sl.ways k else tabSet sl.ways k w }

def Slice.count (sl : Slice) (k n : Nat) : Slice := { sl with cnt := tabSet sl.cnt k (tabGet 0 sl.cnt k + BitVec.ofNat 64 n) }

def State.count (s : State) (n k by_ : Nat) : State := s.modSlice n fun sl => sl.count k by_

def Way.present (w : Way) : Bool := w.st == .clean || w.st == .dirty

/-- The keys of a line's set. -/
def wayKeys (a : Nat) : List Nat := (List.range 12).map (12 * setOf a + ·)

def Slice.find (sl : Slice) (a : Nat) : Option Nat := (wayKeys a).find? fun k => (sl.way k).present && (sl.way k).line == a

def Slice.dead? (sl : Slice) (a : Nat) : Option Nat := (wayKeys a).find? fun k => (sl.way k).st == .dead && (sl.way k).line == a

def Slice.entry? (sl : Slice) (a : Nat) : Option MissEntry := sl.miss.find? fun m => m.line == a

def Slice.setEntry (sl : Slice) (m : MissEntry) : Slice :=
  if (sl.entry? m.line).isSome then { sl with miss := sl.miss.map fun x => if x.line = m.line then m else x }
  else { sl with miss := sl.miss ++ [m] }

def Slice.delEntry (sl : Slice) (a : Nat) : Slice := { sl with miss := sl.miss.filter fun m => m.line != a }

/-- May the way be chosen as a victim: Clean or Dirty, and no transaction in progress on it? -/
def Slice.idle (sl : Slice) (k : Nat) : Bool := (sl.way k).present && (sl.entry? (sl.way k).line).isNone

/-- The pinned way that has gone longest without an update, the lowest-numbered on a tie. -/
def longestPinned (sl : Slice) (ks : List Nat) : Option Nat :=
  ks.foldl (fun best k => match best with
    | none => some k
    | some b => if (sl.way k).pinAt < (sl.way b).pinAt then some k else some b) none

/-- R187: the way that an access takes in its set, within a mask. -/
def Slice.pick (sl : Slice) (a mask : Nat) : Option Nat :=
  let ks := (wayKeys a).filter fun k => mask.testBit (k % 12)
  match ks.find? fun k => (sl.way k).st == .invalid with
  | some k => some k
  | none =>
    match ks.find? fun k => (sl.way k).st == .dead with
    | some k => some k
    | none =>
      let cand (w : Nat) : Bool := let k := 12 * setOf a + w
        decide (w < 12) && ks.contains k && sl.idle k && !(sl.way k).pinned
      if (List.range 12).any cand then
        some (12 * setOf a + plruWalk (zGet sl.plru (setOf a)) cand 4 0 0)
      else longestPinned sl (ks.filter fun k => sl.idle k)

def Slice.touch (sl : Slice) (k : Nat) : Slice :=
  { sl with plru := zSet sl.plru (k / 12) (plruTouch 4 (zGet sl.plru (k / 12)) (k % 12)) }

/-- R201: may a reduction that misses allocate its line? -/
def Slice.mayPin (sl : Slice) (a mask : Nat) : Bool :=
  let ks := (wayKeys a).filter fun k => mask.testBit (k % 12)
  let free := ks.filter fun k =>
    let w := sl.way k
    w.st == .invalid || w.st == .dead || (sl.idle k && !w.pinned)
  let unpinned := ks.filter fun k => !(sl.way k).pinned
  !free.isEmpty && decide (1 < unpinned.length)

/-! Requesters, agents and sharers (R211, R215, R225). -/

/-- The coherent agent that a requester number stands for. -/
def reqAgent (r : Nat) : Option Nat :=
  if r < 2304 then (if r % 4 = 0 then some (r / 4) else none)
  else if r < 2308 then some (r - 2304 + 576)
  else if r = 2309 || r == 2310 then some (r - 2309 + 580)
  else none

/-- The requester number of an agent. -/
def agentReq (a : Nat) : Nat := if a < 576 then 4 * a else if a < 580 then a - 576 + 2304 else a - 580 + 2309

def insertNat (x : Nat) (l : List Nat) : List Nat := if l.contains x then l else l ++ [x]

/-- The agents that an invalidation goes to (R215). -/
def Sharers.targets (sh : Sharers) (but : Option Nat) : List Nat :=
  let l1 := if sh.coarse then sh.rows.flatMap fun r => (List.range 12).map (12 * r + ·) else sh.l1s
  (l1 ++ sh.agents).filter fun a => some a != but

/-- A further sharer; the answer says whether the record has switched to coarse mode (R215). -/
def Sharers.add (sh : Sharers) (a : Nat) : Sharers × Bool :=
  if 576 ≤ a then ({ sh with agents := insertNat a sh.agents }, false)
  else if sh.coarse then ({ sh with rows := insertNat (a / 12) sh.rows }, false)
  else if sh.l1s.contains a || decide (sh.l1s.length < 4) then ({ sh with l1s := insertNat a sh.l1s }, false)
  else ({ sh with coarse := true, l1s := [], rows := (sh.l1s ++ [a]).foldl (fun r x => insertNat (x / 12) r) sh.rows }, true)

def Sharers.has (sh : Sharers) (a : Nat) : Bool :=
  if 576 ≤ a then sh.agents.contains a else if sh.coarse then sh.rows.contains (a / 12) else sh.l1s.contains a

/-- What remains when every sharer but one is invalidated; a coarse record keeps that one's row (R218). -/
def Sharers.only (sh : Sharers) (a : Nat) : Sharers :=
  if !sh.has a then {}
  else if 576 ≤ a then { agents := [a] }
  else if sh.coarse then { coarse := true, rows := [a / 12] } else { l1s := [a] }

/-- A sharer leaves by EVICT; an L1 in coarse mode leaves nothing behind to find. -/
def Sharers.drop (sh : Sharers) (a : Nat) : Sharers :=
  { sh with agents := sh.agents.filter (· != a), l1s := sh.l1s.filter (· != a) }

def Sharers.empty (sh : Sharers) : Bool := sh.agents.isEmpty && sh.l1s.isEmpty && sh.rows.isEmpty

/-! Performing a request on a line that the slice holds (R186, R199, R218). -/

/-- Was the atomic one that writes, and its new value, on a value of size bytes (R154, R174). -/
def atomicValue (op : AtomOp) (size old operand cmp : Nat) : Nat × Bool :=
  let n := 8 * size
  match op with
  | .add => ((old + operand) % 2 ^ n, true)
  | .min => (if signed n operand < signed n old then operand else old, true)
  | .max => (if signed n old < signed n operand then operand else old, true)
  | .exch => (operand, true)
  | .cas => if old = cmp then (operand, true) else (old, false)
  | .fadd => (toFp32 ((ofFp32 old).add (ofFp32 operand)), true)
  | _ => (old, false)

/-- Bytes of one element of a reduction (R67). -/
def AtomOp.element : AtomOp → Nat
  | .redBf16 => 2 | .redExact => 16 | _ => 4

def AtomOp.isRed : AtomOp → Bool
  | .redFp32 => true | .redBf16 => true | .redExact => true | _ => false

def RedFlags.or (a b : RedFlags) : RedFlags := ⟨a.ovf || b.ovf, a.nan || b.nan, a.invalid || b.invalid, a.range || b.range⟩

/-- One element update (R199). -/
def redElement (op : AtomOp) (old x : Nat) : Nat × RedFlags :=
  let fp (f : Format) : Nat × RedFlags :=
    let a := decodeNum f old
    let r := roundNum f (a.add (decodeNum f x))
    (r.1, { ovf := r.2.ovf, nan := r.2.nan && !a.isNan })
  match op with
  | .redExact =>
    let r := exactAdd old x
    (r.1, { invalid := r.2.invalid && old != exactInvalid, range := r.2.range })
  | .redBf16 => fp .bf16
  | _ => fp .fp32

/-- The element updates of one line, by element index, for the elements whose first byte the mask names. -/
def redLine (op : AtomOp) (old x : Line) (mask : BitVec 64) : Line × RedFlags :=
  let z := op.element
  (List.range (64 / z)).foldl (fun acc i =>
    if mask.getLsbD (i * z) then
      let r := redElement op (lineRd old (i * z) z) (lineRd x (i * z) z)
      (lineWr acc.1 (i * z) z r.1, acc.2.or r.2)
    else acc) (old, {})

/-- Does a request write? -/
def Req.writes (r : Req) : Bool := r.kind == .wrThrough || r.kind == .wrInv || r.kind == .atomic || r.kind == .wrBack

def Req.isRed (r : Req) : Bool := r.kind == .atomic && r.op.isRed

/-- A whole-line write needs no fill (R186). -/
def Req.whole (r : Req) : Bool := (r.kind == .wrThrough || r.kind == .wrInv) && r.mask == 0xFFFFFFFFFFFFFFFF

/-- The line after a request, whether it was written, and the flags of a reduction. -/
def Req.perform (r : Req) (old : Line) : Line × Bool × RedFlags :=
  match r.kind with
  | .wrThrough | .wrInv => (lineMerge old r.data r.mask, true, {})
  | .atomic =>
    if r.op.isRed then
      let x := redLine r.op old r.data r.mask
      (x.1, true, x.2)
    else
      let v := atomicValue r.op r.len (lineRd old r.off r.len) (r.data.toNat % 2 ^ (8 * r.len)) (r.cmp.toNat % 2 ^ (8 * r.len))
      (if v.2 then lineWr old r.off r.len v.1 else old, v.2, {})
  | _ => (old, false, {})

/-- What a served request brings back: the line it read (an atomic's, before it), flags, whether it re-read a dead
line, and the number of the write whose COMP is still to come (none: COMP and INV_DONE at once, R220). -/
structure Served where
  data  : Line := 0
  flags : RedFlags := {}
  reread : Bool := false
  id    : Option Nat := none
deriving DecidableEq, Repr

/-- The answers of a home to an access: performed, not yet (nothing has been performed; it is made again later), not
performed because of a fault (R230, R243). -/
inductive Ans where
  | done (r : Served)
  | busy
  | faulted
deriving DecidableEq, Repr

/-! Sending snoops. -/

def State.send (s : State) (ms : List Msg) : State := { s with cache := { s.cache with msgs := s.cache.msgs ++ ms } }

/-- Snoops of one kind for a line, on behalf of a request number; each target is counted (R231). -/
def State.snoop (s : State) (n a : Nat) (kind : MsgKind) (targets : List Nat) (id : Nat) : State :=
  (s.send (targets.map fun t => { kind := kind, dest := t, line := a, req := { line := a, id := id } })).count n 9 targets.length

/-- The directory after a request that finds the line without a foreign owner, the agents to invalidate, and whether the
sharer record has gone coarse (R218). -/
def dirAfter (d : Dir) (sh : Sharers) (r : Req) : Dir × Sharers × List Nat × Bool :=
  let me := reqAgent r.requester
  let sole (a : Nat) : Dir × Sharers × List Nat × Bool := (.s, { sh.only a with }, sh.targets (some a), false)
  let drop : Dir × Sharers × List Nat × Bool := (.i, {}, sh.targets none, false)
  match r.kind, me with
  | .rdOnce, _ => (if d = .s then .s else .i, sh, [], false)
  | .rdShared, some a =>
    let base := if d = .s then sh else {}
    let x := base.add a
    (.s, x.1, [], x.2)
  | .rdUnique, some a => (.e a, {}, sh.targets (some a), false)
  | .upgrade, some a => (if d = .m a then d else .e a, {}, sh.targets (some a), false)
  | .wrThrough, some a =>
    let x := sole a
    if x.2.1.empty then (.i, {}, x.2.2.1, false) else x
  | .atomic, some a =>
    if r.op.isRed || decide (576 ≤ a) then drop
    else
      let x := (sh.only a).add a
      (.s, x.1, sh.targets (some a), false)
  | .wrThrough, none | .wrInv, _ | .atomic, none => drop
  | _, _ => (d, sh, [], false)

/-- Take a new request number. -/
def State.newId (s : State) : Nat × State := (s.cache.nextId, { s with cache := { s.cache with nextId := s.cache.nextId + 1 } })

/-- A line dropped by a last-use mark whose copies are gone (R194). -/
def State.setDead (s : State) (n k : Nat) : State :=
  let sl := s.slice n
  s.setSlice n ((sl.setWay k { st := .dead, line := (sl.way k).line }).count 4 1)

/-- The snoops that take a line away from its sharers or its owner before its way changes (R216). -/
def evictSnoops (w : Way) (why : TxnFor) : List (Nat × SnoopKind) :=
  match w.dir with
  | .i => []
  | .s => (w.sh.targets none).map fun t => (t, .inv)
  | .e o => [(o, .inv)]
  | .m o => [(o, if why = .evict then .recall else .inv)]

def SnoopKind.msg : SnoopKind → MsgKind
  | .inv => .snpInv | .share => .snpShare | .recall => .snpRecall

/-- Is there no miss-table entry for a partition? 4 × MISS_RESV of the 96 are reserved to a sealed partition and never lent;
a granted CREDIT holds one of the others (R190, R208, R226). -/
def State.missFull (s : State) (n part : Nat) : Bool :=
  let sl := s.slice n
  let resv (p : Nat) : Nat := if (s.llcPart p).sealed then 4 * (s.llcPart p).missResv.toNat else 0
  let used (p : Nat) : Nat := (sl.miss.filter fun m => m.part == p).length
  let all := List.range 16
  let common := all.foldl (fun a p => a + (used p - resv p)) sl.credited.length
  let total := all.foldl (fun a p => a + resv p) 0
  decide (resv part ≤ used part) && decide (96 ≤ common + total)

/-- Start a transaction on a line that the slice holds: its entry, its snoops (R214, R218). -/
def State.startTxn (s : State) (n a k : Nat) (t : Txn) (filling : Bool) (waiters : List Req) : State :=
  let (id, s) := s.newId
  let s := s.modSlice n fun sl => sl.setEntry { line := a, way := k, filling := filling, waiters := waiters, part := t.req.tag.part
                                                txn := some { t with since := s.now, id := id } }
  let s := t.owed.foldl (fun s o => s.snoop n a o.2.msg [o.1] id) s
  if t.why = .evict || t.why == .drop then
    s.count n 10 (t.owed.filter fun o => o.2 != .share).length
  else s

/-- A last-use mark takes effect on a line (R194, R195). -/
def State.dropLine (s : State) (n k : Nat) (t : Tag := {}) : State :=
  let sl := s.slice n
  let w := sl.way k
  if w.pinned then s.setSlice n (sl.setWay k { w with marked := true })
  else
    let owed := evictSnoops w .drop
    if owed.isEmpty then s.setDead n k
    else s.startTxn n w.line k { why := .drop, owed := owed, req := { line := w.line, tag := t } } false []

/-- A line performed on: queues whose WAITMEM watches it get a notice (R503). -/
def State.notify (s : State) (a : Nat) : State :=
  { s with cores := s.cores.map fun p =>
      (p.1, if p.2.queues.any (fun q => q.2.hold == .waitmem && q.2.watch == some a) then
        { p.2 with queues := p.2.queues.map fun q => (q.1, if q.2.hold = .waitmem && q.2.watch == some a then { q.2 with notice := true } else q.2) }
       else p.2) }

/-- The slice after a request is performed on a way that holds its line and has no foreign owner: data, state, pin and
directory (R186, R200, R218). -/
def Slice.performed (sl : Slice) (k : Nat) (r : Req) : Slice :=
  let w := sl.way k
  let x := r.perform w.data
  let d := dirAfter w.dir w.sh r
  let red := r.isRed
  let w' : Way := { w with
    data := x.1, st := if x.2.1 then .dirty else w.st
    pinned := red, pinAt := if red then sl.order else w.pinAt, marked := w.marked && red
    dir := d.1, sh := d.2.1 }
  let sl := { (sl.setWay k w').touch k with order := if red then sl.order + 1 else sl.order }
  let sl := if red then sl.count 6 1 else sl
  if d.2.2.2 then sl.count 12 1 else sl

/-- The invalidations of a request, and the record that waits for them; the request number, if there are any (R219, R220). -/
def State.invalidate (s : State) (n : Nat) (r : Req) (inv : List Nat) : Option Nat × State :=
  if inv.isEmpty then (none, s)
  else
    let (id, s) := s.newId
    let s := s.snoop n r.line .snpInv inv id
    let rec_ : WriteRec := { id := id, line := r.line, requester := r.requester, core := r.tag.core, queue := r.tag.queue
                             acks := inv, snooped := true, silent := r.kind == .rdUnique, ctx := r.tag.ctx }
    (some id, { s with cache := { s.cache with writes := s.cache.writes ++ [rec_] } })

/-- Perform a request on a way that holds its line and has no foreign owner: the slice, the notices, the invalidations, a
last-use mark, and what the requester receives (R186, R194, R200, R218 to R220). -/
def State.performAt (s : State) (n k : Nat) (r : Req) (reread : Bool) : Served × State :=
  let w := (s.slice n).way k
  let s := s.setSlice n ((s.slice n).performed k r)
  let s := if r.writes then s.notify r.line else s
  let (id, s) := s.invalidate n r (dirAfter w.dir w.sh r).2.2.1
  let s := if (r.lastUse || (w.marked && w.pinned && !r.isRed)) then s.dropLine n k r.tag else s
  ({ data := w.data, flags := (r.perform w.data).2.2, reread := reread, id := if r.writes || r.kind == .upgrade then id else none }, s)

/-- LLC_DEADREAD_INFO and _ADDR, and the count (R196, R210). -/
def State.noteReread (s : State) (n : Nat) (r : Req) : State :=
  s.modSlice n fun sl => { (sl.count 5 1) with
    deadCtx := if r.tag.host then 0 else BitVec.ofNat 8 r.tag.ctx, deadPart := if r.tag.host then 0 else BitVec.ofNat 4 r.tag.part
    deadRemote := r.tag.remote.isSome, deadHost := r.tag.host, deadLine := BitVec.ofNat 42 r.line }

/-- The victim of a way is written back if Dirty, a pinned one as its partial sum (R187, R188, R203); the way is then
Invalid. -/
def State.writeBack (s : State) (n k : Nat) : State :=
  let sl := s.slice n
  let w := sl.way k
  let sl := if w.pinned then sl.count 8 1 else sl
  if w.st = .dirty then (s.setSlice n ((sl.setWay k {}).count 3 1)).chanWrite w.line w.data
  else s.setSlice n (sl.setWay k {})

/-- The mask of ways that a request allocates in (R206). -/
def State.mask (s : State) (t : Tag) : Nat := (s.llcPart t.part).ways.toNat

/-- An owner of the line other than the requester (R218). -/
def foreignOwner (w : Way) (r : Req) : Option Nat :=
  let own (o : Nat) : Option Nat := if reqAgent r.requester = some o then none else some o
  match w.dir with
  | .e o => own o
  | .m o => own o
  | _ => none

/-- The snoop that brings the line back from its owner (R218). -/
def Req.snoopKind (r : Req) : SnoopKind :=
  if r.kind = .rdOnce || r.kind == .rdShared then .share else .recall

/-- Make room in the set of a line: the way to fill, or the state in which the eviction of its present line has begun,
or no way at all. -/
inductive Room where
  | way (k : Nat) (s : State)
  | evicting (s : State)
  | none
deriving DecidableEq, Repr

def State.room (s : State) (n a mask : Nat) (t : Tag) : Room :=
  let sl := s.slice n
  match sl.pick a mask with
  | none => .none
  | some k =>
    let w := sl.way k
    if !w.present then .way k s
    else
      let owed := evictSnoops w .evict
      if owed.isEmpty then .way k (s.writeBack n k)
      else if s.missFull n t.part then .none
      else .evicting (s.startTxn n w.line k { why := .evict, owed := owed, req := { line := w.line, tag := t } } false [])

/-- A line that has just come into the slice; a Dead way that still names it is freed. -/
def State.install (s : State) (n k a : Nat) (l : Line) : State :=
  s.modSlice n fun sl =>
    let sl := match sl.dead? a with
      | some d => sl.setWay d {}
      | none => sl
    sl.setWay k { st := .clean, line := a, data := l }

/-- Does an access that finds its line absent re-read it: a Dead way still names the line, and it is no write (R196)? -/
def State.rereads (s : State) (r : Req) : Bool :=
  ((s.slice (sliceOf r.line)).dead? r.line).isSome && !(r.kind == .wrInv || r.kind == .wrThrough)

/-- A reduction performed at the memory controller (R202). -/
def State.redAtMemory (s : State) (r : Req) (first second : ErrPat) : Ans × State :=
  let n := sliceOf r.line
  match s.chanRead r.line 1 r.tag first second with
  | (none, s) => (.faulted, s.ueFault r.line r.tag)
  | (some old, s) =>
    let x := redLine r.op old r.data r.mask
    (.done { data := old, flags := x.2, reread := r.reread }, ((s.count n 7 1).chanWrite r.line x.1).notify r.line)

/-- Serve an access of this device's own engines, of HD and of the fabric at its home, in its own step (assumption 7).
It is not performed while the line is busy; a line in E or M at an agent, or the victim of a full set, is first asked
for. -/
def State.access (s : State) (r : Req) : Ans × State :=
  let a := r.line
  let n := sliceOf a
  let sl := s.slice n
  let fills (k : Nat) (s : State) : Ans × State :=
    if r.whole then
      let (v, s) := (s.install n k a 0).performAt n k r false
      (.done v, s)
    else
      let s := s.count n 1 1
      match s.chanRead a 0 r.tag [] [] with
      | (none, s) => (.faulted, if r.checked then s else s.ueFault a r.tag)
      | (some l, s) =>
        let reread := s.rereads r
        let s := if reread then s.noteReread n r else s
        let (v, s) := (s.install n k a l).performAt n k r reread
        (.done v, s)
  if s.cache.coh.down then (.faulted, s)
  else if sl.flushing || (sl.entry? a).isSome || sl.forwarded.any (fun f => f.line == a) then (.busy, s)
  else
    match sl.find a with
    | some k =>
      let w := sl.way k
      match foreignOwner w r with
      | some o =>
        if s.missFull n r.tag.part then (.busy, s)
        else (.busy, s.startTxn n a k { why := .clear, owed := [(o, r.snoopKind)], req := r } false [])
      | none =>
        let (v, s) := (s.count n 0 1).performAt n k r false
        (.done v, s)
    | none =>
      if r.isRed && !sl.mayPin a (s.mask r.tag) then
        if s.rereads r then (s.noteReread n r).redAtMemory { r with reread := true } [] [] else s.redAtMemory r [] []
      else
        match s.room n a (s.mask r.tag) r.tag with
        | .none => (.busy, s)
        | .evicting s => (.busy, s)
        | .way k s => fills k s

/-! The L1 part (R189, R221). -/

def L1.keys (units line : Nat) : List Nat := (List.range (8 * units)).map (64 * (line % 256) + ·)

def L1.find (l : L1) (units line : Nat) : Option Nat :=
  (L1.keys units line).find? fun k => match tabGet? l.lines k with
    | some x => x.line == line
    | none => false

def L1.touch (l : L1) (k : Nat) : L1 := { l with plru := zSet l.plru (k / 64) (plruTouch 6 (zGet l.plru (k / 64)) (k % 64)) }

/-- A line filled into the L1: its own way if it has one, the lowest invalid way, or the way the tree chooses. -/
def L1.fill (l : L1) (units line : Nat) (d : Line) : L1 :=
  let k := match l.find units line with
    | some k => k
    | none =>
      match (L1.keys units line).find? fun k => (tabGet? l.lines k).isNone with
      | some k => k
      | none => 64 * (line % 256) + plruWalk (zGet l.plru (line % 256)) (fun w => decide (w < 8 * units)) 6 0 0
  ({ l with lines := tabSet l.lines k { line := line, data := d } }).touch k

/-- Bytes written into the copy of a line, if there is one. -/
def L1.write (l : L1) (units line : Nat) (d : Line) (mask : BitVec 64) : L1 :=
  match l.find units line with
  | none => l
  | some k =>
    { l with lines := tabMod {} l.lines k fun x => { x with data := lineMerge x.data d mask } }

/-- Drop the copy of a line. -/
def L1.inv (l : L1) (line : Nat) : L1 := { l with lines := l.lines.filter fun p => p.2.line != line }

/-- Apply the oldest invalidation (R221). -/
def L1.applyOne (l : L1) : L1 :=
  match l.invq with
  | [] => l
  | (a, _) :: r => { l.inv a with invq := r }

/-- Apply every invalidation that is in the queue (R155, R165, R166). -/
def L1.applyAll (l : L1) : L1 := { (l.invq.foldl (fun l p => l.inv p.1) l) with invq := [] }

end Sys2Proof.Machine
end

