-- ==== Sys2Proof/Machine/Walk.lean ====
section
/-! DEFINITION. Translation (R394 to R398), remote requests on their way out (R315 to R328), and reads and writes of
virtual memory at their homes. -/

namespace Sys2Proof.Machine

/-- The right an access needs (R396; the bits of RIGHTS in R316). -/
inductive Right where
  | read | write | atomic | reduce | counter
deriving DecidableEq, Repr

def Right.bit : Right → Nat
  | .read => 0 | .write => 1 | .atomic => 2 | .reduce => 3 | .counter => 4

/-- Who makes an access: its tag and requester number, and whether HD makes it on a context's behalf (R396). -/
structure Via where
  tag : Tag := {}
  requester : Nat := 2308
  hd  : Bool := true
  /-- It reads a structure with a CRC of its own (R448). -/
  checked : Bool := false
deriving DecidableEq, Repr

/-- Where a virtual address leads: memory, the aperture of a partner site, a Tsuran address by an import entry. -/
inductive Target where
  | mem (pa : Nat)
  | aperture (pa : Nat)
  | remote (imp taddr : Nat)
deriving DecidableEq, Repr

/-- Why an access has not been performed: a context fault with its address, a line that is busy or a response that is
awaited, a fault of the device on the way. -/
inductive Stop where
  | fault (f : CtxFault)
  | busy
  | faulted
deriving DecidableEq, Repr

def gib : Nat := 2 ^ 30

/-- Does a range lie wholly in the usable memory of a partition (R390)? -/
def Part.usable (p : Part) (pa len : Nat) : Bool :=
  decide (p.memBase.toNat * gib ≤ pa) && decide (pa + len ≤ (p.memBase.toNat + p.memGib.toNat - p.saveGib.toNat) * gib)

/-- The aperture of a site (R277). -/
def apertureBase (site : Nat) : Nat := 0x800000000000 + site * 0x1000000000

/-- The site whose aperture holds a range wholly. -/
def apertureOf (pa len : Nat) : Option Nat :=
  [0, 1].find? fun s => decide (apertureBase s ≤ pa) && decide (pa + len ≤ apertureBase s + 0x1000000000)

/-- log2 of what one entry of a level covers (R394). -/
def levelBits (level : Nat) : Nat := 39 - 9 * level

/-- CHECK of an entry (R395). -/
def entryCheckOk (e : Nat) : Bool := crc8 (leBytes 7 e) == (e >>> 56) % 256

/-- Cause 4 at a level: reserved bits, a leaf or table that the level does not allow, a misaligned ADDR (R395, R397). -/
def entryBad (level e : Nat) : Bool :=
  let b (k : Nat) : Bool := e.testBit k
  let leaf := b 2
  let remote := b 6
  let resv := (e >>> 48) % 256 != 0 || (e >>> 7) % 32 != 0 || b 1
  let shape :=
    if !leaf then level == 3
    else if remote then level == 3 || (e >>> 33) % 2 ^ 15 != 0 || (e >>> 3) % 8 != 0
    else level == 0 || ((e % 2 ^ 48) >>> 12) % 2 ^ (levelBits level - 12) != 0
  resv || shape

/-- Check the leaf that ends a walk (R396, R397, R317). -/
def State.leaf (s : State) (t : Tag) (hd : Bool) (va level e : Nat) (need : Right) : Except Nat Target :=
  let size := 2 ^ levelBits level
  if e.testBit 6 then
    let imp := (e >>> 12) % 2 ^ 21
    let g := tabGet {} s.fab.segs imp
    if !(g.kind == 1 && g.context == t.ctx && g.rights.getLsbD need.bit) then .error 6
    else if g.sizeLog2 < levelBits level then .error 4
    else .ok (.remote imp (g.device * 2 ^ 42 + g.offset + va % 2 ^ g.sizeLog2))
  else
    let base := (e % 2 ^ 48) >>> 12 <<< 12
    let right := match need with
      | .read => e.testBit 3
      | .write => e.testBit 4
      | _ => e.testBit 5
    let pa := base + va % size
    if (s.part t.part).usable base size then (if right then .ok (.mem pa) else .error 2)
    else if (apertureOf base size).isSome && !hd then (if right then .ok (.aperture pa) else .error 2)
    else .error 5

/-- The line as the slice or else memory holds it now. -/
def State.peekLine (s : State) (a : Nat) : Line :=
  match (s.slice (sliceOf a)).find a with
  | some k => ((s.slice (sliceOf a)).way k).data
  | none => s.memLine a

/-- One level of the walk after another: how many levels remain, the level, the table (R394, R397). The reader gives the
line that holds an entry. -/
def walkLevels (rd : State → Nat → Ans × State) (t : Tag) (va : Nat) : Nat → Nat → Nat → State → Except (Option Nat × Bool) (Nat × Nat) × State
  | 0, _, _, s => (.error (some 4, false), s)
  | n + 1, level, table, s =>
    if !(s.part t.part).usable table 4096 then (.error (some 5, false), s)
    else
      let pa := table + 8 * ((va >>> levelBits level) % 512)
      match rd s (pa / 64) with
      | (.busy, s) => (.error (none, false), s)
      | (.faulted, s) => (.error (if s.cache.coh.down then (none, true) else (some 3, false)), s)
      | (.done v, s) =>
        let e := lineRd v.data (pa % 64) 8
        if !entryCheckOk e then (.error (some 3, false), s)
        else if !e.testBit 0 then (.error (some 1, false), s)
        else if entryBad level e then (.error (some 4, false), s)
        else if e.testBit 2 then (.ok (level, e), s)
        else walkLevels rd t va n (level + 1) ((e % 2 ^ 48) >>> 12 <<< 12) s

/-- The translation fault of a cause (R397, R502). -/
def translationFault (va cause : Nat) : CtxFault :=
  let st : Status := if cause = 3 then .badCrc else if cause = 4 || cause == 7 then .badParam else .denied
  { reason := .translation, status := st.code, addr := va, cause := cause }

/-- The translation cache that serves an access (R398). -/
def State.tlb (s : State) (v : Via) : Tab Nat :=
  match v.tag.core, v.hd with
  | some c, false => (s.core c).tlb
  | _, _ => tabGet [] s.hdTlb v.tag.ctx

def State.setTlb (s : State) (v : Via) (t : Tab Nat) : State :=
  match v.tag.core, v.hd with
  | some c, false => s.modCore c fun x => { x with tlb := t }
  | _, _ => { s with hdTlb := tabSet s.hdTlb v.tag.ctx t }

/-- Translate an address for an access (R394 to R398). A cached translation that the tables no longer bear out is used
or not, as a free choice. -/
def State.translate (s : State) (v : Via) (va : Nat) (need : Right) : Except Stop Target × State :=
  let fin (s : State) (r : Except Nat Target) : Except Stop Target × State := match r with
    | .ok t => (.ok t, s)
    | .error c => (.error (.fault (translationFault va c)), s)
  if 2 ^ 48 ≤ va then fin s (.error 7)
  else
    let root := (s.ctx v.tag.ctx).root.toNat
    let walk (s : State) : Except Stop Target × State :=
      let rd (s : State) (a : Nat) : Ans × State :=
        s.access { kind := .rdOnce, requester := v.requester, line := a, tag := v.tag, checked := true }
      match walkLevels rd v.tag va 4 0 root s with
      | (.error (some c, _), s) => fin s (.error c)
      | (.error (none, false), s) => (.error .busy, s)
      | (.error (none, true), s) => (.error .faulted, s)
      | (.ok (level, e), s) => fin (s.setTlb v (tabSet (s.tlb v) (va / 4096) (4 * e + level))) (s.leaf v.tag v.hd va level e need)
    match tabGet? (s.tlb v) (va / 4096) with
    | none => walk s
    | some c =>
      let peek (s : State) (a : Nat) : Ans × State := (.done { data := s.peekLine a }, s)
      let same := match (walkLevels peek v.tag va 4 0 root s).1 with
        | .ok (level, e) => 4 * e + level == c
        | .error _ => false
      let (k, s) := if same then (0, s) else s.choose 2
      if k = 0 then fin s (s.leaf v.tag v.hd va (c % 4) (c / 4) need) else walk s

/-! Remote requests (R322 to R328). -/

/-- The route of Equinox units to a device: W, then Z, then Y, then X, each torus the shorter way, + on a tie (R304,
R312, R313). -/
def State.route (s : State) (dest : Nat) : Option Nat :=
  let me := s.fab.device.toNat
  let z := if s.fab.zdim = 0 then 1 else s.fab.zdim.toNat
  let w := if s.fab.wdim = 0 then 1 else s.fab.wdim.toNat
  let coord (n : Nat) : Nat × Nat × Nat × Nat := (n % 8, n / 8 % 8, n / 64 % z, n / 64 / z)
  let (x, y, zz, ww) := coord me
  let (x', y', z', w') := coord dest
  let ring (a b n plus minus : Nat) : Nat := if (b + n - a) % n * 2 ≤ n then plus else minus
  if s.fab.size ≤ dest then none
  else if ww ≠ w' then some (ring ww w' w 16 17)
  else if zz ≠ z' then some (ring zz z' z 14 15)
  else if y ≠ y' then some (7 + ((y' + 8 - y) % 8 - 1))
  else if x ≠ x' then some ((x' + 8 - x) % 8 - 1)
  else none

/-- A port that carries traffic (R330). -/
def Port.up (p : Port) : Bool := p.state == 2 || p.state == 3

/-- The device that sent a packet: the requester of a request, the owner of the address for a response (R322). -/
def Packet.source (p : Packet) : Nat := if lineRd p.hdr 0 1 < 0x80 then lineRd p.hdr 2 2 else lineRd p.hdr 8 8 / 2 ^ 42

/-- The buffer set at the next ingress (R313): the second once the unit has crossed, or now crosses, the wrap link of the
torus dimension that a port serves. -/
def State.bufferSet (s : State) (source k : Nat) : Nat :=
  let me := s.fab.device.toNat
  let z := if s.fab.zdim = 0 then 1 else s.fab.zdim.toNat
  let w := if s.fab.wdim = 0 then 1 else s.fab.wdim.toNat
  let plus (c c0 n : Nat) : Nat := b2n (c + 1 == n || decide (c < c0))
  let minus (c c0 : Nat) : Nat := b2n (c == 0 || decide (c0 < c))
  if k = 14 then plus (me / 64 % z) (source / 64 % z) z
  else if k = 15 then minus (me / 64 % z) (source / 64 % z)
  else if k = 16 then plus (me / 64 / z) (source / 64 / z) w
  else if k = 17 then minus (me / 64 / z) (source / 64 / z)
  else 0

/-- Units of a packet: its header and its data (R322). -/
def Packet.units (p : Packet) : Nat := 1 + ceilDiv p.data.length 64

/-- A packet leaves by the port of its route, or is discarded and counted where none is up (R314). Its units owe
credits on their channel and buffer set (R358). -/
def State.depart (s : State) (dest vc : Nat) (p : Packet) : State :=
  match s.route dest with
  | none => { s with fab := { s.fab with discarded := s.fab.discarded + 1 } }
  | some k =>
    let q := s.port k
    if !q.up then { s with fab := { s.fab with discarded := s.fab.discarded + 1 } }
    else
      let i := 2 * vc + s.bufferSet p.source k
      let s := s.setPort k { q with owed := zSet q.owed i (zGet q.owed i + p.units) }
      { s with fab := { s.fab with departed := s.fab.departed ++ [(k, p)] } }

/-- Put a field into a header (R322). -/
def hdrPut (h : Line) (off n v : Nat) : Line := lineWr h off n v

/-- A header with its CRC over bytes 0x00 to 0x3B and the data (R322). -/
def sealPacket (h : Line) (data : List Byte) : Packet :=
  { hdr := lineWr h 0x3C 4 (crc32 ((lineBytes h).take 60 ++ data)), data := data }

/-- The request header of R322. -/
def State.requestHeader (s : State) (v : Via) (op aop : Nat) (imp taddr len tag : Nat) (lastUse : Bool) : Line :=
  let g := tabGet {} s.fab.segs imp
  let level := (s.ctx v.tag.ctx).level.toNat
  [(0x00, 1, op), (0x01, 1, b2n lastUse), (0x02, 2, s.fab.device.toNat), (0x04, 1, v.tag.ctx), (0x05, 1, v.tag.part),
   (0x06, 1, aop), (0x08, 8, taddr), (0x10, 4, g.peer), (0x14, 4, g.generation.toNat), (0x18, 2, len),
   (0x1A, 2, v.requester), (0x1C, 2, tag), (0x1E, 2, 2 * level)].foldl (fun h f => hdrPut h f.1 f.2.1 f.2.2) 0

/-- The tracker entries that a partition may hold now (R328, R405): its reserve, and the common pool if it is not
sealed. -/
def State.trackerFree (s : State) (part : Nat) : Bool :=
  let heldBy (p : Nat) : Nat := (s.fab.tracker.filter fun o => lineRd o.hdr 5 1 % 16 == p).length
  let resv (p : Nat) : Nat := (s.part p).trackResv.toNat
  let total := (List.range 16).foldl (fun n p => n + resv p) 0
  let pool := (List.range 16).foldl (fun n p => n + (heldBy p - resv p)) 0
  decide (heldBy part < resv part) || (!(s.part part).sealed && decide (total + pool < 16384))

/-- The lowest transaction tag that no outstanding request holds. -/
def State.freeTag (s : State) : Option Nat :=
  let used := s.fab.tracker.map (·.tag)
  (List.range 16384).find? fun t => !used.contains t

/-- Send a remote request: none while the tracker has no entry for it (R328). -/
def State.sendRemote (s : State) (v : Via) (op aop imp taddr len : Nat) (operands : Nat) (data : List Byte) (lastUse : Bool)
    (dest : RemoteDest) : Option (Nat × State) :=
  if !s.trackerFree v.tag.part then none
  else
    match s.freeTag with
    | none => none
    | some tag =>
      let h := hdrPut (s.requestHeader v op aop imp taddr len tag lastUse) 0x20 16 operands
      let p := sealPacket h data
      let o : Outstanding := { tag := tag, hdr := p.hdr, dest := dest, core := v.tag.core.getD 0xFFFF, queue := v.tag.queue, imp := some imp, since := s.now }
      let s := { s with fab := { s.fab with tracker := s.fab.tracker ++ [o] } }
      some (tag, s.depart (taddr / 2 ^ 42) (lineRd h 0x1E 2) p)

/-- Bytes of a remote range for a party that makes its access again when they are there. -/
def State.remoteBytes (s : State) (v : Via) (owner imp taddr len : Nat) : Except Stop (List Byte) × State :=
  match s.fab.arrived.find? fun a => a.1 == owner && a.2.1 == taddr && a.2.2.length == len with
  | some a => (.ok a.2.2, s)
  | none =>
    let waits := s.fab.tracker.any fun o => o.dest == .buffer owner && lineRd o.hdr 8 8 == taddr
    if waits then (.error .busy, s)
    else
      match s.sendRemote v 1 0 imp taddr len 0 [] false (.buffer owner) with
      | none => (.error .busy, s)
      | some (_, s) => (.error .busy, s)

/-! Virtual memory at its home. -/

/-- A range cut at line boundaries: address and bytes of each piece; fuel is a bound on their number. -/
def pieces : Nat → Nat → Nat → List (Nat × Nat)
  | 0, _, _ => []
  | n + 1, va, len =>
    if len = 0 then []
    else
      let k := if 64 - va % 64 < len then 64 - va % 64 else len
      (va, k) :: pieces n (va + k) (len - k)

def cut (va len : Nat) : List (Nat × Nat) := pieces (len / 64 + 2) va len

/-- A party's number for buffered remote data. -/
def Via.owner (v : Via) : Nat := match v.tag.core with
  | some c => 8 * c + v.tag.queue
  | none => 0x10000 + v.tag.ctx

/-! Requests to a partner die (R277, R278). -/

/-- Fields of a firewall rule of 32 bytes (R274). -/
def ruleFld (r : BitVec 256) (off n : Nat) : Nat := byteFld r off n

/-- Does a rule of a direction (true outbound) hold a range wholly? -/
def ruleHolds (r : BitVec 256) (outbound : Bool) (addr len : Nat) : Bool :=
  (ruleFld r 9 1).testBit 0 && (ruleFld r 9 1).testBit 1 == outbound
    && decide (ruleFld r 0 8 ≤ addr) && decide (addr + len ≤ ruleFld r 0 8 + 2 ^ ruleFld r 8 1)

/-- May a request of a partition leave for the aperture now (R277)? The site, or the fault at once. -/
def State.outbound (s : State) (part pa len : Nat) (need : Right) : Except CtxFault Nat :=
  match apertureOf pa len with
  | none => .error (mkFault .partnerDenied .denied)
  | some k =>
    let x := s.site k
    match x.state with
    | .admitted =>
      if x.rules.any fun r => ruleHolds r.2 true pa len && ruleFld r.2 12 1 % 16 == part && (ruleFld r.2 10 1).testBit need.bit then .ok k
      else .error (mkFault .partnerDenied .denied)
    | .quiesced => .error (mkFault .partnerTimeout .timeout)
    | _ => .error (mkFault .partnerDenied .denied)

/-- A request goes out to a site; the answer is its number. -/
def State.sendOutbound (s : State) (k : Nat) (r : Req) (dest : RemoteDest) : Nat × State :=
  let (id, s) := s.newId
  let x := s.site k
  (id, s.setSite k { x with outbound := x.outbound ++ [{ id := id, req := { r with id := id }, size := r.len, dest := dest, since := s.now }] })

/-- Bytes of an aperture range for a party that makes its access again when they are there. -/
def State.apertureBytes (s : State) (v : Via) (owner pa len : Nat) : Except Stop (List Byte) × State :=
  match s.fab.arrived.find? fun a => a.1 == owner && a.2.1 == pa && a.2.2.length == len with
  | some a => (.ok a.2.2, s)
  | none =>
    match s.outbound v.tag.part pa len .read with
    | .error f => (.error (.fault f), s)
    | .ok k =>
      let waits := (s.site k).outbound.any fun o => o.dest == .buffer owner && 64 * o.req.line + o.req.off == pa
      if waits then (.error .busy, s)
      else (.error .busy, (s.sendOutbound k { kind := .rdOnce, requester := v.requester, line := pa / 64, off := pa % 64, len := len, tag := v.tag } (.buffer owner)).2)

/-- Read the bytes of one piece. -/
def State.readPiece (s : State) (v : Via) (lastUse : Bool) (va len : Nat) : Except Stop (List Byte) × State :=
  match s.translate v va .read with
  | (.error e, s) => (.error e, s)
  | (.ok (.mem pa), s) =>
    match s.access { kind := .rdOnce, requester := v.requester, line := pa / 64, off := pa % 64, len := len, tag := v.tag
                     lastUse := lastUse, checked := v.checked } with
    | (.done r, s) => (.ok (leBytes len (lineRd r.data (pa % 64) len)), s)
    | (.busy, s) => (.error .busy, s)
    | (.faulted, s) =>
      (.error (if v.checked && !s.cache.coh.down then .fault { reason := .badDescriptor, status := 0x12 } else .faulted), s)
  | (.ok (.aperture pa), s) => s.apertureBytes v v.owner pa len
  | (.ok (.remote imp ta), s) => s.remoteBytes v v.owner imp ta len

/-- Read a range piece by piece. -/
def State.readPieces (v : Via) : List (Nat × Nat) → State → Except Stop (List Byte) × State
  | [], s => (.ok [], s)
  | p :: ps, s =>
    match s.readPiece v false p.1 p.2 with
    | (.error e, s) => (.error e, s)
    | (.ok b, s) =>
      match State.readPieces v ps s with
      | (.error e, s) => (.error e, s)
      | (.ok bs, s) => (.ok (b ++ bs), s)

/-- Read a range; once all of it is there, the party's buffered bytes are dropped. -/
def State.vread (s : State) (v : Via) (va len : Nat) : Except Stop (List Byte) × State :=
  match State.readPieces v (cut va len) s with
  | (.error e, s) => (.error e, s)
  | (.ok b, s) =>
    (.ok b, if s.fab.arrived.isEmpty then s
      else { s with fab := { s.fab with arrived := s.fab.arrived.filter fun a => a.1 != v.owner } })

/-- Mask and placed bytes of a write into a line. -/
def placeBytes (off : Nat) (bs : List Byte) : Line × BitVec 64 :=
  (BitVec.ofNat 512 (leVal bs <<< (8 * off)), BitVec.ofNat 64 ((2 ^ bs.length - 1) <<< off))

/-- Write bytes at a physical place as a cacheless write (R186, R218). -/
def State.writeAt (s : State) (v : Via) (pa : Nat) (bs : List Byte) : Ans × State :=
  let p := placeBytes (pa % 64) bs
  s.access { kind := .wrInv, requester := v.requester, line := pa / 64, off := pa % 64, len := bs.length, data := p.1, mask := p.2, tag := v.tag }

/-- Write the bytes of one piece. -/
def State.writePiece (s : State) (v : Via) (va : Nat) (bs : List Byte) : Except Stop Unit × State :=
  match s.translate v va .write with
  | (.error e, s) => (.error e, s)
  | (.ok (.mem pa), s) =>
    match s.writeAt v pa bs with
    | (.done _, s) => (.ok (), s)
    | (.busy, s) => (.error .busy, s)
    | (.faulted, s) => (.error .faulted, s)
  | (.ok (.aperture pa), s) =>
    match s.outbound v.tag.part pa bs.length .write with
    | .error f => (.error (.fault f), s)
    | .ok k =>
      let p := placeBytes (pa % 64) bs
      (.ok (), (s.sendOutbound k { kind := .wrInv, requester := v.requester, line := pa / 64, off := pa % 64, len := bs.length
                                   data := p.1, mask := p.2, tag := v.tag } (.ack (v.tag.core.getD 0xFFFF) v.tag.queue)).2)
  | (.ok (.remote imp ta), s) =>
    match s.sendRemote v 2 0 imp ta bs.length 0 bs false (.ack (v.tag.core.getD 0xFFFF) v.tag.queue) with
    | none => (.error .busy, s)
    | some (_, s) => (.ok (), s)

def State.writePieces (v : Via) : List (Nat × Nat) → List Byte → State → Except Stop Unit × State
  | [], _, s => (.ok (), s)
  | p :: ps, bs, s =>
    match s.writePiece v p.1 (bs.take p.2) with
    | (.error e, s) => (.error e, s)
    | (.ok _, s) => State.writePieces v ps (bs.drop p.2) s

def State.vwrite (s : State) (v : Via) (va : Nat) (bs : List Byte) : Except Stop Unit × State :=
  State.writePieces v (cut va bs.length) bs s

/-- Does every piece of a range translate with a right? The first failure otherwise. -/
def State.checkRange (v : Via) (need : Right) : List (Nat × Nat) → State → Except Stop Unit × State
  | [], s => (.ok (), s)
  | p :: ps, s =>
    match s.translate v p.1 need with
    | (.error e, s) => (.error e, s)
    | (.ok _, s) => State.checkRange v need ps s

/-- HD acting for a context (R396). -/
def State.hdVia (s : State) (ctx : Nat) : Via :=
  { tag := { ctx := ctx, part := (s.ctx ctx).partition.toNat }, requester := 2308, hd := true }

/-- An engine of a core acting for its resident context: requester 4n + e of R225. -/
def State.engVia (s : State) (n : Nat) (e : Eng) : Via :=
  let c := s.core n
  let q := match e with | .tge => 0 | .cpe0 => 1 | .cpe1 => 2 | _ => 3
  { tag := { ctx := c.context.toNat, part := c.partition.toNat, core := some n, queue := e.num }, requester := 4 * n + q, hd := false }

/-- The sequencer's fetches for a queue. -/
def State.seqVia (s : State) (n : Nat) (e : Eng) : Via := { s.engVia n e with requester := 4 * n + 3 }

end Sys2Proof.Machine
end

