-- ==== Sys2Proof/Machine/CmdOps.lean ====
section
/-! DEFINITION. Commands in hand: status words (R373 to R376), the start of a command with the checks that all share
(R18, R363, R369 to R372, R377, R392, R504), the progress of a LAUNCH and its end (R380, R381, R407, R410). -/

namespace Sys2Proof.Machine

/-! Fields of a packet (R369). -/

def Cmd.f (c : Cmd) (off n : Nat) : Nat := byteFld c.pkt off n
def Cmd.op (c : Cmd) : Nat := c.f 0 1
def Cmd.ctx (c : Cmd) : Nat := c.f 8 1
def Cmd.ordered (c : Cmd) : Bool := (c.f 1 1).testBit 0
def Cmd.interrupt (c : Cmd) : Bool := (c.f 1 1).testBit 1

/-- LENGTH of an opcode, and whether only the PF may issue it (R377); none for a reserved opcode. -/
def opInfo (op : Nat) : Option (Nat × Bool) :=
  match op with
  | 0x00 => some (0, false) | 0x01 => some (20, false) | 0x02 => some (20, false) | 0x03 => some (36, false)
  | 0x04 => some (4, false) | 0x05 => some (32, false) | 0x08 => some (16, false) | 0x09 => some (6, false)
  | 0x0A => some (0, false) | 0x0B => some (9, false) | 0x10 => some (33, false) | 0x11 => some (8, false)
  | 0x18 => some (36, false) | 0x19 => some (4, false) | 0x1A => some (16, false) | 0x1B => some (2, false)
  | 0x1C => some (16, false) | 0x20 => some (12, true) | 0x21 => some (12, true) | 0x22 => some (1, true)
  | 0x23 => some (12, true) | 0x24 => some (8, true) | 0x25 => some (4, true) | 0x28 => some (1, true)
  | _ => none

/-- Does a packet name the context in CONTEXT (R504)? -/
def Cmd.namesCtx (c : Cmd) : Bool :=
  [0x02, 0x03, 0x04, 0x05, 0x08, 0x09, 0x0A, 0x0B, 0x10, 0x18, 0x19, 0x1A, 0x1C].contains c.op
    || ((c.op == 0x01 || c.op == 0x21) && (c.f 0x0D 1).testBit 0)

/-! Status words. -/

/-- Bytes 0x00 to 0x07 and 0x08 to 0x0F of the status word (R373). -/
def Cmd.word0 (c : Cmd) : Nat := c.seq + c.status.code * 2 ^ 32 + c.info.toNat * 2 ^ 40 + c.detail.toNat * 2 ^ 48
def Cmd.word1 (c : Cmd) : Nat := c.progress.toNat + c.mark.toNat * 2 ^ 32

/-- Host memory as function f addresses it. -/
def hostAddr (fn addr : Nat) : Nat := fn * 2 ^ 64 + addr

def State.hostWrite (s : State) (fn addr : Nat) (bs : List Byte) : State :=
  { s with host := { s.host with mem := memWrN s.host.mem (hostAddr fn addr) bs } }

def State.setRing (s : State) (fn n : Nat) (r : Ring) : State := s.modFn fn fun x => { x with rings := tabSet x.rings n r }

def State.ring (s : State) (fn n : Nat) : Ring := tabGet {} (s.fn fn).rings n

/-- A ring is disabled with its cause (R368). -/
def State.disableRing (s : State) (fn n cause : Nat) : State :=
  s.setRing fn n { s.ring fn n with enable := false, cause := BitVec.ofNat 3 cause }

def State.dropCmd (s : State) (id : Nat) : State := { s with cmds := s.cmds.filter fun c => c.id != id }

/-- The status word is settled: written or discarded. A final one ends the command, after its interrupt if it was written
(R376). -/
def State.settled (s : State) (c : Cmd) (written : Bool) : State :=
  if c.status.final then
    let s := if written && c.interrupt then { s with host := { s.host with msix := s.host.msix ++ [(c.fn, c.vector)] } } else s
    s.dropCmd c.id
  else s.modCmd c.id fun x => { x with dirty := false }

/-- Write the status word of a command, its second half first (R374). Where the status array cannot be reached the word is
discarded and the ring disabled (R368); a line that is busy leaves it to be written later. -/
def State.post (s : State) (id : Nat) : State :=
  match s.cmd? id with
  | none => s
  | some c =>
    if c.mute then s.settled c false
    else if !c.statusVa then
      ((s.hostWrite c.fn (c.statusAt + 8) (leBytes 8 c.word1)).hostWrite c.fn c.statusAt (leBytes 8 c.word0)).settled c true
    else
      let unreachable (s : State) : State :=
        (if (s.ring c.fn c.ring).enable then s.disableRing c.fn c.ring 3 else s).settled c false
      let late (s : State) : State := s.modCmd id fun x => { x with dirty := true }
      let b := s.fn c.fn
      if !b.mapped then unreachable s
      else
        let v := s.hdVia b.context.toNat
        match s.vwrite v (c.statusAt + 8) (leBytes 8 c.word1) with
        | (.error (.fault _), s) => unreachable s
        | (.error _, s) => late s
        | (.ok _, s) =>
          match s.vwrite v c.statusAt (leBytes 8 c.word0) with
          | (.error (.fault _), s) => unreachable s
          | (.error _, s) => late s
          | (.ok _, s) => s.settled c true

/-- Status words that could not be written are tried again. -/
def State.flushStatus (s : State) : State :=
  ((s.cmds.filter (·.dirty)).map (·.id)).foldl State.post s

/-- Change a command and write its status word. -/
def State.update (s : State) (id : Nat) (f : Cmd → Cmd) : State := (s.modCmd id f).post id

/-- Opcodes whose status word holds PROGRESS and MARK (R377). -/
def Cmd.progresses (c : Cmd) : Bool := c.op == 0x01 || c.op == 0x10 || c.op == 0x1A

/-! Launches. -/

/-- The kernel of the answering model (R380, R409). -/
def Launch.kernel (l : Launch) : Kernel := if l.switched then l.fall.getD l.prim else l.prim

/-- How many leading numbers below n have the property. -/
def leading (p : Nat → Bool) : Nat → Nat → Nat
  | 0, m => m
  | n + 1, m => if p m then leading p n (m + 1) else m

/-- Indexes of the answering model that have ended. -/
def Launch.ended (l : Launch) : List Nat := if l.switched then l.ended1 else l.ended0

/-- PROGRESS (R380, R409). -/
def Launch.progress (l : Launch) : Nat :=
  if l.switched then max l.prog0 (l.m0 + l.ended1.length) else l.ended0.length

/-- MARK (R380, R409). -/
def Launch.markOf (l : Launch) : Nat :=
  leading (fun i => l.ended.contains i || (l.switched && decide (i < l.m0))) l.kernel.count 0

/-- Has every core of the answering model ended? -/
def Launch.complete (l : Launch) : Bool := l.markOf == l.kernel.count

/-- The deadline of a LAUNCH in reference time; none without one, or while no frame rate is set (R290, R380). -/
def State.deadlineOf (s : State) (l : Launch) : Option Nat :=
  if l.deadline = 0 then none
  else if l.dlFrame then (s.tim.frameTime l.deadline).map (· + l.dlOffset)
  else some l.deadline

/-- Is the deadline past (R410)? -/
def State.isLate (s : State) (l : Launch) : Bool :=
  l.late || (match s.deadlineOf l with
    | some d => decide (d < s.now)
    | none => false)

/-- HUB_CTX_DL LATE, which holds at 0xFFFF (R410, R416). -/
def Ctx.countLate (x : Ctx) : Ctx := { x with late := if x.late = 0xFFFF then x.late else x.late + 1 }

/-- A LAUNCH is found late; its context counts it once (R410). -/
def State.noteLate (s : State) (c : Cmd) (l : Launch) : State :=
  let t := s.modCmd c.id fun y => { y with launch := some { l with late := true } }
  if l.late then t else t.modCtx c.ctx Ctx.countLate

/-- The requests of a core that no kernel waits for any longer: their answers change nothing (R381, R406, R411). -/
def State.orphan (s : State) (n : Nat) : State :=
  let gone : RemoteDest := .ack 0xFFFF 7
  { s with
    fab := { s.fab with
      tracker := s.fab.tracker.map fun o => if o.core = n then { o with core := 0xFFFF, dest := gone } else o
      arrived := s.fab.arrived.filter fun a => a.1 / 8 != n }
    links := { s.links with sites := s.links.sites.map fun p =>
      (p.1, { p.2 with outbound := p.2.outbound.map fun o =>
        if o.req.tag.core = some n then { o with dest := gone, req := { o.req with tag := { o.req.tag with core := none } } } else o }) } }

/-- A core without a kernel: nothing is resident, nothing in progress. Its counters, throttle level, split and the
record of the previous kernel stay. -/
def Core.vacant (c : Core) : Core :=
  { c with
    resident := false, running := false, assigned := false, stopped := false
    queues := [], sems := [], granted := [], tlb := [], sendq := [], rest := [], resided := 0
    mxe := { c.mxe with tiles := [], slots := [], exact := false }
    tge := { c.tge with groups := [], starts := [], stores := [], icache := [] }
    cpe0 := { nextId := c.cpe0.nextId }, cpe1 := { nextId := c.cpe1.nextId }
    l1 := {} }

/-- Stop a core's kernel and discard its state (R381, R406, R409, R411). -/
def State.vacate (s : State) (n : Nat) (last : Nat) : State :=
  let c := s.core n
  let s := if c.running then s.orphan n else s
  let s := s.setPlan n { s.plan n with next := none }
  s.setCore n { c.vacant with
    lastStatus := if c.running && !c.faulted then BitVec.ofNat 8 last else c.lastStatus
    prev := if c.running then some (c.context.toNat, c.l1Units.toNat) else c.prev }

/-- Cores that run, or are assigned to, a LAUNCH in one of its models. -/
def State.coresOf (s : State) (id model : Nat) : List Nat :=
  (s.cores.filter fun p => (p.2.running || p.2.assigned) && p.2.cmd == id && p.2.model == model).map (·.1)

/-- Every saved state of a LAUNCH in a model is discarded (R406). -/
def State.dropSaved (s : State) (id model : Nat) : State :=
  { s with saved := s.saved.map fun p => (p.1, p.2.filter fun q => !(q.2.cmd == id && q.2.model == model)) }

/-- The cores of a LAUNCH stop, in one model. -/
def State.stopModel (s : State) (id model last : Nat) : State :=
  (s.coresOf id model).foldl (fun s n => s.vacate n last) (s.dropSaved id model)

/-- LAUNCHes of a context in hand, in order of taking. -/
def State.launches (s : State) (ctx : Nat) : List Cmd := s.cmds.filter fun c => c.launch.isSome && c.ctx == ctx

def Kernel.overlaps (a b : Kernel) : Bool :=
  a.count != 0 && b.count != 0 && decide (a.first < b.first + b.count) && decide (b.first < a.first + a.count)

/-- Contexts that wait for or hold a core, other than one (R400). -/
def State.contenders (s : State) (n : Nat) : List Nat :=
  let waits := s.cmds.filterMap fun c => match c.launch with
    | some l => if l.active && l.kernel.first ≤ n && l.waiting.contains (n - l.kernel.first) then some c.ctx else none
    | none => none
  let saved := (s.saved.filter fun p => (tabGet? p.2 n).isSome).map (·.1)
  let held := if (s.core n).resident || (s.core n).assigned then [(s.core n).context.toNat] else []
  waits ++ saved ++ held

/-- V(c, n) of a context that comes to wait for a core is raised to the smallest of the contexts that wait for or hold it
(R400). -/
def State.raiseV (s : State) (ctx n : Nat) : State :=
  let others := s.contenders n
  if others.contains ctx then s
  else
    let p := s.plan n
    match others.map (zGet p.v) with
    | [] => s
    | v :: vs =>
      let low := vs.foldl min v
      if zGet p.v ctx < low then s.setPlan n { p with v := zSet p.v ctx low } else s

/-- Give a kernel its turn: its indexes wait for their cores. -/
def State.queueKernel (s : State) (id : Nat) (k : Kernel) (from_ : Nat) : State :=
  let idx := (List.range k.count).filter fun i => decide (from_ ≤ i)
  match s.cmd? id with
  | none => s
  | some c =>
    let s := idx.foldl (fun s i => s.raiseV c.ctx (k.first + i)) s
    s.modCmd id fun x => { x with launch := x.launch.map fun l => { l with active := true, waiting := idx } }

/-- LAUNCHes of a context whose turn has come: no earlier kernel of the context that has not ended overlaps theirs
(R380). -/
def State.activate (s : State) (ctx : Nat) : State :=
  (s.launches ctx).foldl (fun s c =>
    match c.launch with
    | none => s
    | some l =>
      let blocked := (s.launches ctx).any fun d => decide (d.id < c.id) && (match d.launch with
        | some m => m.kernel.overlaps l.kernel
        | none => false)
      if l.active || blocked then s else s.queueKernel c.id l.kernel 0) s

/-- The state of a context whose kernels have changed (R392). -/
def State.restate (s : State) (ctx : Nat) : State :=
  s.modCtx ctx fun x =>
    if x.state = .created || x.state == .active then
      { x with state := if (s.launches ctx).isEmpty then .created else .active }
    else x

/-- A LAUNCH is over: its cores stop, its saved states and its DEADLINE entry go, LATE is counted, and other kernels of the
context have their turn (R380, R381, R406, R410). -/
def State.endLaunch (s : State) (c : Cmd) (l : Launch) (last : Nat) : State :=
  let late := s.isLate l
  let s := (s.stopModel c.id 0 last).stopModel c.id 1 last
  let s := match l.calIdx with
    | some i =>
      if (tabGet ({} : CalEntry) s.cal.entries i).cmd = c.id then { s with cal := { s.cal with entries := tabDel s.cal.entries i } } else s
    | none => s
  let s := if late && !l.late then s.modCtx c.ctx Ctx.countLate else s
  let s := s.modCmd c.id fun x => { x with
    launch := none, info := BitVec.ofNat 8 (b2n l.switched + 2 * b2n late)
    progress := BitVec.ofNat 32 l.progress, mark := BitVec.ofNat 32 l.markOf }
  (s.activate c.ctx).restate c.ctx

/-- A command is final, with a status, DETAIL and, where it has no progress, RESULT. -/
def State.finish (s : State) (id : Nat) (st : Status) (detail : Nat := 0) (result : Nat := 0) : State :=
  match s.cmd? id with
  | none => s
  | some c =>
    if c.status.final then s
    else
      let s := match c.launch with
        | some l => s.endLaunch c l st.code
        | none => s
      s.update id fun x =>
        let y := { x with status := st, detail := BitVec.ofNat 16 detail, started := true, waiting := false }
        if x.progresses then y else { y with progress := BitVec.ofNat 32 result, mark := BitVec.ofNat 32 (result / 2 ^ 32) }

/-- The firmware's calendar entry of the epochs of a schedule index (R355): entry 1 + g. -/
def epochEntry (g : Nat) : Nat := 1 + g

/-- A JOIN that ends without its job leaves its schedule in state 1 (R381, R385). -/
def State.dropJoin (s : State) (id : Nat) : State :=
  [0, 1, 2, 3].foldl (fun s g =>
    let x := s.sched g
    match x.joining with
    | some j =>
      if j.cmd = id then
        let s := s.setSched g { x with state := 1, joining := none }
        { s with cal := { s.cal with entries := tabDel s.cal.entries (epochEntry g) } }
      else s
    | none => s) s

/-- A command is cancelled, with what it has set going (R381, R382, R386, R388): a JOIN, a TIME_SET, a SEG_UNMAP. -/
def State.cancel (s : State) (id : Nat) (st : Status := .aborted) (detail : Nat := 0) : State :=
  let s := s.dropJoin id
  let s : State := { s with
    tim := match s.tim.setTo with
      | some (_, k) => if k = id then { s.tim with setTo := none } else s.tim
      | none => s.tim
    fab := { s.fab with unmaps := s.fab.unmaps.filter fun u => u.2 != id } }
  s.finish id st detail

/-- The DETAIL of a structure that the packet names (R370). -/
def inStructure : Nat := 0xFFFF

/-- The status of a code that is one of the shared ones (R17). -/
def Status.ofCode (n : Nat) : Status :=
  if n = 0x10 then .badOpcode else if n = 0x11 then .badParam else if n = 0x12 then .badCrc else if n = 0x20 then .noResource
  else if n = 0x21 then .denied else if n = 0x30 then .timeout else if n = 0x32 then .aborted
  else if n = 0x41 then .incompatibleDie else .faulted

/-- A command waits, to be taken up again. -/
def State.wait (s : State) (id : Nat) : State := s.modCmd id fun x => { x with waiting := true }

/-- What a stop of an access for a command does: final with the status of the cause (R397), wait, or final with FAULTED and
the cause of the fault, whose record names the command (R243, R373, R446). -/
def State.cmdStop (s : State) (id : Nat) (x : Stop) : State :=
  match x with
  | .fault f => s.finish id (Status.ofCode f.status) (if f.reason = .translation then inStructure else 0)
  | .busy => s.wait id
  | .faulted =>
    if s.cache.coh.down then s.finish id .faulted 0x04
    else (s.modRecord (s.log.next.toNat - 1) fun r => r.ofCmd (s.cmd? id)).finish id .faulted 0x01

/-! The shared checks. -/

/-- The partition whose range of context numbers holds a context (R363). -/
def State.partOfCtx (s : State) (c : Nat) : Option Nat :=
  (s.parts.find? fun p => decide (p.2.ctxFirst ≤ c) && decide (c < p.2.ctxFirst + p.2.ctxCount)).map (·.1)

/-- May a function name a context (R363)? -/
def State.mayName (s : State) (fn c : Nat) : Bool := fn == 0 || s.partOfCtx c == some fn

/-- A check that fails: the status and DETAIL. -/
abbrev Chk := Except (Status × Nat) Unit

def chk (ok : Bool) (st : Status) (detail : Nat := 0) : Chk := if ok then .ok () else .error (st, detail)

/-- A parameter check: the offset of the field. -/
def par (ok : Bool) (off : Nat) : Chk := chk ok .badParam off

/-- The first of the bytes from lo to hi - 1 that is not zero. -/
def Cmd.dirtyByte (c : Cmd) (lo hi : Nat) : Option Nat := (List.range (hi - lo)).findSome? fun i =>
  if c.f (lo + i) 1 = 0 then none else some (lo + i)

/-- Reserved bytes are zero (R370). -/
def Cmd.zero (c : Cmd) (lo hi : Nat) : Chk :=
  match c.dirtyByte lo hi with
  | none => .ok ()
  | some o => .error (.badParam, o)

/-- The checks of the bytes before PARAMS, in packet order: FLAGS, LENGTH, CONTEXT where it must be Free or must not be,
and the reserved bytes after it. -/
def State.headChecks (s : State) (c : Cmd) (len : Nat) : Chk := do
  par (decide (c.f 1 1 < 4)) 1
  par (c.f 2 2 == len) 2
  if c.namesCtx then par (((s.ctx c.ctx).state == .free) == (c.op == 0x08)) 8
  c.zero 9 0x0C

/-- Has every earlier command of the ring started, and is each final if this one is ordered (R371)? -/
def State.turn (s : State) (c : Cmd) : Bool :=
  s.cmds.all fun d => !(d.fn == c.fn && d.ring == c.ring && decide (d.id < c.id)) || (d.started && (!c.ordered || d.status.final))

/-- The command of a ring with an index. -/
def State.cmdAt (s : State) (fn ring index : Nat) : Option Cmd :=
  s.cmds.find? fun c => c.fn == fn && c.ring == ring && c.index.toNat == index && !c.status.final

/-- Start a command, or take up one that waits, if it has the opcode. The checks that every opcode shares come first; an
undefined opcode ends its command, whichever was expected. A check that the handler makes ends the command with its
failure; then its effects follow. -/
def State.startCmd (s : State) (fn ring index op : Nat) (params : State → Cmd → Chk) (run : State → Cmd → State) : State :=
  match s.cmdAt fn ring index with
  | none => s
  | some c =>
    let boot := s.hub.bootStatus.toNat
    if (c.started && !c.waiting) || !s.turn c || !(s.serving || s.recov.state == 3) || boot == 1 then s
    else if boot ≠ 0 && c.op != 0x00 && c.op != 0x01 then s.finish c.id (Status.ofCode boot)
    else
      match opInfo c.op with
      | none => s.finish c.id .badOpcode
      | some (_, pf) =>
        if c.op ≠ op then s
        else
          let x := s.ctx c.ctx
          let s := if c.namesCtx then { s with hdTlb := tabDel s.hdTlb c.ctx } else s
          if c.namesCtx && s.mayName fn c.ctx && x.state == .tearing then
            s.modCmd c.id fun y => { y with started := true, waiting := true }
          else
            let rights : Chk := do
              chk (!(op == 0x03 && decide (8 ≤ c.f 0x24 1))) .badOpcode
              chk (!pf || fn == 0) .denied
              chk (!(c.namesCtx || op == 0x28) || s.mayName fn c.ctx) .denied
              chk (!(c.namesCtx && x.state == .faulted) || op == 0x01 || op == 0x0A) .faulted x.reason
            let s := s.modCmd c.id fun y => { y with started := true, waiting := false }
            match rights with
            | .error e => s.finish c.id e.1 e.2
            | .ok _ =>
              match (do params s c : Chk) with
              | .error e => s.finish c.id e.1 e.2
              | .ok _ => run s { c with started := true, waiting := false }

/-- The order of R18 for a handler's own checks: its rights, then the shared and its own parameters, then resources. -/
def State.inOrder (s : State) (c : Cmd) (rights params resources : Chk) : Chk := do
  rights
  s.headChecks c ((opInfo c.op).elim 0 (·.1))
  params
  c.zero (0x0C + (opInfo c.op).elim 0 (·.1)) 0x3C
  resources

end Sys2Proof.Machine
end

