-- ==== Sys2Proof/Machine/Clock.lean ====
section
/-! DEFINITION. What passes while no command waits (assumption 5): one nanosecond of the local oscillator. -/

namespace Sys2Proof.Machine

/-- A TIME_SET whose pulse has not come within 2 s ends with TIMEOUT (R378). -/
def State.expireSet (s : State) : State :=
  (s.cmds.filter fun c => c.op == 0x24 && c.started && decide (c.limit ≤ s.now)).foldl
    (fun s c => s.cancel c.id .timeout) s

/-- PWR_OK has been high for 10 ms while VIN_MAIN was out of range (R492). -/
def State.checkPwrOk (s : State) : State :=
  if heldFor s.sup.badSince (10 ^ 7) s.now then { s with sup := { s.sup with pwrOkBad := true, badSince := some s.now } } else s

/-- The block idles: reference time goes on once the always-on domain has left reset (R286, R491), with what accrues on
the cores; status words that are still to be written are written. -/
def State.tick (s : State) : State :=
  if !s.sup.on then s
  else
    let t := s.tim.advance 1
    (({ s with tim := t }.pass (t.now.toNat - s.now)).flushStatus).expireSet.checkPwrOk

end Sys2Proof.Machine
end

