-- ==== Sys2Proof/Machine/Mxe.lean ====
section
/-! DEFINITION. The matrix engine: operand layout (R77 to R80), the checks at issue (R83, R84) and what each MXE
instruction makes (R81 to R98), as functions of the core. -/

namespace Sys2Proof.Machine

/-- The rate class of an MXE format (R76): 0 16-bit, 1 8-bit float, 2 INT8, 3 4- and 6-bit. -/
def mxeClass : Format → Nat
  | .bf16 => 0 | .fp16 => 0 | .e4m3 => 1 | .e5m2 => 1 | .int8 => 2 | _ => 3

/-- An MXE format code (R74). -/
def mxeFormat (code : Nat) : Option Format := if code ≤ 7 then Format.ofCode code else none

/-- The allowed pairs of R76. -/
def mxePair (a b : Format) : Bool := if mxeClass a = 0 then a == b else mxeClass a == mxeClass b

/-- G, the logical K indices of one group (R76, R86, R90). -/
def mxeGroup (cls : Nat) (sparse exact : Bool) : Nat :=
  match cls, sparse, exact with
  | 0, _, _ => 1
  | 1, false, _ => 2
  | 1, true, _ => 4
  | 2, _, _ => 2
  | _, false, false => 4
  | _, true, false => 8
  | _, false, true => 2
  | _, true, true => 4

/-- Lane size L (R77). -/
def laneSize (f : Format) (sparse : Bool) : Nat := if sparse then 2 * f.width else 4 * f.width

/-- Slab bytes (R77, R78). -/
def slabBytes (f : Format) (sparse : Bool) : Nat :=
  64 * laneSize f sparse + (if sparse then 192 else 0) + (if f.isScaled then 64 else 0)

/-- Stage slots per B slab (R77). -/
def slotsPerSlab (f : Format) : Nat := if mxeClass f = 0 then 2 else 1

/-- The kept positions of a pattern code (R78); none for the invalid codes 6 and 7 (R79). -/
def patternCode : Nat → Option (Nat × Nat)
  | 0 => some (0, 1) | 1 => some (0, 2) | 2 => some (0, 3) | 3 => some (1, 2) | 4 => some (1, 3) | 5 => some (2, 3)
  | _ => none

/-- An element times its block scale; scale 0xFF is NaN (R75). -/
def scaled (x : Num) (scale : Nat) : Num := if scale = 0xFF then .nan else x.scale ((scale : Int) - 127)

/-- The 32 values of one lane of a dense slab (R77). rd off n reads n bytes of the slab. -/
def denseLane (f : Format) (rd : Nat → Nat → Nat) (r : Nat) : List Num :=
  let l := laneSize f false
  let raw := rd (r * l) l
  let sc := if f.isScaled then rd (64 * l + r) 1 else 127
  (List.range 32).map fun k =>
    let x := decodeNum f ((raw >>> (k * f.width)) % 2 ^ f.width)
    if f.isScaled then scaled x sc else x

/-- The 32 values of one lane of a sparse slab, and whether a pattern code was invalid (R78, R79). -/
def sparseLane (f : Format) (rd : Nat → Nat → Nat) (r : Nat) : List Num × Bool :=
  let l := laneSize f true
  let raw := rd (r * l) l
  let codes := rd (64 * l + 3 * r) 3
  let sc := if f.isScaled then rd (64 * l + 192 + r) 1 else 127
  let el (n : Nat) : Num :=
    let x := decodeNum f ((raw >>> (n * f.width)) % 2 ^ f.width)
    if f.isScaled then scaled x sc else x
  let gs := (List.range 8).map fun j =>
    match patternCode ((codes >>> (3 * j)) % 8) with
    | none => ((List.replicate 4 Num.zero), true)
    | some (p, q) => ((List.range 4).map fun i => if i = p then el (2 * j) else if i = q then el (2 * j + 1) else Num.zero, false)
  (gs.flatMap (·.1), gs.any (·.2))

/-- A list cut into runs of n. -/
def chunks {α : Type} (n : Nat) : Nat → List α → List (List α)
  | 0, _ => []
  | k + 1, l => if l.isEmpty then [] else l.take n :: chunks n k (l.drop n)

def TileFlags.or (a b : TileFlags) : TileFlags :=
  ⟨a.range || b.range, a.invalid || b.invalid, a.nan || b.nan, a.ovf || b.ovf, a.intSat || b.intSat, a.sparse || b.sparse⟩

/-- One group of an FP32 element: one rounding (R86). -/
def fp32Group (acc : Nat × TileFlags) (g : List (Num × Num)) : Nat × TileFlags :=
  let x := ofFp32 acc.1
  let s := numSum (g.map fun p => p.1.mul p.2)
  let r := roundNum .fp32 (x.add s)
  (r.1, acc.2.or { nan := r.2.nan && !x.isNan, ovf := r.2.ovf && x.isFin && s.isFin })

/-- One group of an INT32 element, saturating (R87). -/
def int32Group (acc : Nat × TileFlags) (g : List (Num × Num)) : Nat × TileFlags :=
  let term (p : Num × Num) : Int :=
    match p with
    | (.fin a m _, .fin b n _) => Num.signedMant (a != b) (m * n)
    | _ => 0
  let r := satInt .int32 (signed 32 acc.1 + (g.map term).foldl (· + ·) 0)
  (r.1, acc.2.or { intSat := r.2 })

/-- One group of an exact element (R90). -/
def exactGroup (acc : Nat × TileFlags) (g : List (Num × Num)) : Nat × TileFlags :=
  if acc.1 = exactInvalid then acc
  else if g.any fun p => !p.1.isFin || !p.2.isFin then (exactInvalid, acc.2.or { invalid := true })
  else
    let term (p : Num × Num) : Int × Bool :=
      match p.1.mul p.2 with
      | .fin s m e => exactProduct s m e
      | _ => (0, false)
    let ts := g.map term
    let r := exactSat (exactVal acc.1 + (ts.map (·.1)).foldl (· + ·) 0)
    (exactCode r.1, acc.2.or { range := r.2 || ts.any (·.2) })

/-- The first group, if any, that newly sets EXACT_RANGE (R94). -/
def firstRange (acc : Nat × TileFlags) : List (List (Num × Num)) → Nat → Option Nat
  | [], _ => none
  | g :: gs, n =>
    let a := exactGroup (acc.1, {}) g
    if a.2.range then some n else firstRange a gs (n + 1)

/-- The status word of a tile (R97, R100). -/
def tileStat (exact : Bool) (t : Tile) : Nat :=
  let ty := if t.empty then (if exact then 2 else 0) else match t.type with | .fp32 => 0 | .int32 => 1 | .exact => 2
  pack [(21, 0), (2, ty), (1, b2n t.empty), (2, 0), (1, b2n t.flags.sparse), (1, b2n t.flags.intSat), (1, b2n t.flags.ovf),
    (1, b2n t.flags.nan), (1, b2n t.flags.invalid), (1, b2n t.flags.range)]

def Mxe.tile (m : Mxe) (t : Nat) : Tile := tabGet {} m.tiles t

/-- MXE_TILE_STAT_t as BAR0 shows it: instances 2 to 7 read zero in exact mode (R100). -/
def Mxe.statWord (m : Mxe) (t : Nat) : Nat := if m.exact && decide (2 ≤ t) then 0 else tileStat m.exact (m.tile t)

/-- Tiles of the current mode (R72). -/
def Mxe.tileCount (m : Mxe) : Nat := if m.exact then 2 else 8

/-- What starting an instruction gives: the flight, or a wait for its engine; a fault that comes with a partial effect
carries both (R94). -/
structure Started where
  flight : Flight := {}
  /-- It waits for every earlier instruction of its queue. -/
  alone  : Bool := false
  fault  : Option CtxFault := none
  /-- SETLEN: ROWS and COLS at once (R127); VSTAT with CLEAR: the flags at once (R130). -/
  len    : Option (Nat × Nat) := none
  vclear : Bool := false
deriving DecidableEq, Repr

def addrFld (w : QWord) : Nat := fld w 84 64
def strideFld (w : QWord) : Nat := fld w 111 96

/-- Segments of n rows of len bytes at a pitch. -/
def spRows (addr pitch len n : Nat) : List Res := (List.range n).map fun i => .sp (addr + i * pitch) (addr + i * pitch + len)

/-- The last byte of such rows lies below SP_BYTES. -/
def spRowsOk (l1 addr pitch len n : Nat) : Bool := n == 0 || spOk l1 (addr + (n - 1) * pitch) len

/-- LDB (R81, R82): load K_SLABS slabs into stage slots and mark them valid with their format. -/
def ldbStart (c : Core) (w : QWord) : Except CtxFault Started :=
  match mxeFormat (fld w 15 12) with
  | none => .error illegalOp
  | some f =>
    let k := fld w 22 16
    let b := fld w 29 24
    let n := slotsPerSlab f
    let size := slabBytes f false
    let pitch := strideFld w * 64
    let a := addrFld w
    if !(onlyBits w [(7, 0), (15, 12), (22, 16), (29, 24), (84, 64), (111, 96)] && decide (1 ≤ k) && decide (k ≤ 64)
        && a % 64 == 0 && decide (size ≤ pitch) && (n == 1 || b % 2 == 0) && decide (b + k * n ≤ 64)) then .error illegalParam
    else if !spRowsOk c.l1Units.toNat a pitch size k then .error spRangeFault
    else
      let slots := (List.range (k * n)).map fun i =>
        let s := i / n
        let part := i % n
        let len := if n = 1 then size else 2048
        (b + i, ({ fmt := fld w 15 12, bytes := memWrN [] 0 (memRdN c.sp (a + s * pitch + 2048 * part) len) } : Slot))
      .ok { flight := { op := 0x10, reads := spRows a pitch size k, writes := slots.map fun p => Res.slot p.1,
                        eff := { slots := slots } } }

/-- The groups of output element (i, j): the pairs of A and B values, cut every G indices. -/
def mmaGroups (g : Nat) (arow bcol : List Num) : List (List (Num × Num)) := chunks g arow.length (arow.zip bcol)

/-- MMA (R73, R86, R87, R90, R94). -/
def mmaStart (exactFault : Bool) (c : Core) (w : QWord) : Except CtxFault Started :=
  match mxeFormat (fld w 15 12), mxeFormat (fld w 19 16) with
  | some fa, some fb =>
    let m := c.mxe
    let t := fld w 10 8
    let accum := bit w 11
    let sparse := bit w 20
    let rows := fld w 30 24
    let cols := fld w 38 32
    let k := fld w 46 40
    let b := fld w 53 48
    let a := addrFld w
    let pitch := strideFld w * 64
    let cls := mxeClass fa
    let n := slotsPerSlab fb
    let size := slabBytes fa sparse
    let int := cls == 2
    if !(onlyBits w [(7, 0), (20, 8), (30, 24), (38, 32), (46, 40), (53, 48), (84, 64), (111, 96)]
        && mxePair fa fb && !(sparse && (cls == 0 || cls == 2)) && !(m.exact && (cls == 0 || cls == 2))
        && decide (t < m.tileCount) && decide (1 ≤ rows) && decide (rows ≤ 64) && decide (1 ≤ cols) && decide (cols ≤ 64)
        && decide (1 ≤ k) && decide (k ≤ 64) && a % 64 == 0 && decide (size ≤ pitch)
        && (n == 1 || b % 2 == 0) && decide (b + k * n ≤ 64)) then .error illegalParam
    else if !spRowsOk c.l1Units.toNat a pitch size k then .error spRangeFault
    else
      let slotNums := (List.range (k * n)).map (b + ·)
      let slotOk (s : Nat) : Bool := match tabGet? m.slots s with
        | some x => x.fmt == fld w 19 16
        | none => false
      let tile := m.tile t
      let ty : TileType := if m.exact then .exact else if int then .int32 else .fp32
      if !slotNums.all slotOk then .error (mkFault .operandMismatch .badParam)
      else if accum && !tile.empty && tile.type != ty then .error (mkFault .operandMismatch .badParam)
      else
        let fromZero := !accum || tile.empty
        let rdA (s off len : Nat) : Nat := memRdLE c.sp (a + s * pitch + off) len
        let rdB (s off len : Nat) : Nat :=
          let at0 := s * n * 2048 + off
          memRdLE (tabGet {} m.slots (b + at0 / 2048)).bytes (at0 % 2048) len
        let lanesA := (List.range rows).map fun r =>
          let ls := (List.range k).map fun s => if sparse then sparseLane fa (rdA s) r else (denseLane fa (rdA s) r, false)
          (ls.flatMap (·.1), ls.any (·.2))
        let lanesB := (List.range cols).map fun r => (List.range k).flatMap fun s =>
          -- the scale bytes of FP6 and FP4 slabs stand in the same slot as the lanes
          denseLane fb (rdB s) r
        let g := mxeGroup cls sparse m.exact
        let flags0 : TileFlags := if accum then tile.flags else {}
        let base : TileFlags := flags0.or { sparse := lanesA.any (·.2) }
        let cells := (List.range rows).flatMap fun i => (List.range cols).map fun j =>
          (64 * i + j, (if fromZero then 0 else zGet tile.elems (64 * i + j)),
            mmaGroups g ((lanesA.getD i ([], false)).1) (lanesB.getD j []))
        let stop : Option Nat :=
          if m.exact && exactFault then
            (cells.filterMap fun x => firstRange (x.2.1, {}) x.2.2 0).foldl
              (fun best n => match best with | none => some n | some b => some (if n < b then n else b)) none
          else none
        let run (gs : List (List (Num × Num))) (x : Nat) : Nat × TileFlags :=
          gs.foldl (if m.exact then exactGroup else if int then int32Group else fp32Group) (x, {})
        let out := cells.map fun x => (x.1, run (match stop with | none => x.2.2 | some q => x.2.2.take q) x.2.1)
        let tile' : Tile :=
          { type := ty, empty := false
            flags := out.foldl (fun f x => f.or x.2.2) base
            elems := out.foldl (fun e x => zSet e x.1 x.2.1) (if tile.empty then [] else tile.elems) }
        .ok { flight := { op := 0x11,
                          reads := spRows a pitch size k ++ slotNums.map Res.slot ++ (if accum then [Res.tile t] else []),
                          writes := [Res.tile t], eff := { tiles := [(t, tile')], slabs := k } },
              fault := if stop.isSome then some (mkFault .exactRange .faulted) else none }
  | _, _ => .error illegalOp

/-- ACCMODE (R81, R97): select the mode; every tile becomes empty with its flags cleared. -/
def accmodeStart (_c : Core) (w : QWord) : Except CtxFault Started :=
  if !onlyBits w [(7, 0), (8, 8)] then .error illegalParam
  else
    .ok { flight := { op := 0x12, writes := (List.range 8).map Res.tile,
                      eff := { tiles := (List.range 8).map fun t => (t, {}), mode := some (bit w 8) } }, alone := true }

/-- The tiles that a MASK names, ascending. -/
def maskTiles (w : QWord) : List Nat := (List.range 8).filter fun t => bit w (8 + t)

def maskOk (c : Core) (w : QWord) : Bool := (maskTiles w).all fun t => decide (t < c.mxe.tileCount)

/-- ACCZERO (R81, R97). -/
def acczeroStart (c : Core) (w : QWord) : Except CtxFault Started :=
  if !(onlyBits w [(7, 0), (15, 8)] && maskOk c w) then .error illegalParam
  else .ok { flight := { op := 0x13, writes := (maskTiles w).map Res.tile, eff := { tiles := (maskTiles w).map fun t => (t, {}) } } }

/-- Bytes of an element in ACCST and ACCLD (R82). -/
def elemBytes (exact : Bool) : Nat := if exact then 16 else 4

/-- ACCST (R82): store one tile's raw contents. -/
def accstStart (c : Core) (w : QWord) : Except CtxFault Started :=
  let t := fld w 10 8
  let a := addrFld w
  let eb := elemBytes c.mxe.exact
  let pitch := strideFld w * 64
  if !(onlyBits w [(7, 0), (10, 8), (84, 64), (111, 96)] && decide (t < c.mxe.tileCount) && a % 64 == 0
      && decide (64 * eb ≤ pitch)) then .error illegalParam
  else if !spRowsOk c.l1Units.toNat a pitch (64 * eb) 64 then .error spRangeFault
  else
    let tile := c.mxe.tile t
    let cells := (List.range 64).flatMap fun i => (List.range 64).flatMap fun j =>
      let v := if tile.empty then 0 else zGet tile.elems (64 * i + j)
      ((List.range eb).zip (leBytes eb v)).map fun p => (a + i * pitch + j * eb + p.1, p.2)
    .ok { flight := { op := 0x14, reads := [.tile t], writes := spRows a pitch (64 * eb) 64, eff := { sp := cells } } }

/-- Is an FP32 code a NaN? -/
def fp32IsNan (b : Nat) : Bool := (ofFp32 b).isNan

/-- ACCLD (R82, R84, R97): load one tile's raw contents and set its type and flags. -/
def accldStart (c : Core) (w : QWord) : Except CtxFault Started :=
  let t := fld w 10 8
  let ty := fld w 12 11
  let a := addrFld w
  let exact := c.mxe.exact
  let eb := elemBytes exact
  let pitch := strideFld w * 64
  if !(onlyBits w [(7, 0), (12, 8), (84, 64), (111, 96)] && decide (t < c.mxe.tileCount) && a % 64 == 0
      && decide (64 * eb ≤ pitch) && (if exact then ty == 2 else decide (ty ≤ 1))) then .error illegalParam
  else if !spRowsOk c.l1Units.toNat a pitch (64 * eb) 64 then .error spRangeFault
  else
    let tile := c.mxe.tile t
    let want : TileType := if ty = 2 then .exact else if ty = 1 then .int32 else .fp32
    if !tile.empty && tile.type != want then .error (mkFault .operandMismatch .badParam)
    else
      let vals := (List.range 4096).map fun n => (n, memRdLE c.sp (a + n / 64 * pitch + n % 64 * eb) eb)
      let tile' : Tile :=
        { type := want, empty := false
          flags := { invalid := exact && vals.any (fun p => p.2 == exactInvalid),
                     nan := ty == 0 && vals.any (fun p => fp32IsNan p.2) }
          elems := vals.filter fun p => p.2 != 0 }
      .ok { flight := { op := 0x15, reads := spRows a pitch (64 * eb) 64, writes := [.tile t], eff := { tiles := [(t, tile')] } } }

/-- STSTAT (R82, R98): store the status words of the named tiles, and clear their flags where CLEAR is set. -/
def ststatStart (c : Core) (w : QWord) : Except CtxFault Started :=
  let a := addrFld w
  let ts := maskTiles w
  if !(onlyBits w [(7, 0), (16, 8), (84, 64)] && maskOk c w && a % 4 == 0) then .error illegalParam
  else if !(ts.isEmpty || spOk c.l1Units.toNat a (4 * ts.length)) then .error spRangeFault
  else
    let cells := (ts.zip (List.range ts.length)).flatMap fun p =>
      ((List.range 4).zip (leBytes 4 (tileStat c.mxe.exact (c.mxe.tile p.1)))).map fun q => (a + 4 * p.2 + q.1, q.2)
    .ok { flight := { op := 0x16, reads := ts.map Res.tile, writes := ts.map Res.tile ++ [.sp a (a + 4 * ts.length)],
                      eff := { sp := cells
                               tiles := if bit w 16 then ts.map fun t => (t, { c.mxe.tile t with flags := {} }) else [] } },
          alone := true }

end Sys2Proof.Machine
end

