-- ==== Sys2Proof/Machine/Registers.lean ====
section
/-! DEFINITION. BAR0: the value of every register as each function reads it (R11 to R16 and the register chapters), in
32-bit words, and the latch of R15. -/

namespace Sys2Proof.Machine

/-- A register as it stands at its offset: its first word's offset, its width in words, its value. -/
structure RegView where
  base  : Nat
  words : Nat := 1
  value : Nat := 0
deriving DecidableEq, Repr

/-- What a 64-bit register at an offset looks like. -/
def reg64 (base value : Nat) : RegView := { base := base, words := 2, value := value }

/-- An offset in an array of registers: the instance and the offset within it. -/
def slotOf (off base stride count : Nat) : Option (Nat × Nat) :=
  if base ≤ off && decide (off < base + stride * count) then some ((off - base) / stride, (off - base) % stride) else none

/-- Clear a value that a function may not see. -/
def RegView.only (r : RegView) (ok : Bool) : RegView := if ok then r else { r with value := 0 }

/-! Cores (R70, R100, R129, R159, R210). -/

/-- CORE_STATUS (R70). -/
def Core.statusWord (c : Core) : Nat :=
  pack [(8, c.context.toNat), (4, c.partition.toNat), (1, b2n c.resident), (1, b2n c.running), (1, b2n c.faulted),
        (3, c.faultQueue.toNat), (6, c.faultReason.toNat), (8, c.lastStatus.toNat)]

/-- The state of a queue in CORE_QSTATE (R70). -/
def Core.qstate (c : Core) (e : Eng) : Nat :=
  let q := c.queue e
  if q.ended || !c.resident then 0
  else match q.hold with
    | .wait => 3 | .waitmem => 4 | .fence => 5 | .full => 6
    | .none => if (tabGet? q.buf q.pos).isSome then 1 else 2

def Core.qstateWord (c : Core) : Nat :=
  pack [(17, 0), (3, c.qstate .cpe1), (3, c.qstate .cpe0), (3, c.qstate .tge), (3, c.qstate .vxe), (3, c.qstate .mxe)]

/-- CORE_SPLIT (R70). -/
def Core.splitWord (c : Core) : Nat :=
  pack [(4, 0), (12, if c.l1Units = 0 then 0 else spBytes c.l1Units.toNat / 1024), (12, 0), (4, c.l1Units.toNat)]

/-- MXE_STATUS (R100). -/
def Core.mxeWord (c : Core) : Nat :=
  pack [(16, 0), (1, b2n c.mxe.exact), (1, b2n (!(c.queue .mxe).flights.isEmpty)), (7, c.mxe.slots.length), (7, 0)]

/-- VXE_STATUS (R129). -/
def Core.vxeWord (c : Core) : Nat :=
  let f := c.vxe.flags
  pack [(16, 0), (1, b2n (!(c.queue .vxe).flights.isEmpty)), (8, 0), (1, b2n f.accInvalid), (1, b2n f.scaleClamp), (1, b2n f.cvtSat),
        (1, b2n f.intSat), (1, b2n f.ovf), (1, b2n f.nan), (1, 0)]

def Core.lenWord (c : Core) : Nat := pack [(10, 0), (6, c.vxe.rows.toNat), (9, 0), (7, c.vxe.cols.toNat)]

/-- TGE_STATUS (R159): BUSY while a thread instruction waits for a response or has performed some of its lanes. -/
def Core.tgeWord (c : Core) : Nat :=
  let busy := c.tge.groups.any fun g => !(g.2.pend.isEmpty && g.2.did.isEmpty)
  pack [(8, c.tge.regs.toNat), (1, 0), (7, c.tge.limit.toNat), (1, 0), (7, c.tge.groups.length), (6, 0), (1, b2n c.tge.stores.isEmpty), (1, b2n busy)]

def Core.faultPcWord (c : Core) : Nat := pack [(10, 0), (6, c.tge.faultGroup.toNat), (48, c.tge.faultPc.toNat)]

/-- The block of a core (R69), by offset in it. -/
def Core.regView (c : Core) (b : Nat) : RegView :=
  if b = 0x000 then { base := 0x000, value := c.statusWord }
  else if b = 0x004 then { base := 0x004, value := c.qstateWord }
  else if b = 0x008 then { base := 0x008, value := c.splitWord }
  else match slotOf b 0x010 8 5 with
  | some (e, _) => reg64 (0x010 + 8 * e) (zGet c.busy e / 10)
  | none => match slotOf b 0x040 8 5 with
  | some (e, _) => reg64 (0x040 + 8 * e) (zGet c.waited e / 10)
  | none => match slotOf b 0x080 4 32 with
  | some (k, _) => { base := b, value := zGet c.sems k }
  | none => match slotOf b 0x120 4 8 with
  | some (t, _) => { base := b, value := c.mxe.statWord t }
  | none =>
    if b = 0x100 then { base := b, value := c.mxeWord }
    else if b / 8 = 0x108 / 8 then reg64 0x108 c.mxe.slabs.toNat
    else if b = 0x140 then { base := b, value := c.vxeWord }
    else if b = 0x144 then { base := b, value := c.lenWord }
    else if b / 8 = 0x148 / 8 then reg64 0x148 c.vxe.elems.toNat
    else if b = 0x160 then { base := b, value := c.tgeWord }
    else if b = 0x164 then { base := b, value := c.tge.faultLanes.toNat }
    else if b / 8 = 0x168 / 8 then reg64 0x168 c.faultPcWord
    else if b / 8 = 0x170 / 8 then reg64 0x170 c.tge.issued.toNat
    else if b = 0x178 then { base := b, value := c.tge.rotations.toNat }
    else if b = 0x180 then { base := b, value := c.redStatus.toNat }
    else { base := b }

/-- Is a register of the compute part hidden by a recovery (R457)? -/
def State.partHidden (s : State) : Bool := s.recov.state == 1 || s.recov.state == 2

/-- The core blocks as a function reads them (R70). -/
def State.coreView (s : State) (fn n b : Nat) : RegView :=
  let c := s.core n
  let v := c.regView b
  let busy := decide (0x010 ≤ b) && decide (b < 0x068)
  ({ v with base := v.base + 0x400000 + 0x400 * n }).only
    (!s.partHidden && (fn == 0 || (c.resident && (s.ctx c.context.toNat).partition.toNat == fn && !busy)))

/-! The hub (R16, R39, R231). -/

def Hub.infoWord (h : Hub) : Nat := pack [(8, 0xA4), (8, h.feature.toNat), (8, h.bootStatus.toNat), (8, 0)]

def Hub.revWord (h : Hub) (n : Nat) : Nat := match tabGet? h.dieRevs n with
  | some (t, st, l) => pack [(8, t), (8, st), (8, l), (8, 0)]
  | none => 0

def Hub.checkWord (h : Hub) : Nat :=
  pack [(8, h.checkVersion.toNat), (8, 0), (1, b2n h.checkDone), (1, b2n h.checkFail), (3, h.checkA.toNat), (3, h.checkB.toNat), (8, h.checkCap.toNat)]

def Hub.spareWord (h : Hub) : Nat :=
  pack [(8, h.sparesUsed.toNat), (4, h.spareReason.toNat), (3, h.spareDie.toNat), (4, h.spareRow.toNat), (6, h.spareSlice.toNat), (7, 0)]

/-- Is a partner admitted in open mode (R231)? -/
def State.partnerOpen (s : State) : Bool := s.links.sites.any fun p => p.2.state == .admitted && p.2.openMode

/-- HUB_COH_STATUS and HUB_COH_FAIL_ADDR (R231). -/
def State.cohWord (s : State) : Nat :=
  let c := s.cache.coh
  pack [(1, b2n c.down), (3, c.cause.toNat), (10, c.agent.toNat), (8, c.slice.toNat), (8, c.ctx.toNat), (1, b2n c.isReq), (1, b2n s.partnerOpen)]

def State.cohAddr (s : State) : Nat := pack [(12, s.cache.coh.requester.toNat), (4, 0), (42, s.cache.coh.line.toNat), (6, 0)]

def State.hubView (s : State) (fn off : Nat) : RegView :=
  let h := s.hub
  if off = 0 then { base := 0, value := h.infoWord }
  else match slotOf off 0x10 4 5 with
  | some (n, _) => { base := off, value := h.revWord n }
  | none => match slotOf off 0x40 8 5 with
  | some (n, _) => reg64 (0x40 + 8 * n) (zGet h.dieSerials n)
  | none => match slotOf off 0x100 4 48 with
  | some (n, _) => { base := off, value := zGet h.coreMap n }
  | none =>
    if off = 0x80 then { base := off, value := h.checkWord }
    else if off = 0x84 then { base := off, value := h.spareWord }
    else if off = 0x88 then ({ base := off, value := s.cohWord } : RegView).only (fn == 0 && !s.partHidden)
    else if off / 8 = 0x90 / 8 then (reg64 0x90 s.cohAddr).only (fn == 0 && !s.partHidden)
    else { base := off }

/-! Slices and channels (R210, R253). -/

def LlcPart.word (p : LlcPart) : Nat := pack [(1, b2n p.sealed), (3, p.missResv.toNat), (12, p.ways.toNat), (16, p.cycles.toNat)]

def LlcPart.mcWord (p : LlcPart) : Nat := pack [(1, b2n p.sealed), (15, 0), (16, p.windows.toNat)]

def Slice.statusWord (x : Slice) : Nat :=
  pack [(16, (x.ways.filter fun w => w.2.pinned).length), (7, x.miss.length), (1, b2n x.flushing), (8, 0)]

def Slice.deadWord (x : Slice) : Nat :=
  pack [(8, x.deadCtx.toNat), (4, x.deadPart.toNat), (1, b2n x.deadRemote), (1, b2n x.deadHost), (18, 0)]

def Slice.regView (x : Slice) (b : Nat) : RegView :=
  if b = 0 then { base := b, value := x.statusWord }
  else if b = 4 then { base := b, value := x.deadWord }
  else if b / 8 = 1 then reg64 8 (x.deadLine.toNat * 64)
  else match slotOf b 0x10 8 13 with
  | some (k, _) => reg64 (0x10 + 8 * k) (tabGet 0 x.cnt k).toNat
  | none => { base := b }

/-- MC_GLOBAL (R253). -/
def State.mcGlobal (s : State) : Nat :=
  let m := s.mem
  pack [(4, m.rate.toNat), (1, b2n (s.parts.any fun p => p.2.sealed)), (3, 0), (8, m.scrubHours.toNat), (7, 0), (9, m.trained.toNat)]

def Chan.regView (c : Chan) (b : Nat) : RegView :=
  if b = 0 then { base := b, value := pack [(4, c.state.toNat), (2, c.refresh.toNat), (1, b2n c.overTemp), (25, 0)] }
  else if b = 4 then { base := b, value := c.ceCount.toNat }
  else if b = 8 then { base := b, value := c.errLoc.toNat }
  else if b = 0xC then { base := b, value := c.ueInfo }
  else if b / 8 = 2 then reg64 0x10 (c.ueLine.toNat * 64)
  else if b / 8 = 3 then reg64 0x18 c.reads.toNat
  else if b / 8 = 4 then reg64 0x20 c.writes.toNat
  else { base := b }

def State.cacheView (s : State) (fn off : Nat) : RegView :=
  match slotOf off 0x4F0000 4 16 with
  | some (p, _) => ({ base := off, value := (s.llcPart p).word } : RegView).only (fn == 0 || fn == p)
  | none => match slotOf off 0x4F0040 4 16 with
  | some (p, _) => ({ base := off, value := (s.llcPart p).mcWord } : RegView).only (fn == 0 || fn == p)
  | none => if off = 0x4F0080 then { base := off, value := s.mcGlobal } else { base := off }

/-! Die links and partner sites (R280). -/

/-- Lane states of a link as D2D_LINK_STATUS_n (R280). -/
def DieLink.word (l : DieLink) : Nat :=
  pack [(3, l.state.toNat), (10, l.failLanes.toNat), (10, l.firstLane.toNat), (1, b2n l.dir), (8, 0)]

def SiteState.code : SiteState → Nat
  | .empty => 0 | .training => 1 | .discovery => 2 | .admitted => 3 | .disabled => 4 | .quiesced => 5

/-- Valid rules of a site: FLAGS bit 0 of R274. -/
def Site.validRules (x : Site) : Nat := (x.rules.filter fun r => (ruleFld r.2 9 1).testBit 0).length

/-- D2D_PS_STATUS_s (R280). -/
def Site.word (x : Site) : Nat :=
  pack [(3, x.state.code), (1, b2n x.openMode), (4, x.reason.toNat), (2, x.rate.toNat), (3, x.modules.toNat), (4, 0), (7, x.validRules), (8, x.powerW.toNat)]

def State.linkView (s : State) (off : Nat) : RegView :=
  let site (k : Nat) (b : Nat) : RegView :=
    let x := s.site k
    let at_ := 0x540800 + 0x1000 * k
    if b = 0 then { base := at_, value := x.word }
    else if b / 8 = 1 then reg64 (at_ + 8) x.denied.toNat
    else if b / 8 = 2 then reg64 (at_ + 0x10) x.lastDenied.toNat
    else { base := at_ + b }
  match slotOf off 0x540000 0x40 8 with
  | some (n, b) =>
    let l := s.link n
    if b = 0 then { base := off, value := l.word }
    else if b / 8 = 1 then reg64 (0x540008 + 0x40 * n) l.crcErr.toNat
    else if b / 8 = 2 then reg64 (0x540010 + 0x40 * n) l.retries.toNat
    else { base := off }
  | none => match slotOf off 0x540800 0x20 1 with
  | some (_, b) => site 0 b
  | none => match slotOf off 0x541800 0x20 1 with
  | some (_, b) => site 1 b
  | none => match slotOf off 0x541000 0x20 64 with
  | some (k, b) => { base := off, value := ((tabGet 0 (s.site 0).rules k).toNat >>> (8 * b)) % 2 ^ 32 }
  | none => match slotOf off 0x542000 0x20 64 with
  | some (k, b) => { base := off, value := ((tabGet 0 (s.site 1).rules k).toNat >>> (8 * b)) % 2 ^ 32 }
  | none => { base := off }

/-! Reference time (R301). -/

def TimState.code : TimState → Nat
  | .unset => 0 | .acquiring => 1 | .locked => 2 | .holdover => 3

/-- TIM_STATUS (R301). -/
def Tim.statusWord (t : Tim) : Nat :=
  pack [(3, t.state.code), (3, t.src.toNat), (1, b2n t.todValid), (1, b2n t.slewing), (1, b2n t.frameLocked), (1, b2n t.frameHoldover),
        (2, 0), (4, t.rejectCause.toNat), (4, t.rejectInput.toNat), (12, t.rejects.toNat)]

/-- Classes that need the compute domain (R292). -/
def needsCompute (cls : Nat) : Bool := cls == 1 || cls == 2 || cls == 3 || cls == 7

/-- The due time of the next entry that needs compute (TIM_CAL_NEXT, R299). -/
def State.nextCompute (s : State) : Option Nat :=
  (s.cal.entries.filterMap fun p => if needsCompute p.2.cls.toNat then p.2.dueAt s.tim else none).foldl
    (fun m d => some (match m with
      | some x => min x d
      | none => d)) none

def State.timeView (s : State) (fn off : Nat) : RegView :=
  let t := s.tim
  let pf := fn == 0
  let w (v : Nat) : RegView := ({ base := off, value := v } : RegView).only pf
  if off = 0x560000 then { base := off, value := t.statusWord }
  else if off = 0x560004 then w (pack [(4, t.primary.toNat), (4, t.secondary.toNat), (8, t.ptpDomain.toNat), (4, t.syncExp.toNat), (12, 0)])
  else if off = 0x560008 then w (pack [(16, t.num.toNat), (16, t.den.toNat)])
  else if off = 0x56000C then w t.offset.toNat
  else if off / 8 = 0x560010 / 8 then reg64 0x560010 t.now.toNat
  else if off / 8 = 0x560018 / 8 then reg64 0x560018 t.frame.toNat
  else if off / 8 = 0x560020 / 8 then reg64 0x560020 t.frameEdge.toNat
  else if off = 0x560028 then w (pack [(3, 0), (13, s.cal.entries.length), (16, s.cal.late.toNat)])
  else if off = 0x56002C then w (pack [(3, t.idle.toNat), (3, t.maxState.toNat), (10, t.margin.toNat), (16, 0)])
  else if off / 8 = 0x560030 / 8 then (reg64 0x560030 ((s.nextCompute).getD (2 ^ 64 - 1))).only pf
  else { base := off }

/-! The fabric (R330). -/

/-- FAB_PORT_STATUS_p (R330). -/
def Port.word (p : Port) : Nat :=
  pack [(3, p.state.toNat), (4, p.failLanes.toNat), (16, p.peer.toNat), (5, p.peerPort.toNat), (1, b2n p.miscabled), (1, b2n p.optical), (2, 0)]

def State.fabView (s : State) (fn off : Nat) : RegView :=
  let f := s.fab
  let v : RegView :=
    if off = 0x580004 then { base := off, value := f.segs.length }
    else if off / 8 = 0x580008 / 8 then reg64 0x580008 f.inDenied.toNat
    else if off / 8 = 0x580010 / 8 then reg64 0x580010 f.lastDenied.toNat
    else if off / 8 = 0x580018 / 8 then reg64 0x580018 f.discarded.toNat
    else match slotOf off 0x580100 0x20 18 with
    | some (p, b) =>
      let q := s.port p
      if b = 0 then { base := off, value := q.word }
      else if b / 8 = 1 then reg64 (0x580108 + 0x20 * p) q.crcErr.toNat
      else if b / 8 = 2 then reg64 (0x580110 + 0x20 * p) q.retries.toNat
      else if b / 8 = 3 then reg64 (0x580118 + 0x20 * p) q.fec.toNat
      else { base := off }
    | none => match slotOf off 0x580400 4 18 with
    | some (p, _) => { base := off, value := pack [(1, b2n (s.port p).delayValid), (15, 0), (16, (s.port p).delayNs.toNat)] }
    | none => { base := off }
  if off = 0x580000 then { base := off, value := pack [(16, f.device.toNat), (6, f.zdim.toNat), (6, f.wdim.toNat), (2, f.base.toNat), (2, 0)] }
  else v.only (fn == 0)

/-! Solstice (R360). -/

def State.solView (s : State) (fn off : Nat) : RegView :=
  match slotOf off 0x5A0000 0x40 4 with
  | none => { base := off }
  | some (g, b) =>
    let x := s.sched g
    let at_ := 0x5A0000 + 0x40 * g
    let v : RegView :=
      if b = 0 then { base := at_, value := pack [(3, x.state.toNat), (3, x.cause.toNat), (5, x.pace.toNat), (16, x.paceGroup.toNat), (4, x.partition.toNat),
                                                  (1, b2n (x.state != 0 && (s.part x.partition.toNat).sealed))] }
      else if b = 4 then { base := at_ + 4, value := pack [(5, x.nextQ.toNat), (5, x.ownReq.toNat), (5, x.govReq.toNat), (5, x.lateReq.toNat), (1, b2n x.late), (1, b2n x.time), (10, 0)] }
      else if b / 8 = 1 then reg64 (at_ + 8) x.t0.toNat
      else if b / 8 = 2 then reg64 (at_ + 0x10) x.epoch.toNat
      else if b / 8 = 3 then reg64 (at_ + 0x18) x.lateCount.toNat
      else if b / 8 = 4 then reg64 (at_ + 0x20) x.overrun.toNat
      else if b / 8 = 5 then reg64 (at_ + 0x28) x.fault.toNat
      else { base := off }
    v.only (fn == 0 || x.partition.toNat == fn)

/-! Contexts and partitions (R416). -/

def CtxState.code : CtxState → Nat
  | .free => 0 | .created => 1 | .active => 2 | .faulted => 3 | .tearing => 4

def Ctx.word (x : Ctx) : Nat :=
  pack [(3, x.state.code), (4, x.partition.toNat), (2, x.level.toNat), (1, b2n x.exactFault), (1, b2n x.deadFault), (5, 0), (16, x.share.toNat)]

/-- Cores of the indexes of a kernel that have no core yet: all of them until its turn comes (R380). -/
def Launch.unstarted (l : Launch) : List Nat :=
  (if l.active then l.waiting else List.range l.kernel.count).map (l.kernel.first + ·)

/-- HUB_CTX_CORES_c (R416): a core for which two kernels of the context wait counts once. -/
def State.ctxCoresWord (s : State) (c : Nat) : Nat :=
  let resident := (s.cores.filter fun p => p.2.resident && p.2.context.toNat == c).length
  let assigned := (s.cores.filter fun p => p.2.assigned && p.2.context.toNat == c).map (·.1)
  let waiting := (s.launches c).flatMap fun d => d.launch.elim [] Launch.unstarted
  pack [(10, resident), (10, (tabGet [] s.saved c).length), (10, (assigned ++ waiting).eraseDups.length), (2, 0)]

def State.ctxView (s : State) (fn off : Nat) : RegView :=
  match slotOf off 0x5C0000 0x40 256 with
  | some (c, b) =>
    let x := s.ctx c
    let at_ := 0x5C0000 + 0x40 * c
    let v : RegView :=
      if b = 0 then { base := at_, value := x.word }
      else if b = 4 then { base := at_ + 4, value := s.ctxCoresWord c }
      else if b < 0x30 then reg64 (at_ + b / 8 * 8) (tabGet 0 x.time (b / 8 - 1)).toNat
      else if b < 0x38 then reg64 (at_ + 0x30) x.switches.toNat
      else if b = 0x38 then { base := at_ + 0x38, value := pack [(16, x.dlSwitches.toNat), (16, x.late.toNat)] }
      else { base := off }
    v.only (s.mayName fn c)
  | none => match slotOf off 0x5E0000 0x10 16 with
  | some (p, b) =>
    let x := s.part p
    let used := (s.fab.tracker.filter fun o => lineRd o.hdr 5 1 % 16 == p).length
    let v : RegView :=
      if b < 8 then reg64 (0x5E0000 + 0x10 * p) (pack [(10, x.coreFirst.toNat), (10, x.coreCount.toNat), (13, x.memBase.toNat), (13, x.memGib.toNat), (10, x.saveGib.toNat), (8, 0)])
      else if b = 8 then { base := off, value := pack [(15, x.trackResv.toNat), (15, used), (2, 0)] }
      else { base := off }
    v.only (fn == 0 || fn == p)
  | none => { base := off }

/-! The host block (R389). -/

def HostFn.bar2Word (f : HostFn) : Nat := pack [(34, f.vaBase.toNat), (8, f.context.toNat), (1, b2n f.mapped), (21, 0)]

def Ring.ctrlWord (r : Ring) : Nat :=
  pack [(1, b2n r.enable), (1, b2n r.ringVa), (1, b2n r.statusVa), (8, 0), (5, r.sizeLog2.toNat), (5, 0), (3, r.vector.toNat), (8, 0)]

def State.hostView (s : State) (fn off : Nat) : RegView :=
  match slotOf off 0x600000 0x40 4 with
  | some (n, b) =>
    let r := s.ring fn n
    let at_ := 0x600000 + 0x40 * n
    if b < 8 then reg64 at_ r.base.toNat
    else if b < 0x10 then reg64 (at_ + 8) r.status.toNat
    else if b = 0x10 then { base := off, value := r.ctrlWord }
    else if b = 0x14 then { base := off, value := r.tail.toNat }
    else if b = 0x18 then { base := off, value := r.head.toNat }
    else if b = 0x1C then { base := off, value := pack [(1, b2n r.overflow), (3, r.cause.toNat), (28, 0)] }
    else { base := off }
  | none =>
    let f := s.fn fn
    if off = 0x600100 then { base := off, value := pack [(4, fn), (4, fn), (8, (s.part fn).ctxFirst), (9, (s.part fn).ctxCount), (6, 0), (1, b2n (fn == 0))] }
    else if off / 8 = 0x600108 / 8 then reg64 0x600108 f.bar2Word
    else { base := off }

/-! Power (R443, R501). -/

/-- Does a channel report OVER_TEMP (R249)? -/
def State.memHot (s : State) : Bool := s.mem.chans.any fun c => c.2.overTemp

/-- Is ALERT_N asserted (R441)? -/
def State.alert (s : State) : Bool := s.pwr.hot || s.pwr.coolantHigh || s.pwr.sealBreach || s.pwr.calOut || s.memHot

def State.powerView (s : State) (fn off : Nat) : RegView :=
  let p := s.pwr
  let u := s.sup
  let v : RegView :=
    if off = 0x620000 then { base := off, value := pack [(4, p.level.toNat), (1, b2n p.hot), (1, b2n p.sealBreach), (1, b2n s.memHot), (1, b2n p.coolantHigh),
                                                         (1, b2n s.alert), (1, b2n p.calOut), (10, 0), (12, p.target / 1000)] }
    else if off = 0x620004 then { base := off, value := pack [(16, p.last.power / 1000), (16, p.last.uncore / 1000)] }
    else if off = 0x620008 then { base := off, value := pack [(12, p.tjMax.toNat), (3, p.tjDie.toNat), (12, if p.coolantValid then p.coolant.toNat else 0), (1, b2n p.coolantValid), (4, 0)] }
    else if off = 0x62000C then { base := off, value := pack [(7, 0), (12, p.thermal / 1000), (13, p.credit / 10 ^ 6)] }
    else if off / 8 = 0x620010 / 8 then reg64 0x620010 (p.energy / 1000 % 2 ^ 64)
    else if off = 0x6200C0 then { base := off, value := pack [(1, b2n u.mainOk), (1, b2n u.auxOk), (1, b2n u.onAux), (1, b2n u.pwrOk), (1, b2n u.resetN), (1, b2n u.refclkOk),
                                                              (1, b2n u.pwrOkBad), (9, 0), (8, u.vinMain.toNat), (8, u.vinAux.toNat)] }
    else if off = 0x6200C4 then { base := off, value := pack [(8, u.switchovers.toNat), (8, u.resetPulses.toNat), (8, u.glitches.toNat), (8, 0)] }
    else match slotOf off 0x620020 4 5 with
    | some (d, _) => { base := off, value := pack [(16, (tabGet 0x8000 p.ratios d).toNat), (16, (tabGet 0 p.measured d).toNat)] }
    | none => match slotOf off 0x620040 8 4 with
    | some (d, _) => reg64 (0x620040 + 8 * d) (tabGet 0 p.stretches d).toNat
    | none => { base := off }
  match slotOf off 0x620080 4 16 with
  | some (q, _) => ({ base := off, value := pack [(12, zGet p.partCore q / 1000), (4, zGet p.partLevel q), (1, b2n (s.part q).sealed), (3, 0),
                                                 (12, if (s.part q).sealed then (s.part q).powerW else 0)] } : RegView).only (fn == 0 || fn == q)
  | none => v.only (fn == 0)

/-! Recovery and Midwinter (R465). -/

/-- Base of the firmware region and of the crash region (R480). -/
def firmwareBase : Nat := 0x03FFC0000000
def crashBase : Nat := firmwareBase + 0x06000000

/-- A byte of memory as the slice or else the channel holds it. -/
def State.peekByte (s : State) (pa : Nat) : Nat := lineRd (s.peekLine (pa / 64)) (pa % 64) 1

def State.peekBytes (s : State) (pa n : Nat) : Nat := leVal ((List.range n).map fun i => BitVec.ofNat 8 (s.peekByte (pa + i)))

def State.recovView (s : State) (fn off : Nat) : RegView :=
  let r := s.recov
  if off = 0x640000 then { base := off, value := pack [(3, r.state.toNat), (4, r.step.toNat), (1, b2n r.memLost), (8, 0), (8, r.computeResets.toNat), (8, r.fullRecoveries.toNat)] }
  else if off = 0x640004 then { base := off, value := s.log.next.toNat }
  else
    let age := (s.now - s.mw.lastBeat.toNat) / 10 ^ 6
    let v : RegView :=
      if off = 0x640008 then { base := off, value := pack [(1, b2n s.mw.hang), (1, b2n s.mw.overrun), (1, b2n (r.state == 1 || r.state == 2)), (5, 0), (8, min age 255), (16, 0)] }
      else if off = 0x64000C then { base := off, value := s.mw.sampleKib.toNat }
      else if off = 0x640010 then { base := off, value := s.mw.crashPage.toNat }
      else match slotOf off 0x660000 4 16384 with
      | some (k, _) =>
        let at_ := 65536 * s.mw.crashPage.toNat + 4 * k
        { base := off, value := if r.state = 0 && decide (at_ < 39172 * 1024) then s.peekBytes (crashBase + at_) 4 else 0 }
      | none => { base := off }
    v.only (fn == 0)

/-! Security (R486). -/

def State.secView (s : State) (fn off : Nat) : RegView :=
  let x := s.sec
  let pf := fn == 0
  if off = 0x680000 then { base := off, value := pack [(1, b2n x.locked), (1, b2n x.identity), (1, b2n x.certOk), (1, b2n x.imageSlot), (1, b2n x.configSlot),
                                                       (2, x.debugMode.toNat), (4, x.reason.toNat), (21, 0)] }
  else if off = 0x680004 then ({ base := off, value := x.debugMode.toNat } : RegView).only pf
  else if off = 0x680008 then ({ base := off, value := x.eventNext.toNat } : RegView).only pf
  else if off = 0x680020 then { base := off, value := x.fwVersion.toNat }
  else match slotOf off 0x680010 4 4 with
  | some (k, _) => { base := off, value := (tabGet 0 x.counters k).toNat }
  | none => match slotOf off 0x680100 0x20 6 with
  | some (k, _) => { base := 0x680100 + 0x20 * k, words := 8, value := (tabGet 0 x.meas k).toNat }
  | none => match slotOf off 0x680200 0x20 16 with
  | some (p, _) => ({ base := 0x680200 + 0x20 * p, words := 8, value := (tabGet 0 x.pmeas p).toNat } : RegView).only (pf || fn == p)
  | none => match slotOf off 0x681000 0x10 256 with
  | some (n, _) => ({ base := 0x681000 + 0x10 * n, words := 4, value := (tabGet 0 x.events n).toNat } : RegView).only pf
  | none => match slotOf off 0x682000 4 1024 with
  | some (k, _) => { base := off, value := memRdLE x.cert (4 * k) 4 }
  | none => { base := off }

/-! Reading. -/

/-- The register at a BAR0 offset as a function reads it; an offset without a register reads zero. -/
def State.regView (s : State) (fn off : Nat) : RegView :=
  let off := off / 4 * 4
  match slotOf off 0x400000 0x400 576 with
  | some (n, b) => s.coreView fn n b
  | none => match slotOf off 0x500000 0x100 256 with
  | some (k, b) =>
    let v := (s.slice k).regView b
    ({ v with base := v.base + 0x500000 + 0x100 * k }).only (fn == 0 && !s.partHidden)
  | none => match slotOf off 0x520000 0x100 256 with
  | some (k, b) =>
    let v := (s.chan k).regView b
    ({ v with base := v.base + 0x520000 + 0x100 * k }).only (fn == 0)
  | none =>
    if off < 0x1000 then s.hubView fn off
    else if off / 0x10000 = 0x4F then s.cacheView fn off
    else if off / 0x10000 = 0x54 then (s.linkView off).only (fn == 0)
    else if off / 0x10000 = 0x56 then s.timeView fn off
    else if off / 0x10000 = 0x58 then s.fabView fn off
    else if off / 0x10000 = 0x5A then s.solView fn off
    else if off / 0x10000 = 0x5C || off / 0x10000 == 0x5E then s.ctxView fn off
    else if off / 0x10000 = 0x60 then s.hostView fn off
    else if off / 0x10000 = 0x62 then s.powerView fn off
    else if off / 0x10000 = 0x64 || off / 0x10000 == 0x66 then s.recovView fn off
    else if off / 0x10000 = 0x68 then s.secView fn off
    else { base := off }

/-- The word of a register that stands at an offset. -/
def RegView.word (r : RegView) (off : Nat) : Nat := (r.value >>> (32 * ((off - r.base) / 4))) % 2 ^ 32

/-- The 32-bit word at a BAR0 offset, latches apart. -/
def State.reg32 (s : State) (fn off : Nat) : Nat := (s.regView fn off).word (off / 4 * 4)

end Sys2Proof.Machine
end

