-- ==== Sys2Proof/Machine/HubOps.lean ====
section
/-! DEFINITION. Operations of the hub that several commands share: whether the host reaches the device (R477, R491, R495,
R497), the security event log (R485), a hang (R449, R451), the injection of link errors (R263). -/

namespace Sys2Proof.Machine

/-- Is the PCI Express link up, so that requests of the host arrive? -/
def State.hostUp (s : State) : Bool := s.sup.on && s.host.linkUp

/-- Do host writes to BAR0 act? They are discarded while BOOT_STATUS is PENDING (R477). -/
def State.hostWrites (s : State) : Bool := s.hostUp && s.hub.bootStatus != 0x01

/-- Does a recovery hold the outside away (R457)? A device out of service, or one whose compute part has lost its supply,
answers in the same way (R455). -/
def State.shut (s : State) : Bool := !s.serving

/-- Log a security event (R485). -/
def State.secEvent (s : State) (code unit arg : Nat) : State :=
  let e := s.now + code * 2 ^ 64 + unit * 2 ^ 72 + (arg % 2 ^ 32) * 2 ^ 96
  { s with sec := { s.sec with
      events := tabSet s.sec.events (s.sec.eventNext.toNat % 256) (BitVec.ofNat 128 e), eventNext := s.sec.eventNext + 1 } }

/-- Midwinter declares a hang (R449, R451); one that comes while a recovery runs is not declared. -/
def State.declareHang (s : State) : State :=
  if s.recov.state = 0 then
    let s := s.arise 2 (FaultRec.untagged s 0x07 s.mw.lastBeat.toNat)
    { s with mw := { s.mw with hang := true } }
  else s

/-- A write of MW_CTRL through a function (R451, R465). -/
def State.writeMwCtrl (s : State) (fn : Nat) (v : Word) : State :=
  if fn ≠ 0 then s
  else
    let kib := fld v 6 0
    let s := if kib ≤ 64 then { s with mw := { s.mw with sampleKib := BitVec.ofNat 7 kib } } else s
    if bit v 31 then s.declareHang else s

/-- A write of D2D_INJECT through a function (R263, R280). -/
def State.writeInject (s : State) (fn : Nat) (v : Word) : State :=
  let n := fld v 3 0
  let count := fld v 15 8
  if fn ≠ 0 || count = 0 || decide (4 < count) || decide (9 < n) then s
  else
    let l := s.link n
    if l.inject.isSome then s else s.setLink n { l with inject := some (bit v 4, count) }

/-! Idle states (R298 to R300). -/

/-- Entry and wake times in ns. -/
def idleEntry (k : Nat) : Nat := [0, 10, 5000, 20000, 2000000].getD k 0
def idleWake (k : Nat) : Nat := [0, 50, 20000, 300000, 8000000].getD k 0

/-- An unscheduled cause: the wake starts at once, or when the entry is complete (R300). -/
def State.rouse (s : State) : State :=
  let t := s.tim
  if t.idle = 0 then s
  else { s with tim := { t with
    wakeEnd := some (t.wakeEnd.getD (max t.now.toNat t.entryEnd + idleWake t.idle.toNat)), held := t.held + 1 } }

/-! Calendar entries (R291 to R297). -/

/-- Arm an entry for a context: the lowest free index from 256, within the partition's quota (R293). One whose due time is
past fires at once (R296). -/
def State.armFor (s : State) (ctx : Nat) (e : CalEntry) : Option (Nat × State) :=
  let p := (s.ctx ctx).partition
  let used := (s.cal.entries.filter fun x => decide (256 ≤ x.1) && x.2.partition == p).length
  if !s.tim.todValid || decide ((s.part p.toNat).calQuota ≤ used) then none
  else match (List.range 3840).find? fun i => (tabGet? s.cal.entries (256 + i)).isNone with
    | none => none
    | some i =>
      let e := { e with context := BitVec.ofNat 8 ctx, partition := p }
      let e := { e with past := (e.dueAt s.tim).any fun d => decide (d < s.now) }
      some (256 + i, { s with cal := { s.cal with entries := tabSet s.cal.entries (256 + i) e } })

end Sys2Proof.Machine
end

