-- ==== Sys2Proof/Machine/Approx.lean ====
section
/-! DEFINITION. The bounds of R125 on the approximated functions of FUNC: the mathematical values in fixed point with 96
fraction bits, and the test that a result lies within the stated error of them (assumption 13). -/

namespace Sys2Proof.Machine

/-- One, in fixed point. -/
def fxOne : Nat := 2 ^ 96

/-- A finite value in fixed point, rounded towards zero. -/
def fxOf (s : Bool) (m : Nat) (e : Int) : Int :=
  Num.signedMant s (if 0 ≤ e + 96 then m <<< (e + 96).toNat else m >>> (-(e + 96)).toNat)

def fxMul (a b : Int) : Int := a * b / (fxOne : Int)

/-- A fixed-point number as a value. -/
def fxNum (a : Int) : Num := .fin (decide (a < 0)) a.natAbs (-96)

/-- The rational p / q in fixed point. -/
def fxRat (p q : Nat) : Int := ((p * fxOne / q : Nat) : Int)

/-- ln 2. -/
def fxLn2 : Int := fxRat 693147180559945309417232121458176568076 (10 ^ 39)

/-- The square root of 2 / π. -/
def fxGelu : Int := fxRat 797884560802865355879892119868763736952 (10 ^ 39)

/-- The Taylor sum of e^t for t from 0 to 1: n terms from the k-th on. -/
def expTail (t : Nat) : Nat → Nat → Nat → Nat
  | 0, _, _ => 0
  | n + 1, k, term => term + expTail t n (k + 1) (term * t / (k * fxOne))

/-- 2^a of a fixed-point number. -/
def fxExp2 (a : Int) : Num :=
  let n := a / (fxOne : Int)
  let f := a - n * (fxOne : Int)
  .fin false (expTail (fxMul f fxLn2).toNat 40 1 fxOne) (n - 96)

/-- The odd series of the inverse hyperbolic tangent: n terms from z^k on. -/
def atanhTail (z2 : Nat) : Nat → Nat → Nat → Nat
  | 0, _, _ => 0
  | n + 1, k, p => p / k + atanhTail z2 n (k + 2) (p * z2 / fxOne)

/-- log2 of m × 2^e, m not 0. -/
def fxLog2 (m : Nat) (e : Int) : Int :=
  let k := m.log2
  let u := m * fxOne / 2 ^ k
  let z := (u - fxOne) * fxOne / (u + fxOne)
  ((k : Int) + e) * (fxOne : Int) + 2 * (atanhTail (z * z / fxOne) 45 1 z : Int) * (fxOne : Int) / fxLn2

/-- 1 / (1 + e^-a). -/
def fxSigmoid (a : Int) : Int :=
  let x : Int := ((a.natAbs * fxOne : Nat) : Int) / fxLn2
  let q : Nat := match fxExp2 (-x) with
    | .fin _ m e => (fxOf false m e).toNat
    | _ => 0
  let y := fxRat fxOne (fxOne + q)
  if a < 0 then (fxOne : Int) - y else y

/-- The mathematical value of an approximated function at a finite operand (R125), to more bits than its bound. Operands of
magnitude 128 and above stand at the limits of the sigmoid. -/
def funcExact (code : Nat) (s : Bool) (m : Nat) (e : Int) : Num :=
  let big := decide (128 ≤ (fxOf false m e) / (fxOne : Int))
  let x := fxOf s m e
  let times (y : Int) : Num := (Num.fin s m e).mul (fxNum y)
  match code with
  | 1 => if big then (if s then .fin true 0 0 else .fin s m e)
    else times (fxSigmoid (2 * fxMul fxGelu (x + fxMul (fxRat 44715 1000000) (fxMul x (fxMul x x)))))
  | 2 => if big then (if s then .fin true 0 0 else .fin s m e) else times (fxSigmoid x)
  | 3 => if big then (if s then .zero else .ofInt 1) else fxNum (fxSigmoid x)
  | 4 => if big then .ofInt (if s then -1 else 1) else fxNum (2 * fxSigmoid (2 * x) - (fxOne : Int))
  | 5 => fxExp2 (if s && decide (x < -(1024 * fxOne : Int)) then -(1024 * fxOne : Int) else x)
  | 6 => fxExp2 (if s && decide (x < -(1024 * fxOne : Int)) then -(1024 * fxOne : Int) else x * (fxOne : Int) / fxLn2)
  | 7 => fxNum (fxLog2 m e)
  | 8 => .fin s (2 ^ 192 / m) (-192 - e)
  | _ => let odd := (e % 2).toNat
    .fin false (isqrt (2 ^ 240 / (m <<< odd))) (-120 - (e - odd) / 2)

/-- Does EXP2 or EXP overflow at a finite operand: at 128, and at the least FP32 number above 128 ln 2 (R125)? -/
def funcOverflows (code : Nat) (x : Num) : Bool :=
  (code == 5 && !x.lt (.ofInt 128)) || (code == 6 && !x.lt (ofFp32 0x42B17218))

/-- One unit in the last place of the FP32 number that a value lies at. -/
def ulpExp : Num → Int
  | .fin _ m e => if m = 0 then -149 else max ((m.log2 : Int) + e - 23) (-149)
  | _ => 104

/-- The stated error of a function in units in the last place, and whether 2^-24 is stated too (R125). -/
def funcBound (code : Nat) : Nat × Bool :=
  if code = 8 then (1, false) else if code = 5 || code == 6 || code == 7 || code == 9 then (2, false) else (4, true)

/-- Is an FP32 result within the stated error of the mathematical value? An infinity stands for 2^128 here; the value's own
error is allowed for by 2^-20 of a unit. -/
def funcWithin (code : Nat) (y v : Num) : Bool :=
  let top (z : Num) : Num := match z with
    | .inf s => .fin s 1 128
    | z => z
  let cap : Num := if Num.lt (.fin false 1 128) v.abs then .fin v.sign 1 128 else v
  let d := ((top y).add cap.neg).abs
  let b := funcBound code
  let far (n : Nat) (k : Int) : Bool := Num.lt (.fin false (n * 2 ^ 20 + 1) (k - 20)) d
  !y.isNan && (!far b.1 (min (ulpExp cap) 104) || (b.2 && !far 1 (-24)))

end Sys2Proof.Machine
end

