-- ==== Sys2Proof/Machine/Vxe.lean ====
section
/-! DEFINITION. The vector engine: operands and windows (R102 to R110), arithmetic (R112, R113, R117), functions
(R125), conversions (R119 to R124), reductions (R126), and what each VXE instruction makes, as functions of the core. -/

namespace Sys2Proof.Machine

/-- Operand specifiers (R107). -/
inductive Operand where
  | reg (n : Nat)
  | window (tile rowblk colblk : Nat)
deriving DecidableEq, Repr

def operandOf (b : Nat) : Operand := if b < 128 then .reg (b % 32) else .window (b / 16 % 8) (b / 8 % 2) (b / 2 % 4)

/-- Reserved bits of a specifier are zero (R107). -/
def operandOk (b : Nat) : Bool := if b < 128 then b / 32 == 0 else b % 2 == 0

/-- A pair needs an even register or an even COLBLK (R107, R120). -/
def operandEven (b : Nat) : Bool := match operandOf b with
  | .reg n => n % 2 == 0
  | .window _ _ cb => cb % 2 == 0

def Vxe.reg (v : Vxe) (n : Nat) : Mem := tabGet [] v.regs n

/-- Element of w bits of a register (R102). -/
def regElem (m : Mem) (w r c : Nat) : Nat := (memRdLE m (r * 64 + c * w / 8) (w / 8 + 1) >>> (c * w % 8)) % 2 ^ w

/-- VXE flags of a rounding. -/
def vflagsOf (r : RFlags) : VFlags := { ovf := r.ovf, nan := r.nan }

/-- Is the operand a window of an exact tile? -/
def isExactWindow (c : Core) : Operand → Bool
  | .reg _ => false
  | .window _ _ _ => c.mxe.exact

/-- R108, R109: may a window be read with this TYPE? -/
def windowCheck (c : Core) (ty : Format) : Operand → Except CtxFault Unit
  | .reg _ => .ok ()
  | .window t _ _ =>
    if c.mxe.exact && decide (2 ≤ t) then .error (mkFault .accAbsent .badParam)
    else
      let tile := c.mxe.tile t
      let okType := if c.mxe.exact then ty == .fp32
        else if tile.empty then ty == .fp32 || ty == .int32
        else match tile.type with
          | .fp32 => ty == .fp32
          | .int32 => ty == .int32
          | .exact => ty == .fp32
      need okType (mkFault .accType .badParam)

/-- The code in TYPE of the element (r, col) of an operand, and the flags that reading it sets (R108, R124). In a pair,
columns 16 to 31 come from the next register. -/
def readElem (c : Core) (ty : Format) (pair : Bool) (scale : Int) (o : Operand) (r col : Nat) : Nat × VFlags :=
  match o with
  | .reg n =>
    if pair && ty.width == 32 then (regElem (c.vxe.reg (n + col / 16)) 32 r (col % 16), {})
    else (regElem (c.vxe.reg n) ty.width r col, {})
  | .window t rb cb =>
    let tile := c.mxe.tile t
    let v := if tile.empty then 0 else zGet tile.elems (64 * (32 * rb + r) + 16 * cb + col)
    if c.mxe.exact then
      let x := exactRead v scale
      let y := roundNum .fp32 x.1
      (y.1, { accInvalid := x.2, ovf := y.2.ovf })
    else (v, {})

/-- ROWS, COLS and the number of elements of an instruction (R103). -/
def Vxe.rowsN (v : Vxe) : Nat := v.rows.toNat
def Vxe.colsN (v : Vxe) : Nat := v.cols.toNat
def vxeIdle (c : Core) : Bool := c.vxe.rowsN == 0 || c.vxe.colsN == 0

def lenOverFault : CtxFault := mkFault .lenOver .badParam

/-- Positions (r, c) of the active elements. -/
def activeCells (rows cols : Nat) : List (Nat × Nat) :=
  (List.range rows).flatMap fun r => (List.range cols).map fun k => (r, k)

/-- Write codes of w bits, w a multiple of 8, into a register. -/
def writeElems (m : Mem) (w : Nat) (xs : List (Nat × Nat × Nat)) : Mem :=
  xs.foldl (fun m x => memWrLE m (x.1 * 64 + x.2.1 * w / 8) (w / 8) x.2.2) m

def orAll (l : List VFlags) : VFlags := l.foldl VFlags.or {}

/-- The register resources of an operand. -/
def operandRes (pair : Bool) (ty : Format) : Operand → List Res
  | .reg n => if pair && ty.width == 32 then [.vreg n, .vreg (n + 1)] else [.vreg n]
  | .window _ _ _ => []

/-! Element operations. -/

/-- ALU operations on codes (R112, R113, R117). -/
def aluOp (ty : Format) (op a b : Nat) : Nat × VFlags :=
  let ones := 2 ^ ty.width - 1
  let flag (p : Bool) : Nat × VFlags := (if p then ones else 0, {})
  if ty = .int32 then
    let x := signed 32 a
    let y := signed 32 b
    let sat (v : Int) : Nat × VFlags := let r := satInt .int32 v; (r.1, { intSat := r.2 })
    match op with
    | 0 => sat (x + y) | 1 => sat (x - y) | 2 => sat (x * y)
    | 3 => (if x ≤ y then a else b, {}) | 4 => (if x ≤ y then b else a, {})
    | 5 => flag (decide (x < y)) | 6 => flag (decide (x ≤ y)) | 7 => flag (x == y) | _ => flag (x != y)
  else
    let x := decodeNum ty a
    let y := decodeNum ty b
    let rnd (v : Num) : Nat × VFlags := let r := roundNum ty v; (r.1, vflagsOf r.2)
    match op with
    | 0 => rnd (x.add y) | 1 => rnd (x.add y.neg) | 2 => rnd (x.mul y)
    | 3 => rnd (numMin x y) | 4 => rnd (numMax x y)
    | 5 => flag (Num.lt x y) | 6 => flag (Num.lt x y || Num.eq x y) | 7 => flag (Num.eq x y) | _ => flag (!Num.eq x y)

/-- Fused A × B + C (R112), saturating for INT32 (R113). -/
def fmaOp (ty : Format) (a b d : Nat) : Nat × VFlags :=
  if ty = .int32 then
    let r := satInt .int32 (signed 32 a * signed 32 b + signed 32 d)
    (r.1, { intSat := r.2 })
  else
    let r := roundNum ty (((decodeNum ty a).mul (decodeNum ty b)).add (decodeNum ty d))
    (r.1, vflagsOf r.2)

/-- The FP32 result of a function, where R125 fixes it; none where the reference tables do (R114). -/
def funcFixed (code : Nat) (x : Num) : Option Num :=
  match x with
  | .nan => some .nan
  | .inf s =>
    match code with
    | 0 => some (if s then .zero else .inf false)
    | 1 | 2 => some (if s then .fin true 0 0 else .inf false)
    | 3 => some (if s then .zero else .ofInt 1)
    | 4 => some (if s then .ofInt (-1) else .ofInt 1)
    | 5 | 6 => some (if s then .zero else .inf false)
    | 7 => if s then some .nan else none
    | 8 => some (.fin s 0 0)
    | 9 => some (if s then .nan else .zero)
    | 10 => some (numSqrt x)
    | 11 => some (.inf false)
    | _ => some x.neg
  | .fin s m e =>
    match code with
    | 0 => some (if s then .zero else .fin s m e)
    | 7 => if m = 0 then some (.inf true) else if s then some .nan else none
    | 8 => if m = 0 then some (.inf s) else none
    | 9 => if m = 0 then some (.inf s) else if s then some .nan else none
    | 10 => some (numSqrt x)
    | 11 => some (.fin false m e)
    | 12 => some x.neg
    | _ => none

/-- The result of a function that the reference tables fix (R114): whatever they hold within the stated error of the
mathematical value (R125); LOG2 of +infinity, for which nothing is stated, is free. -/
def funcTable (level code : Nat) (x : Num) : Num :=
  let y := ofFp32 (Config.func level code (BitVec.ofNat 32 (toFp32 x))).toNat
  match x with
  | .fin s m e => let v := funcExact code s m e; if funcWithin code y v then y else ofFp32 (toFp32 v)
  | _ => y

/-- FUNC in FP32 (R125): the result as a value, and whether a finite result overflowed. -/
def func32 (level code : Nat) (x : Num) : Num × Bool :=
  match funcFixed code x with
  | some y => (y, false)
  | none =>
    if x.isFin && funcOverflows code x then (.inf false, true)
    else let y := funcTable level code x; (y, y.isInf && x.isFin)

/-- FUNC on a code of TYPE (R125). -/
def funcOp (level : Nat) (ty : Format) (code a : Nat) : Nat × VFlags :=
  if ty = .int32 then
    let x := signed 32 a
    let v : Int := if code = 0 then (if x < 0 then 0 else x) else if code = 11 then (x.natAbs : Int) else -x
    let r := satInt .int32 v
    (r.1, { intSat := r.2 })
  else
    let y := func32 level code (decodeNum ty a)
    let r := roundNum ty y.1
    (r.1, { nan := r.2.nan, ovf := r.2.ovf || y.2 })

/-! Checks shared by the element instructions (R118). -/

/-- A TYPE of the arithmetic instructions: reserved codes are BAD_OPCODE, others that do not fit BAD_PARAM. -/
def arithType (code : Nat) : Except CtxFault Format :=
  match Format.ofCode code with
  | none => .error illegalOp
  | some f => if f.isArith then .ok f else .error illegalParam

/-- IMM of a 16-bit TYPE has bits [95:80] zero (R116). -/
def immOk (ty : Format) (w : QWord) : Bool := ty.width == 32 || fld w 95 80 == 0

/-- COLS × w within the span of 64 bytes (R105). -/
def spanOk (cols w : Nat) : Bool := decide (cols * w ≤ 512)

/-- The code of the B or C operand at (r, c) under BMODE or CMODE (R116). -/
def modeElem (c : Core) (ty : Format) (mode : Nat) (o : Operand) (imm r col : Nat) : Nat × VFlags :=
  match mode with
  | 0 => readElem c ty false 0 o r col
  | 1 => readElem c ty false 0 o 0 col
  | 2 => readElem c ty false 0 o r 0
  | _ => (imm % 2 ^ ty.width, {})

/-- An element-wise instruction: outputs by position, in a width that is a multiple of 8. -/
def elemFlight (c : Core) (op dst w : Nat) (reads : List Res) (xs : List (Nat × Nat × Nat × VFlags)) : Started :=
  { flight := { op := op, reads := reads, writes := [.vreg dst],
                eff := { vregs := [(dst, writeElems (c.vxe.reg dst) w (xs.map fun x => (x.1, x.2.1, x.2.2.1)))]
                         vflags := orAll (xs.map fun x => x.2.2.2), elems := xs.length } } }

/-- A no-op instruction (R103). -/
def idleFlight (op : Nat) : Started := { flight := { op := op } }

/-- ALU (R112, R113, R117). -/
def aluStart (c : Core) (w : QWord) : Except CtxFault Started := do
  need (decide (fld w 11 8 ≤ 8)) illegalOp
  let ty ← arithType (fld w 15 12)
  let ba := fld w 31 24
  let bb := fld w 39 32
  let bm := fld w 49 48
  need (onlyBits w [(20, 0), (39, 24), (49, 48), (95, 64)] && operandOk ba && operandOk bb && immOk ty w
    && !(bm == 3 && bb != 0)) illegalParam
  if vxeIdle c then return idleFlight 0x14
  let rows := c.vxe.rowsN
  let cols := c.vxe.colsN
  need (spanOk cols ty.width) lenOverFault
  let oa := operandOf ba
  let ob := operandOf bb
  windowCheck c ty oa
  if bm != 3 then windowCheck c ty ob
  let xs := (activeCells rows cols).map fun p =>
    let a := readElem c ty false 0 oa p.1 p.2
    let b := modeElem c ty bm ob (fld w 95 64) p.1 p.2
    let r := aluOp ty (fld w 11 8) a.1 b.1
    (p.1, p.2, r.1, (a.2.or b.2).or r.2)
  return elemFlight c 0x14 (fld w 20 16) ty.width
    (operandRes false ty oa ++ (if bm = 3 then [] else operandRes false ty ob)) xs

/-- FMA (R112, R113). -/
def fmaStart (c : Core) (w : QWord) : Except CtxFault Started := do
  let ty ← arithType (fld w 15 12)
  let ba := fld w 31 24
  let bb := fld w 39 32
  let bc := fld w 47 40
  let bm := fld w 49 48
  let cm := fld w 51 50
  need (onlyBits w [(7, 0), (20, 12), (51, 24), (95, 64)] && operandOk ba && operandOk bb && operandOk bc && immOk ty w
    && !(bm == 3 && bb != 0) && !(cm == 3 && bc != 0) && !(bm == 3 && cm == 3)) illegalParam
  if vxeIdle c then return idleFlight 0x15
  let rows := c.vxe.rowsN
  let cols := c.vxe.colsN
  need (spanOk cols ty.width) lenOverFault
  let oa := operandOf ba
  let ob := operandOf bb
  let oc := operandOf bc
  windowCheck c ty oa
  if bm != 3 then windowCheck c ty ob
  if cm != 3 then windowCheck c ty oc
  let xs := (activeCells rows cols).map fun p =>
    let a := readElem c ty false 0 oa p.1 p.2
    let b := modeElem c ty bm ob (fld w 95 64) p.1 p.2
    let d := modeElem c ty cm oc (fld w 95 64) p.1 p.2
    let r := fmaOp ty a.1 b.1 d.1
    (p.1, p.2, r.1, ((a.2.or b.2).or d.2).or r.2)
  return elemFlight c 0x15 (fld w 20 16) ty.width
    (operandRes false ty oa ++ (if bm = 3 then [] else operandRes false ty ob)
      ++ (if cm = 3 then [] else operandRes false ty oc)) xs

/-- SEL (R117): it moves bits unchanged and sets no arithmetic flag. -/
def selStart (c : Core) (w : QWord) : Except CtxFault Started := do
  let ty ← arithType (fld w 15 12)
  let ba := fld w 31 24
  let bb := fld w 39 32
  let bc := fld w 47 40
  let bm := fld w 49 48
  need (onlyBits w [(7, 0), (20, 12), (49, 24), (95, 64)] && operandOk ba && operandOk bb && operandOk bc && immOk ty w
    && !(bm == 3 && bb != 0)) illegalParam
  if vxeIdle c then return idleFlight 0x16
  let rows := c.vxe.rowsN
  let cols := c.vxe.colsN
  need (spanOk cols ty.width) lenOverFault
  let oa := operandOf ba
  let ob := operandOf bb
  let oc := operandOf bc
  windowCheck c ty oa
  if bm != 3 then windowCheck c ty ob
  windowCheck c ty oc
  let xs := (activeCells rows cols).map fun p =>
    let a := readElem c ty false 0 oa p.1 p.2
    let b := modeElem c ty bm ob (fld w 95 64) p.1 p.2
    let d := readElem c ty false 0 oc p.1 p.2
    (p.1, p.2, (if d.1 != 0 then a.1 else b.1), ({ accInvalid := a.2.accInvalid || b.2.accInvalid || d.2.accInvalid } : VFlags))
  return elemFlight c 0x16 (fld w 20 16) ty.width
    (operandRes false ty oa ++ (if bm = 3 then [] else operandRes false ty ob) ++ operandRes false ty oc) xs

/-- FUNC (R125), at a device feature level. -/
def funcStart (level : Nat) (c : Core) (w : QWord) : Except CtxFault Started := do
  let code := fld w 11 8
  need (decide (code ≤ 12)) illegalOp
  let ty ← arithType (fld w 15 12)
  let ba := fld w 31 24
  need (onlyBits w [(20, 0), (31, 24), (95, 64)] && operandOk ba && immOk ty w
    && !(ty == .int32 && code != 0 && code != 11 && code != 12)) illegalParam
  if vxeIdle c then return idleFlight 0x17
  need (spanOk c.vxe.colsN ty.width) lenOverFault
  let oa := operandOf ba
  windowCheck c ty oa
  let xs := (activeCells c.vxe.rowsN c.vxe.colsN).map fun p =>
    let a := readElem c ty false 0 oa p.1 p.2
    let r := funcOp level ty code a.1
    (p.1, p.2, r.1, a.2.or r.2)
  return elemFlight c 0x17 (fld w 20 16) ty.width (operandRes false ty oa) xs

/-- Flags of a conversion (R121): saturation is CVT_SAT. -/
def cvtFlags (r : RFlags) : VFlags := { ovf := r.ovf, nan := r.nan, cvtSat := r.sat }

/-- emax of R122. -/
def blockEmax (f : Format) : Int := if f = .e3m2 then 4 else 2

/-- R122: the scale byte and the 32 codes of one row, and the flags. -/
def blockScale (f : Format) (vals : List Num) : Nat × List Nat × VFlags :=
  if vals.any fun v => !v.isFin then
    (0xFF, vals.map fun _ => 0, { nan := !(vals.any Num.isNan) })
  else
    let logs := vals.filterMap fun v => match v with
      | .fin _ m e => if m = 0 then none else some ((m.log2 : Int) + e)
      | _ => none
    match logs with
    | [] => (0x7F, vals.map fun _ => 0, {})
    | l :: ls =>
      let top := ls.foldl (fun a b => if a < b then b else a) l
      let want := top - blockEmax f + 127
      let byte : Int := if want < 0 then 0 else if 254 < want then 254 else want
      let codes := vals.map fun v => cvtNum f true (v.scale (127 - byte))
      (byte.toNat, codes.map (·.1), { scaleClamp := byte != want, cvtSat := codes.any fun x => x.2.sat })

/-- Row r of the source of a CVT as exact values with SCALE_EXP applied once (R121, R122, R124). -/
def cvtRow (c : Core) (ty : Format) (pair : Bool) (scale : Int) (o : Operand) (r cols : Nat) : List (Num × VFlags) :=
  let blk := match o with
    | .reg n => if ty.isScaled then regElem (c.vxe.reg n) 8 r 63 else 127
    | .window _ _ _ => 127
  (List.range cols).map fun k =>
    let e := readElem c ty pair scale o r k
    let v := decodeNum ty e.1
    let v := if ty.isScaled then scaled v blk else v
    (if isExactWindow c o then v else v.scale scale, e.2)

/-- CVT (R119 to R124). -/
def cvtStart (c : Core) (w : QWord) : Except CtxFault Started := do
  match Format.ofCode (fld w 15 12), Format.ofCode (fld w 11 8) with
  | some ty, some df =>
    let ba := fld w 31 24
    let pair := bit w 22
    let sat := bit w 21
    let dst := fld w 20 16
    let scale := signed 8 (fld w 59 52)
    need (onlyBits w [(22, 0), (31, 24), (59, 52), (95, 64)] && operandOk ba && immOk ty w
      && !((ty.isScaled || df.isScaled) && !pair)
      && !(pair && ty.width == 32 && !operandEven ba) && !(pair && df.width == 32 && dst % 2 == 1)) illegalParam
    if vxeIdle c then return idleFlight 0x18
    let rows := c.vxe.rowsN
    let cols := c.vxe.colsN
    let oa := operandOf ba
    need (if pair then decide (cols ≤ 32) else spanOk cols ty.width && spanOk cols df.width) lenOverFault
    windowCheck c ty oa
    let rowsV := (List.range rows).map fun r => (r, cvtRow c ty pair scale oa r cols)
    let inFlags := orAll (rowsV.flatMap fun p => p.2.map (·.2))
    if !pair then
      let xs := rowsV.flatMap fun p => ((List.range cols).zip p.2).map fun q =>
        let r := cvtNum df sat q.2.1
        (p.1, q.1, r.1, q.2.2.or (cvtFlags r.2))
      return elemFlight c 0x18 dst df.width (operandRes false ty oa) xs
    else
      let outRows := rowsV.map fun p =>
        let vals := p.2.map (·.1)
        let padded := vals ++ List.replicate (32 - cols) Num.zero
        if df.isScaled then
          let b := blockScale df padded
          (p.1, b.2.1, b.1, b.2.2)
        else
          let xs := vals.map (cvtNum df sat)
          (p.1, xs.map (·.1) ++ List.replicate (32 - cols) 0, 0, orAll (xs.map fun x => cvtFlags x.2))
      let flags := inFlags.or (orAll (outRows.map fun x => x.2.2.2))
      let packRow (codes : List Nat) (wd : Nat) : Nat := codes.foldr (fun x acc => x + 2 ^ wd * acc) 0
      let regs : List (Nat × Mem) :=
        if df.width = 32 then
          [(dst, outRows.foldl (fun m x => memWrLE m (x.1 * 64) 64 (packRow (x.2.1.take 16) 32)) (c.vxe.reg dst)),
           (dst + 1, outRows.foldl (fun m x => memWrLE m (x.1 * 64) 64 (packRow (x.2.1.drop 16) 32)) (c.vxe.reg (dst + 1)))]
        else
          [(dst, outRows.foldl (fun m x => memWrLE m (x.1 * 64) 64 (packRow x.2.1 df.width + 2 ^ 504 * x.2.2.1)) (c.vxe.reg dst))]
      return { flight := { op := 0x18, reads := operandRes true ty oa, writes := regs.map fun p => Res.vreg p.1,
                           eff := { vregs := regs, vflags := flags, elems := rows * cols } } }
  | _, _ => .error illegalOp

/-- The reduction of a list of codes (R126): SUM, SUMSQ, MAX, MIN, the result in the destination width. -/
def redOp (ty : Format) (op : Nat) (xs : List Nat) : Nat × VFlags :=
  if ty = .int32 then
    let vs := xs.map (signed 32)
    match op with
    | 0 => let r := satInt .int32 (vs.foldl (· + ·) 0); (r.1, { intSat := r.2 })
    | 2 => (((vs.drop 1).foldl (fun a b => if a < b then b else a) (vs.headD 0) % ((2 ^ 32 : Nat) : Int)).toNat, {})
    | _ => (((vs.drop 1).foldl (fun a b => if b < a then b else a) (vs.headD 0) % ((2 ^ 32 : Nat) : Int)).toNat, {})
  else
    let vs := xs.map (decodeNum ty)
    match op with
    | 0 => let r := roundNum .fp32 (numSum vs); (r.1, vflagsOf r.2)
    | 1 => let r := roundNum .fp32 (numSum (vs.map fun v => v.mul v)); (r.1, vflagsOf r.2)
    | 2 => let r := roundNum ty ((vs.drop 1).foldl numMax (vs.headD .zero)); (r.1, vflagsOf r.2)
    | _ => let r := roundNum ty ((vs.drop 1).foldl numMin (vs.headD .zero)); (r.1, vflagsOf r.2)

/-- RED (R126). -/
def redStart (c : Core) (w : QWord) : Except CtxFault Started := do
  let op := fld w 11 8
  need (decide (op ≤ 3)) illegalOp
  let ty ← arithType (fld w 15 12)
  need (!(ty == .int32 && op == 1)) illegalOp
  let ba := fld w 31 24
  let axis := bit w 23
  let dst := fld w 20 16
  need (onlyBits w [(20, 0), (23, 23), (31, 24), (95, 64)] && operandOk ba && immOk ty w) illegalParam
  if vxeIdle c then return idleFlight 0x19
  let rows := c.vxe.rowsN
  let cols := c.vxe.colsN
  let dw := if op ≤ 1 then 32 else ty.width
  need (spanOk cols ty.width && (!axis || spanOk cols dw)) lenOverFault
  let oa := operandOf ba
  windowCheck c ty oa
  let el (r k : Nat) : Nat × VFlags := readElem c ty false 0 oa r k
  let xs := if axis then
      (List.range cols).map fun k =>
        let es := (List.range rows).map fun r => el r k
        let v := redOp ty op (es.map (·.1))
        (0, k, v.1, (orAll (es.map (·.2))).or v.2)
    else
      (List.range rows).map fun r =>
        let es := (List.range cols).map fun k => el r k
        let v := redOp ty op (es.map (·.1))
        (r, 0, v.1, (orAll (es.map (·.2))).or v.2)
  return elemFlight c 0x19 dst dw (operandRes false ty oa) xs

/-- SETLEN (R106). -/
def setlenStart (loops : List Loop) (w : QWord) : Except CtxFault Started := do
  let rs := fld w 53 48
  let cs := fld w 62 56
  need (onlyBits w [(7, 0), (53, 16), (62, 56), (69, 64)] && decide (1 ≤ rs) && decide (rs ≤ 32) && decide (1 ≤ cs)
    && decide (cs ≤ 64)) illegalParam
  let ir := if bit w 68 then loopIdx loops (fld w 65 64) else 0
  let ic := if bit w 69 then loopIdx loops (fld w 67 66) else 0
  let rows := min rs (fld w 31 16 - rs * ir)
  let cols := min cs (fld w 47 32 - cs * ic)
  return { flight := { op := 0x10 }, len := some (rows, cols) }

/-- Bytes of a row that LD and ST move (R116). -/
def rowBytes (f : Format) (cols : Nat) : Nat := ceilDiv (cols * f.width) 8

/-- The scratchpad offset of row r (R116). -/
def rowAddr (w : QWord) (i r : Nat) : Nat := addrFld w + (r * strideFld w + i * fld w 127 112) * 64

/-- The checks of LD and ST at issue. -/
def ldstCheck (w : QWord) : Except CtxFault Format :=
  match Format.ofCode (fld w 15 12) with
  | none => .error illegalOp
  | some f =>
    if onlyBits w [(7, 0), (20, 12), (84, 64), (127, 96)] && addrFld w % 64 == 0 && decide (1 ≤ strideFld w) then .ok f
    else .error illegalParam

/-- LD (R116). -/
def vldStart (loops : List Loop) (c : Core) (w : QWord) : Except CtxFault Started := do
  let f ← ldstCheck w
  if vxeIdle c then return idleFlight 0x11
  let rows := c.vxe.rowsN
  let i := loopIdx loops 0
  let n := rowBytes f c.vxe.colsN
  need (spanOk c.vxe.colsN f.width) lenOverFault
  need ((List.range rows).all fun r => spOk c.l1Units.toNat (rowAddr w i r) n) spRangeFault
  let reg := fld w 20 16
  let m := (List.range rows).foldl (fun m r => memWrN m (r * 64) (memRdN c.sp (rowAddr w i r) n)) (c.vxe.reg reg)
  return { flight := { op := 0x11, writes := [.vreg reg],
                       reads := (List.range rows).map fun r => .sp (rowAddr w i r) (rowAddr w i r + n),
                       eff := { vregs := [(reg, m)], elems := rows * c.vxe.colsN } } }

/-- ST (R116). -/
def vstStart (loops : List Loop) (c : Core) (w : QWord) : Except CtxFault Started := do
  let f ← ldstCheck w
  if vxeIdle c then return idleFlight 0x12
  let rows := c.vxe.rowsN
  let i := loopIdx loops 0
  let n := rowBytes f c.vxe.colsN
  need (spanOk c.vxe.colsN f.width) lenOverFault
  need ((List.range rows).all fun r => spOk c.l1Units.toNat (rowAddr w i r) n) spRangeFault
  let m := c.vxe.reg (fld w 20 16)
  let cells := (List.range rows).flatMap fun r => (List.range n).map fun k => (rowAddr w i r + k, memRd m (r * 64 + k))
  return { flight := { op := 0x12, reads := [.vreg (fld w 20 16)],
                       writes := (List.range rows).map fun r => .sp (rowAddr w i r) (rowAddr w i r + n),
                       eff := { sp := cells, elems := rows * c.vxe.colsN } } }

/-- STSLAB (R123). -/
def stslabStart (loops : List Loop) (c : Core) (w : QWord) : Except CtxFault Started := do
  match Format.ofCode (fld w 11 8) with
  | none => .error illegalOp
  | some f =>
    need (decide (fld w 11 8 ≤ 7) && onlyBits w [(12, 0), (20, 16), (84, 64), (127, 112)] && addrFld w % 64 == 0) illegalParam
    let rows := c.vxe.rowsN
    if rows = 0 then return idleFlight 0x13
    let base := addrFld w + loopIdx loops 0 * fld w 127 112 * 64
    let half := fld w 12 12
    let l := laneSize f false
    let m := c.vxe.reg (fld w 20 16)
    let lane (r : Nat) : Nat := base + (32 * half + r) * l
    let sc (r : Nat) : Nat := base + 64 * l + 32 * half + r
    need ((List.range rows).all fun r => spOk c.l1Units.toNat (lane r) l && (!f.isScaled || spOk c.l1Units.toNat (sc r) 1)) spRangeFault
    let cells := (List.range rows).flatMap fun r =>
      ((List.range l).map fun k => (lane r + k, memRd m (r * 64 + k)))
        ++ (if f.isScaled then [(sc r, memRd m (r * 64 + 63))] else [])
    return { flight := { op := 0x13, reads := [.vreg (fld w 20 16)],
                         writes := [.sp (lane 0) (lane 0 + rows * l)] ++ (if f.isScaled then [.sp (sc 0) (sc 0 + rows)] else []),
                         eff := { sp := cells, elems := rows * 32 } } }

/-- The flags of VXE_STATUS as a word with BUSY 0 (R129, R130). -/
def vstatWord (f : VFlags) : Nat :=
  pack [(25, 0), (1, b2n f.accInvalid), (1, b2n f.scaleClamp), (1, b2n f.cvtSat), (1, b2n f.intSat), (1, b2n f.ovf),
    (1, b2n f.nan), (1, 0)]

/-- VSTAT (R130). -/
def vstatStart (c : Core) (w : QWord) : Except CtxFault Started := do
  let a := addrFld w
  need (onlyBits w [(7, 0), (16, 16), (84, 64)] && a % 4 == 0) illegalParam
  need (spOk c.l1Units.toNat a 4) spRangeFault
  let cells := ((List.range 4).zip (leBytes 4 (vstatWord c.vxe.flags))).map fun q => (a + q.1, q.2)
  return { flight := { op := 0x1A, writes := [.sp a (a + 4)], eff := { sp := cells } }, alone := true, vclear := bit w 16 }

end Sys2Proof.Machine
end

