-- ==== Sys2Proof/Machine/SeqOps.lean ====
section
/-! DEFINITION. The sequencer's shared operations: issuing the head of a queue (R40, R43, R51), loops (R45), semaphore
grants (R47), completion of earlier instructions (R44), waits on counter cells (R174, R503). -/

namespace Sys2Proof.Machine

/-- Leave finished loop bodies (R45). -/
def settleLoops : Nat → Nat → List Loop → Nat × List Loop
  | 0, pos, ls => (pos, ls)
  | _ + 1, pos, [] => (pos, [])
  | n + 1, pos, l :: ls =>
    if pos = l.start + l.body then
      if l.idx + 1 < l.count then (l.start, { l with idx := l.idx + 1 } :: ls) else settleLoops n pos ls
    else (pos, l :: ls)

/-- Go on to the instruction at a position. -/
def Queue.goto (q : Queue) (pos : Nat) (ls : List Loop) : Queue :=
  let r := settleLoops 5 pos ls
  { q with pos := r.1, loops := r.2, hold := .none, watch := none, notice := false, asked := false }

/-- The instruction at the head has issued; the next one follows. -/
def Queue.advance (q : Queue) : Queue := { q.goto (q.pos + 1) q.loops with seq := q.seq + 1 }

/-- The instruction at the head, if the queue may issue it now. -/
def Queue.head (q : Queue) : Option QWord :=
  if q.ended || !(q.hold == .none || q.hold == .full) then none
  else if q.len ≤ q.pos then none
  else tabGet? q.buf q.pos

/-- Iteration index of the innermost loop (R42). -/
def Queue.iter (q : Queue) : Nat := loopIdx q.loops 0

/-- The opcodes defined in a queue (R42, R63, R81, R103, R134). -/
def definedOp (e : Eng) (op : Nat) : Bool :=
  decide (op ≤ 6) ||
  (match e with
   | .mxe => decide (0x10 ≤ op) && decide (op ≤ 0x16)
   | .vxe => decide (0x10 ≤ op) && decide (op ≤ 0x1A)
   | .tge | .cpe0 | .cpe1 => op == 0x10)

def State.queue (s : State) (n : Nat) (e : Eng) : Queue := (s.core n).queue e

def State.setQueue (s : State) (n : Nat) (e : Eng) (q : Queue) : State := s.modCore n fun c => c.setQueue e q

def State.modQueue (s : State) (n : Nat) (e : Eng) (f : Queue → Queue) : State := s.setQueue n e (f (s.queue n e))

/-- Issue the head of a queue if it is the named instruction. An undefined opcode there is the fault of R43, whichever
instruction was expected; another instruction, or none, leaves the state as it is. -/
def State.issueOp (s : State) (n : Nat) (e : Eng) (op : Nat) (f : QWord → State) : State :=
  if !s.issues n then s
  else
    match (s.queue n e).head with
    | none => s
    | some w =>
      if !definedOp e (opcode w) then s.faultCtx n e illegalOp
      else if opcode w ≠ op then s
      else f w

/-- Has every instruction of a queue before the one numbered seq completed (R44)? -/
def Queue.clearBefore (q : Queue) (seq : Nat) : Bool :=
  q.flights.all (fun f => decide (seq ≤ f.seq)) && q.sigs.all (fun x => decide (seq ≤ x.seq))

/-! Activity counters (R418): 0 to 3 slabs by rate class in FP32 mode, 4 to 7 in exact mode, 8 VXE elements, 9 thread
instructions, 10 to 14 local-array bytes by port, 15 CPE bytes. -/

def Core.bump (c : Core) (k n : Nat) : Core := { c with counts := zSet c.counts k (zGet c.counts k + n) }

/-! Semaphores (R46, R47). -/

def Core.sem (c : Core) (k : Nat) : Nat := zGet c.sems k

/-- The order in which takes on a semaphore are tested. -/
def grantOrder (last : Nat) : List Eng :=
  Eng.all.filter (fun e => decide (last < e.num)) ++ Eng.all.filter (fun e => decide (e.num ≤ last))

/-- The fields of a held WAIT: SEM, TAKE, VALUE. -/
def heldWait (c : Core) (e : Eng) : Option (Nat × Bool × Nat) :=
  let q := c.queue e
  if q.hold = .wait then (tabGet? q.buf q.pos).map fun w => (fld w 12 8, bit w 13, fld w 47 16) else none

/-- A releasing WAIT or WAITMEM drops the descriptors that a CPE has cached by scratchpad offset (R163). -/
def Core.dropCached (c : Core) (e : Eng) : Core :=
  let f (x : Cpe) : Cpe := { x with cache := x.cache.filter fun k => k.1 }
  match e with
  | .cpe0 => { c with cpe0 := f c.cpe0 }
  | .cpe1 => { c with cpe1 := f c.cpe1 }
  | _ => c

/-- Release a queue from its WAIT or WAITMEM. -/
def Core.release (c : Core) (e : Eng) : Core := (c.setQueue e (c.queue e).advance).dropCached e

/-- One semaphore's waits tested (R47): those without TAKE against the value as it is, those with TAKE one after another
in the round-robin order. -/
def Core.grant (c : Core) (k : Nat) : Core :=
  let v := c.sem k
  let plain := Eng.all.filter fun e => match heldWait c e with
    | some (k', false, x) => k' == k && decide (x ≤ v)
    | _ => false
  let order := grantOrder (tabGet 4 c.granted k)
  let c := order.foldl (fun c e => match heldWait c e with
    | some (k', true, x) =>
      if k' = k && decide (x ≤ c.sem k) then
        ({ c with sems := zSet c.sems k (c.sem k - x), granted := tabSet c.granted k e.num }).release e
      else c
    | _ => c) c
  plain.foldl Core.release c

/-! Counter cells (R174). -/

/-- The threshold of the WAITMEM at the head: VALUE + STEP × I. -/
def waitmemThreshold (q : Queue) (w : QWord) : Nat := (fld w 103 64 + fld w 127 104 * q.iter) % 2 ^ 64

/-- A scratchpad counter has changed: held WAITMEMs on scratchpad test again (R503). -/
def Core.wakeSp (c : Core) : Core :=
  Eng.all.foldl (fun c e =>
    let q := c.queue e
    if q.hold = .waitmem then
      match tabGet? q.buf q.pos with
      | some w => if !bit w 8 && decide (waitmemThreshold q w ≤ memRdLE c.sp (fld w 63 16) 8) then c.release e else c
      | none => c
    else c) c

/-- Write scratchpad bytes and test the waits on them. -/
def Core.spWrite (c : Core) (off : Nat) (bs : List Byte) : Core := ({ c with sp := memWrN c.sp off bs }).wakeSp

/-- Reference time until which a wait with TIMEOUT_EXP may stand (R49). -/
def timeoutAt (now exp : Nat) : Nat := now + 2 ^ exp * 1000

/-- Has every write of a queue to a partner die been answered (R277)? -/
def State.outboundClear (s : State) (n q : Nat) : Bool :=
  s.links.sites.all fun x => x.2.outbound.all fun o => !(o.req.writes && o.req.tag.core == some n && o.req.tag.queue == q)

/-- The writes of a queue for which a FENCE of a scope still waits (R165, R220). Scope 0: those without COMP; scope 1:
those without INV_DONE, and those to a partner die without answer; scope 2: also those without acknowledgement from another device. -/
def State.fenceClear (s : State) (n : Nat) (e : Eng) (scope : Nat) : Bool :=
  let mine := s.cache.writes.filter fun w => w.core == some n && w.queue == e.num
  let local_ := if scope = 0 then mine.all (·.comp) else mine.isEmpty && s.outboundClear n e.num
  let remote := scope < 2 || (s.fab.tracker.all fun o => !(o.core == n && o.queue == e.num && lineRd o.hdr 0 1 != 1))
  local_ && remote

/-- What a stop of an engine's access does to its queue: a context fault, or an end that leaves the core stopped until
the recovery of the fault on its way (R230, R243); a busy line leaves everything for a later try. -/
def State.stopped (s : State) (n : Nat) (e : Eng) (x : Stop) : State :=
  match x with
  | .fault f => s.faultCtx n e f
  | .busy => s
  | .faulted => s.modCore n fun c => { c with stopped := true, lastStatus := BitVec.ofNat 8 Status.faulted.code }

end Sys2Proof.Machine
end

