-- ==== Sys2Proof/Machine/TgeOps.lean ====
section
/-! DEFINITION. Thread groups: the issue checks (R139), lane registers (R132, R133), arithmetic (R140), paths (R144 to
R147) and the group tile multiply (R151), as functions of a group. -/

namespace Sys2Proof.Machine

/-! Fields of a thread instruction (R137). -/

def tOp (w : DWord) : Nat := fld w 7 0
def tD (w : DWord) : Nat := fld w 15 8
def tA (w : DWord) : Nat := fld w 23 16
def tB (w : DWord) : Nat := fld w 31 24
def tC (w : DWord) : Nat := fld w 39 32
def tImm (w : DWord) : Nat := fld w 63 32
def tScope (w : DWord) : Nat := fld w 41 40
def tOrder (w : DWord) : Nat := fld w 43 42
def tSize (w : DWord) : Nat := 2 ^ fld w 45 44
def tLastUse (w : DWord) : Bool := bit w 46
def tVa (w : DWord) : Bool := bit w 47
def tOffset (w : DWord) : Int := signed 16 (fld w 63 48)
def tTarget (w : DWord) : Int := signed 16 (fld w 47 32)
def tJoin (w : DWord) : Int := signed 16 (fld w 63 48)

/-- The forms of thread instructions, by which bits and registers they use (R137, R138). -/
inductive TForm where
  | plain | branch | two | pair | three | addi | movi | cvt | func | vote | load | atomic | cas | fence | grpmul
deriving DecidableEq, Repr

/-- The form of an opcode; none for a reserved one (R138). -/
def tForm (op : Nat) : Option TForm :=
  if op = 0x00 || op == 0x01 || op == 0x42 then some .plain
  else if op = 0x02 || op == 0x03 then some .branch
  else if 0x10 ≤ op && decide (op ≤ 0x1B) then some .two
  else if op = 0x1C then some .pair
  else if op = 0x1D then some .addi
  else if op = 0x1E then some .movi
  else if op = 0x1F || op == 0x23 then some .three
  else if 0x20 ≤ op && decide (op ≤ 0x27) then some .two
  else if op = 0x28 then some .cvt
  else if op = 0x29 then some .func
  else if op = 0x30 || op == 0x31 then some .load
  else if op = 0x3C then some .cas
  else if 0x38 ≤ op && decide (op ≤ 0x3D) then some .atomic
  else if op = 0x3F then some .fence
  else if op = 0x40 then some .vote
  else if op = 0x41 then some .two
  else if op = 0x48 then some .grpmul
  else none

/-- The bits that a form names (R137, R139). -/
def tBits : TForm → List (Nat × Nat)
  | .plain => [(7, 0)]
  | .branch => [(7, 0), (23, 16), (63, 32)]
  | .two => [(31, 0)]
  | .pair => [(31, 0)]
  | .three => [(39, 0)]
  | .addi => [(23, 0), (63, 32)]
  | .movi => [(15, 0), (63, 32)]
  | .cvt => [(23, 0), (40, 32)]
  | .func => [(23, 0), (35, 32)]
  | .vote => [(23, 0), (33, 32)]
  | .load => [(23, 0), (63, 40)]
  | .atomic => [(31, 0), (63, 40)]
  | .cas => [(39, 0), (63, 40)]
  | .fence => [(7, 0), (43, 40)]
  | .grpmul => [(43, 0)]

/-- Source registers, single and pairs, of an instruction (R137, R142). -/
def tSources (f : TForm) (w : DWord) : List Nat :=
  let wide := tSize w == 8
  let reg (r : Nat) : List Nat := if wide then [r, r + 1] else [r]
  let addr := if tVa w then [tA w, tA w + 1] else [tA w]
  match f with
  | .plain | .fence | .movi => []
  | .branch | .addi | .cvt | .func | .vote => [tA w]
  | .two => [tA w, tB w]
  | .pair => [tA w, tA w + 1, tB w, tB w + 1]
  | .three => [tA w, tB w, tC w]
  | .load => addr ++ (if tOp w = 0x31 then reg (tD w) else [])
  | .atomic => addr ++ reg (tB w)
  | .cas => addr ++ reg (tB w) ++ reg (tC w)
  | .grpmul => [tA w, tB w] ++ (if tC w = 0 then [] else (List.range 8).map (tC w + ·))

/-- The register checks of R139: every register below T, pairs even and not s0. -/
def tRegsOk (f : TForm) (w : DWord) (t : Nat) : Bool :=
  let single (r : Nat) : Bool := decide (r < t)
  let pr (r : Nat) : Bool := r % 2 == 0 && r != 0 && decide (r + 1 < t)
  let data (r : Nat) : Bool := if tSize w = 8 then pr r else single r
  let addr := if tVa w then pr (tA w) else single (tA w)
  match f with
  | .plain | .fence => true
  | .branch => single (tA w)
  | .two => single (tD w) && single (tA w) && single (tB w)
  | .pair => pr (tD w) && pr (tA w) && pr (tB w)
  | .three => single (tD w) && single (tA w) && single (tB w) && single (tC w)
  | .addi | .cvt | .func | .vote => single (tD w) && single (tA w)
  | .movi => single (tD w)
  | .load => data (tD w) && addr
  | .atomic => data (tD w) && addr && data (tB w)
  | .cas => data (tD w) && addr && data (tB w) && data (tC w)
  | .grpmul => single (tA w) && single (tB w) && decide (tD w + 7 < t) && (tC w == 0 || decide (tC w + 7 < t))

/-- A format code of the thread CVT (R140). -/
def tCvtFormat (code : Nat) : Option Format :=
  if code ≤ 4 || code == 8 || code == 9 then Format.ofCode code else none

/-- R139: the checks made when a thread instruction issues. -/
def tCheck (t : Nat) (w : DWord) : Except CtxFault TForm :=
  match tForm (tOp w) with
  | none => .error illegalOp
  | some f =>
    let codesOk := match f with
      | .cvt => (tCvtFormat (fld w 35 32)).isSome && (tCvtFormat (fld w 39 36)).isSome
      | .func => decide (fld w 35 32 ≤ 12)
      | .grpmul => decide (fld w 43 40 ≤ 3)
      | _ => true
    let o := tOrder w
    let paramsOk := onlyBits w (tBits f) && tRegsOk f w t && (match f with
      | .vote => fld w 33 32 != 3
      | .fence => o != 0
      | .load => (if tOp w = 0x31 then o % 2 == 0 else decide (o < 2)) && !(tLastUse w && !tVa w)
      | .atomic => !(tLastUse w && !tVa w) && !(tOp w == 0x3D && tSize w != 4)
      | .cas => !(tLastUse w && !tVa w)
      | _ => true)
    if !codesOk then .error illegalOp else if !paramsOk then .error illegalParam else .ok f

/-! Lane registers (R132, R133). -/

def Group.reg (g : Group) (lane r : Nat) : Nat := if r = 0 then 0 else zGet g.regs (256 * lane + r)

def Group.setReg (g : Group) (lane r v : Nat) : Group :=
  if r = 0 then g else { g with regs := zSet g.regs (256 * lane + r) (v % 2 ^ 32) }

def Group.pair (g : Group) (lane r : Nat) : Nat := g.reg lane r + 2 ^ 32 * g.reg lane (r + 1)

def Group.setPair (g : Group) (lane r v : Nat) : Group := (g.setReg lane r v).setReg lane (r + 1) (v / 2 ^ 32)

/-- Write a result of 1, 2, 4 or 8 bytes (R152): narrow ones zero-extended, 8 bytes as a pair. -/
def Group.setSized (g : Group) (lane r size v : Nat) : Group :=
  if size = 8 then g.setPair lane r v else g.setReg lane r (v % 2 ^ (8 * size))

def Group.getSized (g : Group) (lane r size : Nat) : Nat :=
  if size = 8 then g.pair lane r else g.reg lane r % 2 ^ (8 * size)

/-- The running path stands first. -/
def Group.run (g : Group) : Path := g.paths.headD {}

def lanesOf (m : BitVec 32) : List Nat := (List.range 32).filter fun l => m.getLsbD l

def Group.active (g : Group) : List Nat := lanesOf g.run.mask

/-- A converged group (R149). -/
def Group.converged (g : Group) : Bool := g.run.mask == ~~~g.exited

/-! Arithmetic (R140). -/

/-- The result of a two-source integer or FP32 instruction. -/
def tTwo (op a b : Nat) : Nat :=
  let f (x : Num) : Nat := toFp32 x
  let x := ofFp32 a
  let y := ofFp32 b
  match op with
  | 0x10 => (a + b) % 2 ^ 32
  | 0x11 => (2 ^ 32 - b + a) % 2 ^ 32
  | 0x12 => (a * b) % 2 ^ 32
  | 0x13 => (a * b) / 2 ^ 32
  | 0x14 => a &&& b
  | 0x15 => a ||| b
  | 0x16 => a ^^^ b
  | 0x17 => (a <<< (b % 32)) % 2 ^ 32
  | 0x18 => a >>> (b % 32)
  | 0x19 => ((signed 32 a >>> (b % 32)) % ((2 ^ 32 : Nat) : Int)).toNat
  | 0x1A => b2n (decide (signed 32 a < signed 32 b))
  | 0x1B => b2n (decide (a < b))
  | 0x20 => f (x.add y)
  | 0x21 => f (x.add y.neg)
  | 0x22 => f (x.mul y)
  | 0x24 => f (numMin x y)
  | 0x25 => f (numMax x y)
  | 0x26 => b2n (Num.lt x y)
  | _ => b2n (Num.eq x y)

/-- Conversion of a thread (R121, R140). -/
def tCvt (w : DWord) (a : Nat) : Nat :=
  match Format.ofCode (fld w 35 32), Format.ofCode (fld w 39 36) with
  | some src, some dst => (cvtNum dst (bit w 40) (decodeNum src a)).1
  | _, _ => 0

/-- Apply a function of a lane's registers to every active lane, all operands read first (a lane writes only its own
registers). -/
def Group.mapLanes (g : Group) (f : Group → Nat → Group) : Group := g.active.foldl f g

/-! Paths (R144 to R147). -/

/-- The path of least age among those that satisfy p. -/
def oldest (p : Path → Bool) (ps : List Path) : Option Path :=
  ps.foldl (fun best x => if p x then (match best with
    | none => some x
    | some b => if x.age < b.age then some x else some b) else best) none

/-- Make a path (named by its mask) the running one. -/
def toFront (m : BitVec 32) (ps : List Path) : List Path := ps.filter (fun p => p.mask == m) ++ ps.filter (fun p => p.mask != m)

def runOldest (g : Group) : Group :=
  match oldest (fun p => !p.parked) g.paths with
  | none => g
  | some p => { g with paths := toFront p.mask g.paths }

/-- The merge of R146: lanes united, J popped, oldest age, count 0. -/
def mergePaths (p : Path) (qs : List Path) : Path :=
  { p with mask := qs.foldl (fun m q => m ||| q.mask) p.mask
           age := qs.foldl (fun a q => if q.age < a then q.age else a) p.age
           back := 0, joins := p.joins.drop 1, parked := false }

/-- What happens when the running path stands at its top join address (R146), repeated for the path that runs next. -/
def settle : Nat → Group → Group
  | 0, g => g
  | n + 1, g =>
    match g.paths with
    | [] => g
    | p :: rest =>
      match p.joins with
      | [] => g
      | j :: _ =>
        if p.parked || p.pc != j then g
        else if rest.any fun q => q.joins == p.joins && !q.parked then
          settle n (runOldest { g with paths := { p with parked := true } :: rest })
        else
          let mates := rest.filter fun q => q.parked && q.joins == p.joins
          let others := rest.filter fun q => !(q.parked && q.joins == p.joins)
          settle n { g with paths := mergePaths p mates :: others }

/-- The next instruction of the running path. -/
def Group.step (g : Group) : Group :=
  match g.paths with
  | [] => g
  | p :: rest => settle 40 { g with paths := { p with pc := (p.pc + 8) % 2 ^ 48 } :: rest }

/-- A store or atomic retires on the running path (R147). -/
def Group.retire (g : Group) : Group :=
  match g.paths with
  | [] => g
  | p :: rest => { g with paths := { p with back := 0 } :: rest }

/-- A signed instruction offset from a branch (R137). -/
def branchTo (pc : Nat) (off : Int) : Nat := (((pc : Int) + 8 * off) % ((2 ^ 48 : Nat) : Int)).toNat

/-- A branch taken by the lanes of a mask (R145, R147); none when the join stack would overflow. -/
def Group.branch (g : Group) (taken : BitVec 32) (w : DWord) : Option Group :=
  match g.paths with
  | [] => some g
  | p :: rest =>
    let t := branchTo p.pc (tTarget w)
    let back := if t ≤ p.pc then 1 else 0
    let notTaken := p.mask &&& ~~~taken
    if taken = 0 then some g.step
    else if notTaken = 0 then some (settle 40 { g with paths := { p with pc := t, back := p.back + back } :: rest })
    else
      let j := branchTo p.pc (tJoin w)
      let joins := if p.joins.head? = some j then p.joins else j :: p.joins
      if 16 < joins.length then none
      else
        let fall : Path := { p with pc := (p.pc + 8) % 2 ^ 48, mask := notTaken, joins := joins }
        let jump : Path := { p with pc := t, mask := taken, joins := joins, back := p.back + back, age := g.nextPathAge }
        some (settle 40 (runOldest { g with paths := fall :: (rest ++ [jump]), nextPathAge := g.nextPathAge + 1 }))

/-- Parked paths whose siblings have gone merge and continue (R146, at EXIT). -/
def unpark : Nat → List Path → List Path
  | 0, ps => ps
  | n + 1, ps =>
    match ps.find? fun p => p.parked && !(ps.any fun q => !q.parked && q.joins == p.joins) with
    | none => ps
    | some p =>
      let same (q : Path) : Bool := q.parked && q.joins == p.joins
      unpark n (mergePaths p (ps.filter same) :: ps.filter fun q => !same q)

/-- EXIT (R146): the active lanes end and the path is removed. -/
def Group.exit (g : Group) : Group :=
  match g.paths with
  | [] => g
  | p :: rest => settle 40 (runOldest { g with exited := g.exited ||| p.mask, paths := unpark 32 rest })

/-- Has a path of the group a backward-branch count of 64 (R147)? -/
def Group.due (g : Group) : Option Path := g.paths.find? fun p => decide (64 ≤ p.back)

/-- PATH_ROTATION (R147): the path yields to the oldest other path, which leaves its join address if parked. -/
def Group.rotate (g : Group) (p : Path) : Group :=
  let clear (q : Path) : Path := if q.mask = p.mask then { q with back := 0 } else q
  let ps := g.paths.map clear
  match oldest (fun q => q.mask != p.mask) ps with
  | none => { g with paths := ps }
  | some q =>
    let wake (x : Path) : Path := if x.mask = q.mask && x.parked then { x with parked := false, joins := x.joins.drop 1 } else x
    settle 40 { g with paths := toFront q.mask (ps.map wake) }

/-- GRPMUL (R151): the eight results of a lane from the tiles at two scratchpad offsets. -/
def grpmulLane (sp : Mem) (f : Format) (a b : Nat) (g : Group) (w : DWord) (lane : Nat) : List Nat :=
  let k := 512 / f.width
  let el (base i : Nat) : List Num :=
    let raw := memRdLE sp (base + 64 * i) 64
    (List.range k).map fun n => decodeNum f ((raw >>> (n * f.width)) % 2 ^ f.width)
  let bcol := el b (lane % 16)
  (List.range 8).map fun r =>
    let c := if tC w = 0 then Num.zero else ofFp32 (g.reg lane (tC w + r))
    toFp32 (c.add (numSum (((el a (8 * (lane / 16) + r)).zip bcol).map fun p => p.1.mul p.2)))

/-- A group as it starts (R133, R144). -/
def startGroup (t : TStart) (idx core age : Nat) : Group :=
  let base : Group := { ts := t.id, idx := idx, age := age,
                        paths := [{ pc := t.pc, mask := 0xFFFFFFFF#32, age := 0 }] }
  (List.range 32).foldl (fun g l => (((g.setReg l 1 l).setReg l 2 idx).setReg l 3 t.arg).setReg l 4 core) base

end Sys2Proof.Machine
end

