-- ==== Sys2Proof/Machine/Remote.lean ====
section
/-! DEFINITION. What an answer from another device or from a partner die does where it arrives (R197, R205, R278, R323 to
R327). -/

namespace Sys2Proof.Machine

def State.modGroup (s : State) (n slot : Nat) (f : Group → Group) : State :=
  s.modCore n fun c => match tabGet? c.tge.groups slot with
    | none => c
    | some g => { c with tge := { c.tge with groups := tabSet c.tge.groups slot (f g) } }

/-- The registers of a load's result are pending no longer. -/
def Group.arrive (g : Group) (lane reg : Nat) : Group :=
  { g with pend := g.pend.filter fun p => !(p.1 == lane && (p.2 == reg || p.2 == reg + 1)) }

def Core.cpeOf (c : Core) (k : Nat) : Cpe := if k = 0 then c.cpe0 else c.cpe1

def Core.setCpe (c : Core) (k : Nat) (x : Cpe) : Core := if k = 0 then { c with cpe0 := x } else { c with cpe1 := x }

def cpeEng (k : Nat) : Eng := if k = 0 then .cpe0 else .cpe1

def State.modCopy (s : State) (n k id : Nat) (f : Copy → Copy) : State :=
  s.modCore n fun c =>
    let x := c.cpeOf k
    c.setCpe k { x with copies := x.copies.map fun y => if y.id = id then f y else y }

/-- Bytes put into a list at a place. -/
def patch (bs : List Byte) (off : Nat) (new : List Byte) : List Byte := bs.take off ++ new ++ bs.drop (off + new.length)

/-- CPE_RED_STATUS and FLAGS2 of a response (R210, R322): FP_OVF in bit 3, FP_NAN, EXACT_INVALID, EXACT_RANGE in bit 0. -/
def RedFlags.word (f : RedFlags) : Nat := b2n f.range + 2 * b2n f.invalid + 4 * b2n f.nan + 8 * b2n f.ovf

def RedFlags.ofWord (w : Nat) : RedFlags := ⟨w.testBit 3, w.testBit 2, w.testBit 1, w.testBit 0⟩

/-- The flags of an acknowledged reduction at its core (R205). -/
def State.takeFlags (s : State) (n k : Nat) (f : RedFlags) : State :=
  let s := s.modCore n fun c => { c with redStatus := c.redStatus ||| BitVec.ofNat 4 f.word }
  if f.range && (s.ctx (s.core n).context.toNat).exactFault && !(s.core n).stopped then
    s.faultCtx n (cpeEng k) (mkFault .exactRangeCpe .faulted)
  else s

/-- Response data arrives; a re-read of a dead line is the context's fault if it asked for it (R197). -/
def State.deliver (s : State) (dest : RemoteDest) (addr : Nat) (data : List Byte) (reread : Bool) : State :=
  let faults (n : Nat) (e : Eng) (s : State) (ok : State) : State :=
    if reread && (s.ctx (s.core n).context.toNat).deadFault then
      if (s.core n).stopped then s else s.faultCtx n e (mkFault .deadReread .faulted)
    else ok
  match dest with
  | .regs n slot lane reg size =>
    let s := s.modGroup n slot fun g => g.arrive lane reg
    faults n .tge s (s.modGroup n slot fun g =>
      if g.did.contains (lane, none) then { g with did := g.did.map fun d => if d.1 = lane then (lane, some (leVal data)) else d }
      else g.setSized lane reg size (leVal data))
  | .copyRead n k id off =>
    let s := s.modCopy n k id fun y => { y with owed := y.owed - 1 }
    faults n (cpeEng k) s (s.modCopy n k id fun y => { y with data := patch y.data off data })
  | .buffer owner => { s with fab := { s.fab with arrived := s.fab.arrived ++ [(owner, addr, data)] } }
  | _ => s

/-- An acknowledgement arrives, with a reduction's flags. -/
def State.acked (s : State) (dest : RemoteDest) (f : RedFlags) : State :=
  match dest with
  | .copyWrite n k id => (s.modCopy n k id fun y => { y with owed := y.owed - 1 }).takeFlags n k f
  | .copyAdd n k id => s.modCopy n k id fun y => { y with owed := y.owed - 1 }
  | .stream g k bytes =>
    let x := s.sched g
    s.setSched g { x with str := tabMod {} x.str k fun y => { y with written := y.written + bytes } }
  | .streamAdd g k =>
    let x := s.sched g
    s.setSched g { x with str := tabMod {} x.str k fun y =>
      match y.adding with
      | some v => { y with added := v, adding := none }
      | none => y }
  | _ => s

/-- A request that ends with a context fault on its queue (R278, R326). -/
def State.refused (s : State) (n q : Nat) (f : CtxFault) : State :=
  if 576 ≤ n then s
  else match Eng.all.find? fun e => e.num == q with
    | none => s
    | some e => if (s.core n).stopped || !(s.core n).resident then s else s.faultCtx n e f

end Sys2Proof.Machine
end

