-- ==== Sys2Proof/Machine/CpeOps.lean ====
section
/-! DEFINITION. Copy descriptors (R64 to R68, R331 to R335): their fields and checks, and how their bytes are read, written
and counted, as far as their targets allow at the moment. -/

namespace Sys2Proof.Machine

/-! Fields (R64). -/

def dOp (d : Line) : Nat := byteFld d 0x00 1
def dLastUse (d : Line) : Bool := (byteFld d 0x01 1).testBit 0
def dUnit (d : Line) : Bool := (byteFld d 0x01 1).testBit 1
def dSrcKind (d : Line) : Nat := byteFld d 0x02 1 % 16
def dDstKind (d : Line) : Nat := byteFld d 0x02 1 / 16
def dFmt (d : Line) : Nat := byteFld d 0x03 1
def dSrc (d : Line) : Nat := byteFld d 0x08 8
def dDst (d : Line) : Nat := byteFld d 0x10 8
def dLen (d : Line) : Nat := byteFld d 0x2C 4
def dCtr (d : Line) : Nat := byteFld d 0x30 8
def dCtrKind (d : Line) : Nat := byteFld d 0x38 1

/-- One side's shape: address, row bytes, stride, rows. -/
structure Shape where
  addr   : Nat
  row    : Nat
  stride : Nat
  rows   : Nat
deriving DecidableEq, Repr

def dSrcShape (d : Line) : Shape := ⟨dSrc d, byteFld d 0x18 4, byteFld d 0x20 4, byteFld d 0x28 2⟩
def dDstShape (d : Line) : Shape := ⟨dDst d, byteFld d 0x1C 4, byteFld d 0x24 4, byteFld d 0x2A 2⟩

/-- The address of byte j (R65). -/
def Shape.at_ (x : Shape) (j : Nat) : Nat := x.addr + j / x.row * x.stride + j % x.row

/-- The runs of a transfer of len bytes: address and length. -/
def Shape.runs (x : Shape) (len : Nat) : List (Nat × Nat) :=
  if x.row = 0 then []
  else (List.range (ceilDiv len x.row)).map fun i => (x.addr + i * x.stride, min x.row (len - i * x.row))

/-- The runs of the whole declared shape. -/
def Shape.whole (x : Shape) : List (Nat × Nat) := (List.range x.rows).map fun i => (x.addr + i * x.stride, x.row)

def runsMeet (as bs : List (Nat × Nat)) : Bool :=
  as.any fun a => bs.any fun b => decide (a.1 < b.1 + b.2) && decide (b.1 < a.1 + a.2)

/-- Element size of a RED_FMT (R67). -/
def redSize (fmt : Nat) : Nat := if fmt = 0 then 4 else if fmt = 1 then 2 else 16

def redAtom (fmt : Nat) : AtomOp := if fmt = 0 then .redFp32 else if fmt = 1 then .redBf16 else .redExact

/-! Streams (R331, R332). -/

/-- Schedules in state 3 or 4 that hold a stream, with its record. -/
def State.streamRecs (s : State) (k : Nat) : List (Nat × StreamRec) :=
  (List.range 4).flatMap fun g =>
    let x := s.sched g
    if x.state = 3 || x.state == 4 then (x.streams.filter fun r => r.stream == k).map fun r => (g, r) else []

/-- The schedule and record of a stream that belongs to a context. -/
def State.stream? (s : State) (ctx k : Nat) : Option (Nat × StreamRec) := (s.streamRecs k).find? fun p => p.2.context == ctx

/-- Does a record name this core and CPE for its side (R332)? -/
def StreamRec.names (r : StreamRec) (source : Bool) (core cpe : Nat) : Bool :=
  if source then r.role.getLsbD 0 && r.srcCore == core && (b2n (r.cpes.getLsbD 0)) == cpe
  else r.role.getLsbD 1 && r.sinkCore == core && (b2n (r.cpes.getLsbD 4)) == cpe

/-! The checks (R66, R67, R332). -/

/-- The checks of the fields alone: everything under BAD_PARAM but what a remote destination asks of the counter. -/
def dParams (l1 : Nat) (d : Line) : Bool :=
  let src := dSrcShape d
  let dst := dDstShape d
  let len := dLen d
  let sk := dSrcKind d
  let dk := dDstKind d
  let fill := dOp d == 2
  let red := dOp d == 3
  let z := redSize (dFmt d)
  let shaped (k : Nat) : Bool := decide (k < 2)
  let sideOk (k : Nat) (x : Shape) : Bool :=
    !shaped k || (x.row != 0 && x.rows != 0 && decide (len ≤ x.row * x.rows)
      && (k == 1 || x.whole.all fun r => spOk l1 r.1 r.2))
  let streamOk (k a : Nat) : Bool := k != 2 || (a / 2 ^ 16 == 0 && len % 64 == 0)
  let spRuns (k : Nat) (x : Shape) : List (Nat × Nat) := if k = 0 then x.runs len else []
  decide (byteFld d 0x01 1 < 4) && byteFld d 0x04 4 == 0 && byteFld d 0x39 3 == 0
    && (if red then decide (dFmt d ≤ 2) else dFmt d == 0)
    && decide (sk ≤ 3) && decide (dk ≤ 2) && ((sk == 3) == fill) && (!red || dk == 1)
    && (!fill || (dSrc d / 2 ^ 32 == 0 && src.row == 0 && src.stride == 0 && src.rows == 0))
    && sideOk sk src && sideOk dk dst && streamOk sk (dSrc d) && streamOk dk (dDst d)
    && (!shaped dk || dst.rows ≤ 1 || decide (dst.row ≤ dst.stride))
    && (!red || (len % z == 0 && dst.addr % z == 0 && dst.row % z == 0 && (dst.rows ≤ 1 || dst.stride % z == 0)))
    && (!dLastUse d || sk == 1)
    && decide (dCtrKind d ≤ 2) && (dCtrKind d == 0 || dCtr d % 8 == 0) && (dCtrKind d != 1 || spOk l1 (dCtr d) 8)
    && !runsMeet (spRuns sk src) (spRuns dk dst)

/-- A range cut at multiples of g; fuel bounds the number of pieces. -/
def cutAt (g : Nat) : Nat → Nat → Nat → List (Nat × Nat)
  | 0, _, _ => []
  | n + 1, a, len =>
    if len = 0 then [] else
      let k := min len (g - a % g)
      (a, k) :: cutAt g n (a + k) (len - k)

def pagesOf (rs : List (Nat × Nat)) : List (Nat × Nat) := rs.flatMap fun r => cutAt 4096 (r.2 / 4096 + 2) r.1 r.2

/-- What resolving the virtual ranges of a descriptor finds: a segment that lacks the right, the first other fault, the
devices named (none: this one), a stop that is no fault. -/
structure Resolved where
  denied  : Bool := false
  fault   : Option CtxFault := none
  devices : List (Option Nat) := []
  stop    : Option Stop := none
deriving DecidableEq, Repr

/-- Is the segment that an address names the context's own import, so that it grants some other right (R66, R317)? -/
def State.grantsOther (s : State) (v : Via) (va : Nat) : Bool :=
  [Right.read, .write, .atomic, .reduce, .counter].any fun x => match (s.translate v va x).1 with
    | .ok _ => true
    | .error _ => false

def State.resolve (v : Via) (need : Right) : List (Nat × Nat) → Resolved → State → Resolved × State
  | [], x, s => (x, s)
  | p :: ps, x, s =>
    match s.translate v p.1 need with
    | (.ok (.mem _), s) => State.resolve v need ps { x with devices := x.devices ++ [none] } s
    | (.ok (.remote _ ta), s) => State.resolve v need ps { x with devices := x.devices ++ [some (ta / 2 ^ 42)] } s
    | (.ok (.aperture pa), s) =>
      let f := match s.outbound v.tag.part pa p.2 need with
        | .ok _ => none
        | .error f => some f
      State.resolve v need ps { x with devices := x.devices ++ [none], fault := x.fault.or f } s
    | (.error (.fault f), s) =>
      State.resolve v need ps (if f.cause = 6 && s.grantsOther v p.1 then { x with denied := true } else { x with fault := x.fault.or (some f) }) s
    | (.error e, s) => ({ x with stop := some e }, s)

/-- The outcome of checking a descriptor. -/
inductive DescCheck where
  | ok
  | bad (st : Status)
  | fault (f : CtxFault)
  | stop (e : Stop)
deriving DecidableEq, Repr

/-- Check a descriptor in the order of R18 (R66, R67, R332). -/
def State.checkDesc (s : State) (n k : Nat) (d : Line) : DescCheck × State :=
  if byteFld d 0x3C 4 ≠ crc32 ((lineBytes d).take 60) then (.bad .badCrc, s)
  else if dOp d = 0 || decide (3 < dOp d) then (.bad .badOpcode, s)
  else
    let v := s.engVia n (cpeEng k)
    let len := dLen d
    let pages (kind : Nat) (x : Shape) : List (Nat × Nat) := if kind = 1 then pagesOf (x.runs len) else []
    let (a, s) := State.resolve v .read (pages (dSrcKind d) (dSrcShape d)) {} s
    let (b, s) := State.resolve v (if dOp d = 3 then .reduce else .write) (pages (dDstKind d) (dDstShape d)) {} s
    let (c, s) := State.resolve v .counter (if dCtrKind d = 2 && len != 0 then [(dCtr d, 8)] else []) {} s
    let side (source : Bool) (kind addr : Nat) : Bool × Bool :=
      -- whether the owner differs, whether the stream is there for this core and CPE
      if kind ≠ 2 then (false, true)
      else
        let rs := s.streamRecs (addr % 2 ^ 16)
        match s.stream? v.tag.ctx (addr % 2 ^ 16) with
        | some r => (false, r.2.names source n k)
        | none => (!rs.isEmpty, false)
    let x := side false (dSrcKind d) (dSrc d)
    let y := side true (dDstKind d) (dDst d)
    let remote := b.devices.filter (·.isSome)
    let ctrOk := (remote.isEmpty || (dCtrKind d == 2 && remote.all fun e => c.devices == [e]))
      && !(dDstKind d == 2 && c.devices.any (·.isSome))
    match a.stop.or (b.stop.or c.stop) with
    | some e => (.stop e, s)
    | none =>
      if a.denied || b.denied || c.denied || x.1 || y.1 then (.bad .denied, s)
      else if !(dParams (s.core n).l1Units.toNat d && x.2 && y.2 && ctrOk) then (.bad .badParam, s)
      else match a.fault.or (b.fault.or c.fault) with
        | some f => (.fault f, s)
        | none => (.ok, s)

/-! Overlap within a CPE (R167). -/

/-- The ranges of a descriptor, scratchpad and virtual: source, destination, counter. -/
def dRanges (d : Line) : (List (Nat × Nat) × List (Nat × Nat)) × (List (Nat × Nat) × List (Nat × Nat)) :=
  let pick (kind want : Nat) (x : Shape) : List (Nat × Nat) := if kind = want then x.runs (dLen d) else []
  let ctr (want : Nat) : List (Nat × Nat) := if dCtrKind d = want then [(dCtr d, 8)] else []
  ((pick (dSrcKind d) 0 (dSrcShape d), pick (dDstKind d) 0 (dDstShape d) ++ ctr 1),
   (pick (dSrcKind d) 1 (dSrcShape d), pick (dDstKind d) 1 (dDstShape d) ++ ctr 2))

/-- Must a descriptor wait for an earlier one: its source, destination or counter meets that one's destination or counter,
or its destination meets what that one has still to read? -/
def Copy.holds (c : Copy) (d : Line) : Bool :=
  let x := dRanges c.raw
  let y := dRanges d
  let meets (a b : List (Nat × Nat) × List (Nat × Nat)) : Bool :=
    runsMeet (b.1 ++ b.2) a.2 || (c.rd != dLen c.raw && runsMeet b.2 a.1)
  meets x.1 y.1 || meets x.2 y.2

/-! Reading the source. -/

def Cpe.copy? (x : Cpe) (id : Nat) : Option Copy := x.copies.find? fun c => c.id == id

def State.copy? (s : State) (n k id : Nat) : Option Copy := ((s.core n).cpeOf k).copy? id

/-- Is a line of virtual memory read again from position p on? -/
def readLater (d : Line) (p line : Nat) : Bool :=
  let x := dSrcShape d
  (List.range (ceilDiv (dLen d) x.row)).any fun i =>
    let lo := max p (i * x.row)
    let hi := min (dLen d) ((i + 1) * x.row)
    decide (lo < hi) && decide (x.at_ lo / 64 ≤ line) && decide (line ≤ (x.at_ lo + (hi - lo) - 1) / 64)

/-- Where position p of a source lies and how many bytes follow it there: a shape, or a ring at the consumed count. -/
def State.srcAt (s : State) (ctx : Nat) (c : Copy) (p : Nat) : Nat × Nat :=
  let d := c.raw
  if dSrcKind d = 2 then
    match s.stream? ctx (dSrc d % 2 ^ 16) with
    | some (g, r) =>
      let ring := 2 ^ r.ringLog2
      let off := ((tabGet {} (s.sched g).str r.stream).consumed + p) % ring
      (r.ringVa + off, min (ring - off) (dLen d - p))
    | none => (0, 0)
  else
    let x := dSrcShape d
    (x.at_ p, min (x.row - p % x.row) (dLen d - p))

/-- Read the next piece of a source; the answer says whether there was one. -/
def State.readNext (s : State) (n k id : Nat) : Bool × State :=
  match s.copy? n k id with
  | none => (false, s)
  | some c =>
    let d := c.raw
    let v := s.engVia n (cpeEng k)
    let took (s : State) (len : Nat) (bs : List Byte) : State :=
      s.modCopy n k id fun y => { y with data := patch y.data y.rd bs, rd := y.rd + len }
    if (s.core n).stopped || decide (dLen d ≤ c.rd) then (false, s)
    else if dSrcKind d = 3 then
      (true, took s (dLen d) ((List.range (dLen d)).map fun j => BitVec.ofNat 8 (dSrc d >>> (8 * (j % 4)))))
    else
      let (a, len) := s.srcAt v.tag.ctx c c.rd
      if len = 0 then (false, s)
      else if dSrcKind d = 0 then
        (true, (took s len (memRdN (s.core n).sp a len)).modCore n fun c => c.bump (13 + k) len)
      else
        match s.translate v a .read with
        | (.error e, s) => (false, s.stopped n (cpeEng k) e)
        | (.ok (.mem pa), s) =>
          let m := min len (64 - pa % 64)
          let mark := dLastUse d && !readLater d (c.rd + m) (a / 64)
          match s.access { kind := .rdOnce, requester := v.requester, line := pa / 64, off := pa % 64, len := m, tag := v.tag, lastUse := mark } with
          | (.done r, s) =>
            if r.reread && (s.ctx v.tag.ctx).deadFault then (false, s.faultCtx n (cpeEng k) (mkFault .deadReread .faulted))
            else (true, took s m (leBytes m (lineRd r.data (pa % 64) m)))
          | (.busy, s) => (false, s)
          | (.faulted, s) => (false, s.stopped n (cpeEng k) .faulted)
        | (.ok (.aperture pa), s) =>
          let m := min len (64 - pa % 64)
          match s.outbound v.tag.part pa m .read with
          | .error f => (false, s.faultCtx n (cpeEng k) f)
          | .ok site =>
            let s := (s.sendOutbound site { kind := .rdOnce, requester := v.requester, line := pa / 64, off := pa % 64, len := m, tag := v.tag } (.copyRead n k id c.rd)).2
            (true, s.modCopy n k id fun y => { y with rd := y.rd + m, owed := y.owed + 1 })
        | (.ok (.remote imp ta), s) =>
          let m := if dLastUse d then min len (64 - ta % 64) else min len (4096 - ta % 4096)
          let mark := dLastUse d && !readLater d (c.rd + m) (a / 64)
          match s.sendRemote v 1 0 imp ta m 0 [] mark (.copyRead n k id c.rd) with
          | none => (false, s)
          | some (_, s) => (true, s.modCopy n k id fun y => { y with rd := y.rd + m, owed := y.owed + 1 })

def State.readAll (n k id : Nat) : Nat → State → State
  | 0, s => s
  | m + 1, s =>
    match s.readNext n k id with
    | (true, s) => State.readAll n k id m s
    | (false, s) => s

/-- May a sink descriptor read (R335): no earlier one of its stream is in flight, and LENGTH bytes have landed? -/
def State.landed (s : State) (n k : Nat) (c : Copy) : Bool × State :=
  let d := c.raw
  if dSrcKind d ≠ 2 || c.rd != 0 then (true, s)
  else
    let v := s.engVia n (cpeEng k)
    let before := (((s.core n).cpeOf k).copies.takeWhile fun y => y.id != c.id).any fun y =>
      dSrcKind y.raw == 2 && dSrc y.raw % 2 ^ 16 == dSrc d % 2 ^ 16
    match s.stream? v.tag.ctx (dSrc d % 2 ^ 16) with
    | none => (false, s)
    | some (g, r) =>
      if before then (false, s)
      else match s.vread v r.ctrVa 8 with
        | (.error .busy, s) => (false, s)
        | (.error e, s) => (false, s.stopped n (cpeEng k) e)
        | (.ok b, s) => (decide ((tabGet {} (s.sched g).str r.stream).consumed + dLen d ≤ leVal b), s)

/-- Bytes of a virtual source that the descriptor itself rewrites: each is as it stood, or as rewritten (R67). -/
def mixOverlap (d : Line) (s : State) (data : List Byte) : List Byte × State :=
  let src := dSrcShape d
  let dst := dDstShape d
  let len := dLen d
  if dSrcKind d = 1 && dDstKind d == 1 && dOp d == 1 && runsMeet (src.runs len) (dst.runs len) then
    (List.range len).foldl (fun (acc : List Byte × State) j =>
      match (List.range len).find? fun i => dst.at_ i == src.at_ j with
      | none => acc
      | some i =>
        let (c, s) := acc.2.choose 2
        (if c = 0 then acc.1 else acc.1.set j (acc.1.getD i 0), s)) (data, s)
  else (data, s)

/-! Writing the destination. -/

/-- The write of one piece goes to its home: what it does to the descriptor. -/
def State.wrote (s : State) (n k id m : Nat) (w : Option Nat) (away : Bool) : State :=
  s.modCopy n k id fun y => { y with
    wr := y.wr + m
    ids := match w with
      | some i => y.ids ++ [i]
      | none => y.ids
    owed := if away then y.owed + 1 else y.owed }

/-- Units of a stream source go into the core's send queue of 512 units, in the order of the descriptors (R333). -/
def State.pushUnit (s : State) (n k : Nat) (c : Copy) : Bool × State :=
  let d := c.raw
  let before := (((s.core n).cpeOf k).copies.takeWhile fun y => y.id != c.id).any fun y =>
    dDstKind y.raw == 2 && dDst y.raw % 2 ^ 16 == dDst d % 2 ^ 16 && decide (y.wr < dLen y.raw)
  match s.stream? (s.core n).context.toNat (dDst d % 2 ^ 16) with
  | none => (false, s)
  | some (g, r) =>
    if before || decide (512 ≤ (s.core n).sendq.length) then (false, s)
    else
      let u : SendUnit := { sched := g, stream := r.stream, cpe := k, copy := c.id, data := bytesLine ((c.data.drop c.wr).take 64) }
      (true, (s.modCore n fun x => { x with sendq := x.sendq ++ [u] }).wrote n k c.id 64 none false)

/-- Write the next piece of a destination; the answer says whether there was one. -/
def State.writeNext (s : State) (n k id : Nat) : Bool × State :=
  match s.copy? n k id with
  | none => (false, s)
  | some c =>
    let d := c.raw
    let v := s.engVia n (cpeEng k)
    let x := dDstShape d
    if (s.core n).stopped || decide (dLen d ≤ c.wr) then (false, s)
    else if dDstKind d = 2 then s.pushUnit n k c
    else
      let a := x.at_ c.wr
      let len := min (x.row - c.wr % x.row) (dLen d - c.wr)
      let bytes (m : Nat) : List Byte := (c.data.drop c.wr).take m
      if dDstKind d = 0 then
        (true, (s.modCore n fun y => (y.spWrite a (bytes len)).bump (13 + k) len).wrote n k id len none false)
      else
        let red := dOp d == 3
        let need : Right := if red then .reduce else .write
        match s.translate v a need with
        | (.error e, s) => (false, s.stopped n (cpeEng k) e)
        | (.ok (.remote imp ta), s) =>
          let m := min len (4096 - ta % 4096)
          match s.sendRemote v (if red then 4 else 2) (if red then dFmt d else 0) imp ta m 0 (bytes m) false (.copyWrite n k id) with
          | none => (false, s)
          | some (_, s) => (true, s.wrote n k id m none true)
        | (.ok t, s) =>
          let pa := match t with
            | .mem p | .aperture p => p
            | .remote _ p => p
          let m := min len (64 - pa % 64)
          let p := placeBytes (pa % 64) (bytes m)
          let r : Req := { kind := if red then .atomic else .wrInv, op := redAtom (dFmt d), requester := v.requester, line := pa / 64
                           off := pa % 64, len := m, data := p.1, mask := p.2, tag := v.tag }
          match t with
          | .aperture _ =>
            match s.outbound v.tag.part pa m need with
            | .error f => (false, s.faultCtx n (cpeEng k) f)
            | .ok site => (true, ((s.sendOutbound site r (.copyWrite n k id)).2).wrote n k id m none true)
          | _ =>
            match s.access r with
            | (.done y, s) =>
              let s := (s.wrote n k id m y.id false).takeFlags n k y.flags
              if red && y.reread && (s.ctx v.tag.ctx).deadFault && !(s.core n).stopped then
                (false, s.faultCtx n (cpeEng k) (mkFault .deadReread .faulted))
              else (true, s)
            | (.busy, s) => (false, s)
            | (.faulted, s) => (false, s.stopped n (cpeEng k) .faulted)

def State.writeAll (n k id : Nat) : Nat → State → State
  | 0, s => s
  | m + 1, s =>
    match s.writeNext n k id with
    | (true, s) => State.writeAll n k id m s
    | (false, s) => s

/-! The counter (R68). -/

/-- Add to the descriptor's counter; false while its home cannot take the add yet. -/
def State.addCounter (s : State) (n k : Nat) (d : Line) (amount : Nat) : Bool × State :=
  if dCtrKind d = 0 || amount == 0 then (true, s)
  else if dCtrKind d = 1 then
    (true, s.modCore n fun c => c.spWrite (dCtr d) (leBytes 8 (memRdLE c.sp (dCtr d) 8 + amount)))
  else
    let v := s.engVia n (cpeEng k)
    match s.translate v (dCtr d) .counter with
    | (.error e, s) => (false, s.stopped n (cpeEng k) e)
    | (.ok (.remote imp ta), s) =>
      match s.sendRemote v 5 0 imp ta 0 amount [] false (.ack n (3 + k)) with
      | none => (false, s)
      | some (_, s) => (true, s)
    | (.ok t, s) =>
      let pa := match t with
        | .mem p | .aperture p => p
        | .remote _ p => p
      let r : Req := { kind := .atomic, op := .add, requester := v.requester, line := pa / 64, off := pa % 64, len := 8
                       data := BitVec.ofNat 512 amount, tag := v.tag }
      match t with
      | .aperture _ =>
        match s.outbound v.tag.part pa 8 .counter with
        | .error f => (false, s.faultCtx n (cpeEng k) f)
        | .ok site => (true, (s.sendOutbound site r (.ack n (3 + k))).2)
      | _ =>
        match s.access r with
        | (.done _, s) => (true, s)
        | (.busy, s) => (false, s)
        | (.faulted, s) => (false, s.stopped n (cpeEng k) .faulted)

/-- What a stream source counts of the units that have left (R333): their bytes, or 1 once the last has left. -/
def Copy.due (c : Copy) : Nat :=
  if dUnit c.raw then (if 64 * c.gone = dLen c.raw then 1 - c.counted else 0) else 64 * c.gone - c.counted

/-- Count the units of a stream source that have left. -/
def State.countUnits (s : State) (n k id : Nat) : State :=
  match s.copy? n k id with
  | none => s
  | some c =>
    match s.addCounter n k c.raw c.due with
    | (true, s) => s.modCopy n k id fun y => { y with counted := y.counted + c.due }
    | (false, s) => s

/-- A unit of a stream source leaves its core (R333). -/
def State.unitLeft (s : State) (n k id : Nat) : State :=
  (s.modCopy n k id fun y => { y with gone := y.gone + 1 }).countUnits n k id

/-! Completion. -/

/-- Have the descriptor's local writes all been acknowledged (R164)? -/
def State.copyComp (s : State) (c : Copy) : Bool := s.cache.writes.all fun w => w.comp || !c.ids.contains w.id

/-- The descriptor is complete: it leaves its CPE, its ISSUE completes with its last one, and a sink's consumed count
advances (R63, R335). -/
def State.endCopy (s : State) (n k : Nat) (c : Copy) : State :=
  let d := c.raw
  let s := match (if dSrcKind d = 2 then s.stream? (s.core n).context.toNat (dSrc d % 2 ^ 16) else none) with
    | none => s
    | some (g, r) =>
      let x := s.sched g
      s.setSched g { x with str := tabMod {} x.str r.stream fun y => { y with consumed := y.consumed + dLen d } }
  s.modCore n fun x =>
    let p := x.cpeOf k
    let rest := p.copies.filter fun y => y.id != c.id
    let q := x.queue (cpeEng k)
    let done := rest.all fun y => y.seq != c.seq
    ((x.bump 15 (dLen d)).setCpe k { p with copies := rest }).setQueue (cpeEng k)
      { q with flights := if done then q.flights.filter fun f => !(f.seq == c.seq && f.left == 0) else q.flights }

end Sys2Proof.Machine
end

