-- ==== Sys2Proof/Machine/Cpe.lean ====
section
/-! DEFINITION. The copy engines (R63 to R68, R163, R167). -/

namespace Sys2Proof.Machine

/-- The ISSUE of a CPE's queue whose descriptors have not all been reached. -/
def Queue.issuing (q : Queue) : Option Flight := q.flights.find? fun f => f.left != 0

/-- ISSUE (R63): its check; with COUNT 0 a no-op, else its descriptors are reached one after another, and it stands at the
head of its queue until the last has started (R40). -/
def execIssue (core : Fin 576) (cpe : Fin 2) (s : State) : Out :=
  let e := cpeEng cpe
  .next (s.issueOp core e 0x10 fun w =>
    let q := s.queue core e
    let count := fld w 71 64
    let step := fld w 95 72
    if !(onlyBits w [(8, 0), (95, 16)] && fld w 63 16 % 64 == 0 && step % 64 == 0) then s.faultCtx core e illegalParam
    else if count = 0 then s.modQueue core e Queue.advance
    else if q.issuing.isSome then s
    else s.setQueue core e { q with flights := q.flights ++ [{ seq := q.seq, op := 0x10, va := bit w 8, addr := fld w 63 16 + step * q.iter, left := count }] })

/-- The 64 bytes of a descriptor through the CPE's descriptor cache (R163): where the cached descriptor and its source
differ, a free choice takes one of them. -/
def State.fetchDesc (s : State) (n k : Nat) (va : Bool) (addr : Nat) : Except Stop Line × State :=
  let read (s : State) : Except Stop (List Byte) × State :=
    if va then s.vread { s.engVia n (cpeEng k) with checked := true } addr 64
    else if !spOk (s.core n).l1Units.toNat addr 64 then (.error (.fault spRangeFault), s)
    else (.ok (memRdN (s.core n).sp addr 64), s)
  let fresh (s : State) : Except Stop Line × State :=
    match read s with
    | (.error e, s) => (.error e, s)
    | (.ok b, s) =>
      let x := (s.core n).cpeOf k
      let kept := x.cache.filter fun c => !(c.1 == va && c.2.1 == addr)
      (.ok (bytesLine b), s.modCore n fun c => c.setCpe k { x with cache := ((va, addr, bytesLine b) :: kept).take 64 })
  match ((s.core n).cpeOf k).cache.find? fun c => c.1 == va && c.2.1 == addr with
  | none => fresh s
  | some c =>
    let same := match (read s).1 with
      | .ok b => bytesLine b == c.2.2
      | .error _ => true
    if same then (.ok c.2.2, s)
    else
      let (i, s) := s.choose 2
      if i = 0 then (.ok c.2.2, s) else fresh s

/-- The ISSUE goes on to its next descriptor; past its last, the queue goes on (R40, R63). -/
def Queue.nextDesc (q : Queue) : Queue :=
  let fs := q.flights.map fun f => if f.left = 0 then f else { f with addr := f.addr + 64, left := f.left - 1 }
  let q := { q with hold := .none, flights := fs }
  if fs.any fun f => f.left != 0 then q else q.advance

/-- A descriptor without bytes, or the last of an ISSUE, leaves nothing in flight: the ISSUE completes. -/
def Queue.settleIssue (q : Queue) (x : Cpe) : Queue :=
  { q with flights := q.flights.filter fun f => f.left != 0 || x.copies.any fun c => c.seq == f.seq }

/-- The descriptor starts: it is in flight, and its reads begin. -/
def State.startCopy (s : State) (n k : Nat) (f : Flight) (d : Line) : State :=
  let x := (s.core n).cpeOf k
  let c : Copy := { id := x.nextId, seq := f.seq, raw := d, data := List.replicate (dLen d) 0, since := s.now }
  let s := s.modCore n fun y =>
    (y.setCpe k { x with nextId := x.nextId + 1, copies := x.copies ++ [c] }).setQueue (cpeEng k) (y.queue (cpeEng k)).nextDesc
  match s.landed n k c with
  | (true, s) => State.readAll n k c.id (dLen d) s
  | (false, s) => s

/-- DESCRIPTOR_START (R66, R68, R167): the CPE reaches the next descriptor of its ISSUE, checks it, and starts it once it
has room and no overlap. -/
def execDescriptorStart (core : Fin 576) (cpe : Fin 2) (s : State) : Out :=
  let e := cpeEng cpe
  let hold (s : State) : State := s.modQueue core e fun q => { q with hold := .full }
  .next (match (s.queue core e).issuing with
    | none => s
    | some f =>
      if !s.issues core then s
      else match s.fetchDesc core cpe f.va f.addr with
        | (.error x, s) => s.stopped core e x
        | (.ok d, s) =>
          match s.checkDesc core cpe d with
          | (.bad st, s) => s.faultCtx core e (mkFault .badDescriptor st)
          | (.fault x, s) => s.faultCtx core e x
          | (.stop x, s) => s.stopped core e x
          | (.ok, s) =>
            let x := (s.core core).cpeOf cpe
            if dLen d = 0 then s.modQueue core e fun q => q.nextDesc.settleIssue x
            else if 16 ≤ x.copies.length || x.copies.any (fun c => c.holds d) then hold s
            else s.startCopy core cpe f d)

/-- Carry a descriptor as far as it goes now: reads, then writes, then the counter and its end. -/
def State.driveCopy (s : State) (n k id : Nat) : State :=
  match s.copy? n k id with
  | none => s
  | some c =>
    let d := c.raw
    match s.landed n k c with
    | (false, s) => s
    | (true, s) =>
      let s := State.readAll n k id (dLen d) s
      match s.copy? n k id with
      | none => s
      | some c =>
        if c.rd != dLen d || (c.wr == 0 && c.owed != 0) then s
        else
          let s := if c.wr = 0 then
              let (bs, s) := mixOverlap d s c.data
              s.modCopy n k id fun y => { y with data := bs }
            else s
          let s := State.writeAll n k id (dLen d) s
          let s := if dDstKind d = 2 then s.countUnits n k id else s
          match s.copy? n k id with
          | none => s
          | some c =>
            if c.wr != dLen d || c.owed != 0 || !s.copyComp c || (s.core n).stopped then s
            else if dDstKind d = 2 then
              if 64 * c.gone = dLen d && c.due == 0 then s.endCopy n k c else s
            else match s.addCounter n k d (if dUnit d then 1 else dLen d) with
              | (true, s) => s.endCopy n k c
              | (false, s) => s

/-- DESCRIPTOR_COMPLETE (R68): the descriptor at a place of the CPE goes on; when every byte is performed at its
destination, the counter is added to, once. -/
def execDescriptorComplete (core : Fin 576) (cpe : Fin 2) (index : Fin 16) (s : State) : Out :=
  .next (if !s.issues core then s else
    match ((s.core core).cpeOf cpe).copies[index.val]? with
    | none => s
    | some c => s.driveCopy core cpe c.id)

end Sys2Proof.Machine
end

