-- ==== Sys2Proof/Machine/Engines.lean ====
section
/-! DEFINITION. Starting and completing the instructions of the matrix and the vector engine (R40, R44, R81 to R98, R103
to R130), each over the shared start below. -/

namespace Sys2Proof.Machine

def Res.bytes : Res → Nat
  | .sp lo hi => hi - lo
  | _ => 0

/-- Local-array bytes that an instruction reads and writes. -/
def Flight.arrayBytes (f : Flight) : Nat := ((f.reads ++ f.writes).map Res.bytes).foldl (· + ·) 0

/-- What an instruction adds to the activity counters when it starts. -/
def Core.active (c : Core) (e : Eng) (w : QWord) (f : Flight) : Core :=
  let c := c.bump (10 + e.num) f.arrayBytes
  let c := if e = .mxe && f.op == 0x11 then
      c.bump ((mxeFormat (fld w 15 12)).elim 0 mxeClass + if c.mxe.exact then 4 else 0) f.eff.slabs
    else c
  if e = .vxe then c.bump 8 f.eff.elems else c

/-- The results of an MMA that a later MMA with ACC 1 takes without waiting (R85). -/
def forwarded (e : Eng) (w : QWord) (f : Flight) (rs : List Res) : List Res :=
  if e = .mxe && opcode w == 0x11 && bit w 11 && f.op == 0x11 then
    rs.filter fun r => match r with
      | .tile _ => false
      | _ => true
  else rs

/-- Must a started instruction wait for one still in progress in its queue (R85, R127)? -/
def Started.waitsFor (st : Started) (e : Eng) (w : QWord) (f : Flight) : Bool :=
  st.alone ||
  (if st.fault.isSome then hazard st.flight.reads st.flight.writes f
   else hazard (forwarded e w f st.flight.reads) (forwarded e w f st.flight.writes) f)

/-- The core once an instruction has started: its flight is in the queue, LEN and the flags that act at once are set. -/
def Core.launch (c : Core) (e : Eng) (w : QWord) (st : Started) : Core :=
  let q := c.queue e
  let c := (c.active e w st.flight).setQueue e { q.advance with flights := q.flights ++ [{ st.flight with seq := q.seq }] }
  let v := match st.len with
    | some (r, k) => { c.vxe with rows := BitVec.ofNat 6 r, cols := BitVec.ofNat 7 k }
    | none => c.vxe
  { c with vxe := if st.vclear then { v with flags := {} } else v }

/-- Start the instruction at the head of an engine's queue: a fault, a wait for its engine (state 6 of CORE_QSTATE), or
the flight. An EXACT_RANGE fault leaves what came before its group (R94). -/
def State.startEngine (s : State) (n : Nat) (e : Eng) (op : Nat) (start : Core → QWord → Except CtxFault Started) : State :=
  s.issueOp n e op fun w =>
    let c := s.core n
    match start (c.view e) w with
    | .error f => s.faultCtx n e f
    | .ok st =>
      if (c.queue e).flights.any (st.waitsFor e w) then s.modQueue n e fun q => { q with hold := .full }
      else match st.fault with
        | some f => (s.setCore n (st.flight.eff.apply c)).faultCtx n e f
        | none => s.setCore n (c.launch e w st)

/-! MXE (R81). -/

/-- LDB (R81, R82). -/
def execLdb (core : Fin 576) (s : State) : Out := .next (s.startEngine core .mxe 0x10 ldbStart)

/-- MMA (R73, R86, R87, R90). -/
def execMma (core : Fin 576) (s : State) : Out :=
  .next (s.startEngine core .mxe 0x11 (mmaStart (s.ctx (s.core core).context.toNat).exactFault))

/-- ACCMODE (R81, R97). -/
def execAccmode (core : Fin 576) (s : State) : Out := .next (s.startEngine core .mxe 0x12 accmodeStart)

/-- ACCZERO (R81, R97). -/
def execAcczero (core : Fin 576) (s : State) : Out := .next (s.startEngine core .mxe 0x13 acczeroStart)

/-- ACCST (R82). -/
def execAccst (core : Fin 576) (s : State) : Out := .next (s.startEngine core .mxe 0x14 accstStart)

/-- ACCLD (R82, R97). -/
def execAccld (core : Fin 576) (s : State) : Out := .next (s.startEngine core .mxe 0x15 accldStart)

/-- STSTAT (R98). -/
def execStstat (core : Fin 576) (s : State) : Out := .next (s.startEngine core .mxe 0x16 ststatStart)

/-! VXE (R103). -/

/-- The loops of the VXE queue, which SETLEN, LD, ST and STSLAB index by (R106, R116, R123). -/
def State.vxeLoops (s : State) (n : Nat) : List Loop := (s.queue n .vxe).loops

/-- SETLEN (R106): LEN at once for every later instruction. -/
def execSetlen (core : Fin 576) (s : State) : Out :=
  .next (s.startEngine core .vxe 0x10 fun _ w => setlenStart (s.vxeLoops core) w)

/-- LD of the VXE (R116). -/
def execVxeLd (core : Fin 576) (s : State) : Out := .next (s.startEngine core .vxe 0x11 (vldStart (s.vxeLoops core)))

/-- ST of the VXE (R116). -/
def execVxeSt (core : Fin 576) (s : State) : Out := .next (s.startEngine core .vxe 0x12 (vstStart (s.vxeLoops core)))

/-- STSLAB (R123). -/
def execStslab (core : Fin 576) (s : State) : Out := .next (s.startEngine core .vxe 0x13 (stslabStart (s.vxeLoops core)))

/-- ALU (R117). -/
def execAlu (core : Fin 576) (s : State) : Out := .next (s.startEngine core .vxe 0x14 aluStart)

/-- FMA (R112). -/
def execFma (core : Fin 576) (s : State) : Out := .next (s.startEngine core .vxe 0x15 fmaStart)

/-- SEL of the VXE (R117). -/
def execVxeSel (core : Fin 576) (s : State) : Out := .next (s.startEngine core .vxe 0x16 selStart)

/-- FUNC of the VXE (R125). -/
def execVxeFunc (core : Fin 576) (s : State) : Out :=
  .next (s.startEngine core .vxe 0x17 (funcStart s.hub.feature.toNat))

/-- CVT of the VXE (R121). -/
def execVxeCvt (core : Fin 576) (s : State) : Out := .next (s.startEngine core .vxe 0x18 cvtStart)

/-- RED (R126). -/
def execRed (core : Fin 576) (s : State) : Out := .next (s.startEngine core .vxe 0x19 redStart)

/-- VSTAT (R130). -/
def execVstat (core : Fin 576) (s : State) : Out := .next (s.startEngine core .vxe 0x1A vstatStart)

/-! Completion (R44). -/

/-- An engine whose instructions take time and complete by INSTRUCTION_COMPLETION. -/
def Eng.timed : Eng → Bool
  | .mxe => true | .vxe => true | _ => false

/-- The flight at a place of a queue, if no earlier one stands in its way: results are made in program order where they
meet (R51, R85, R127). -/
def Queue.completes (q : Queue) (i : Nat) : Option Flight :=
  match q.flights[i]? with
  | none => none
  | some f => if (q.flights.take i).any (hazard f.reads f.writes) then none else some f

/-- The core with that flight's results made and the flight gone. -/
def Core.complete (c : Core) (e : Eng) (i : Nat) (f : Flight) : Core :=
  let c := f.eff.apply c
  let q := c.queue e
  c.setQueue e { q with flights := q.flights.eraseIdx i }

/-- INSTRUCTION_COMPLETION (R44): the results are made, dependent instructions and SIGNALs go on, and waits on scratchpad
counters test again. -/
def execInstructionCompletion (core : Fin 576) (q : Eng) (index : Fin 64) (s : State) : Out :=
  .next (if !q.timed || !s.serving then s else
    match (s.queue core q).completes index with
    | none => s
    | some f =>
      let c := (s.core core).complete q index f
      s.setCore core (if c.stopped || !c.resident then c else c.wakeSp))

end Sys2Proof.Machine
end

