-- ==== Sys2Proof/Machine/Kernel.lean ====
section
/-! DEFINITION. A core's part of a kernel: its start (R55, R56, R59), its end (R57) and what its end means for its LAUNCH
(R380, R392, R407, R409). -/

namespace Sys2Proof.Machine

/-- The core's own accesses at core start and kernel end: no queue (7). -/
def State.coreVia (s : State) (n : Nat) : Via :=
  let c := s.core n
  { tag := { ctx := c.context.toNat, part := c.partition.toNat, core := some n, queue := 7 }, requester := 4 * n + 3, hd := false }

/-- A stop of such an access. -/
def State.coreStop (s : State) (n : Nat) (x : Stop) : State :=
  match x with
  | .fault f => s.faultQueue n 7 f
  | .busy => s
  | .faulted => s.modCore n fun c => { c with stopped := true, lastStatus := BitVec.ofNat 8 Status.faulted.code }

/-- The launch header (R56). -/
def launchHeader (n : Nat) (c : Core) (seq : Nat) : List Byte :=
  leBytes 2 n ++ leBytes 2 c.index ++ leBytes 2 c.kernel.count ++ leBytes 1 c.context.toNat ++ leBytes 1 c.partition.toNat
    ++ leBytes 4 (spBytes c.kernel.l1) ++ leBytes 4 c.kernel.argLen ++ leBytes 8 seq ++ List.replicate 40 0

/-- The scratchpad that step 2 of the core start leaves (R59). -/
def Core.startScratch (c : Core) : Mem :=
  match c.prev with
  | some (x, u) =>
    if c.kernel.keep && x == c.context.toNat then memZero c.sp (min (spBytes u) (spBytes c.kernel.l1)) (spBytes 0) else []
  | none => []

/-- A queue at the start of a kernel (R53, R57). -/
def startQueue (st : Nat × Nat) : Queue := { base := st.1, len := st.2 / 16, ended := st.2 == 0 }

/-- The core once the five steps of its start have run (R55, R72, R97, R101, R130, R132, R398, R424). -/
def Core.begin_ (c : Core) (n seq : Nat) (args : List Byte) : Core :=
  let k := c.kernel
  let tge := (k.streams.getD 2 (0, 0)).2 != 0
  { c with
    resident := true, running := true, assigned := false, stopped := false, faulted := false, faultQueue := 7, faultReason := 0
    l1Units := BitVec.ofNat 4 k.l1, sems := [], granted := [], resided := 0, rest := []
    queues := (Eng.all.zip k.streams).map fun p => (p.1.num, startQueue p.2)
    sp := memWrN c.startScratch 0 (launchHeader n c seq ++ args)
    mxe := { slabs := c.mxe.slabs }, vxe := { rows := 32, cols := 16, elems := c.vxe.elems }
    tge := { c.tge with
      regs := if tge then BitVec.ofNat 8 k.regs else c.tge.regs
      limit := if tge then BitVec.ofNat 7 (min 64 (2048 / k.regs)) else c.tge.limit
      groups := [], starts := [], stores := [], icache := [] }
    cpe0 := { nextId := c.cpe0.nextId }, cpe1 := { nextId := c.cpe1.nextId }
    l1 := {}, tlb := [], redStatus := 0, sendq := [], level := c.nextLevel }

/-- The first core start of a model (R407). -/
def Launch.begun (l : Launch) (model now : Nat) : Launch :=
  if model = 0 then { l with first0 := some (l.first0.getD now) } else { l with first1 := some (l.first1.getD now) }

/-- CORE_START (R55): the assigned core reads its arguments and starts its five queues. -/
def execCoreStart (core : Fin 576) (s : State) : Out :=
  let c := s.core core
  .next (if !c.assigned || c.stopped || !s.serving then s
    else match s.cmd? c.cmd with
      | none => s
      | some d =>
        match (s.modCore core fun c => { c with tlb := [] }).vread (s.coreVia core) c.kernel.argAddr c.kernel.argLen with
        | (.error x, s) => s.coreStop core x
        | (.ok args, s) =>
          let s := s.setCore core ((s.core core).begin_ core d.seq args)
          let s := s.setPlan core { s.plan core with since := s.now, rest := 0 }
          s.modCmd d.id fun y => { y with launch := y.launch.map fun l => l.begun c.model s.now })

/-- Has every instruction of the core completed, and every write been performed with its invalidations (R57, R173)? -/
def State.quiet (s : State) (n : Nat) : Bool :=
  let c := s.core n
  (Eng.all.all fun e => (c.queue e).ended && (c.queue e).flights.isEmpty && (c.queue e).sigs.isEmpty)
    && c.tge.groups.isEmpty && c.tge.starts.isEmpty && c.tge.stores.isEmpty && c.cpe0.copies.isEmpty && c.cpe1.copies.isEmpty
    && s.cache.writes.all fun w => w.core != some n

/-- DONE_CTR gains 1 at its home (R57): none while that cannot happen yet. -/
def State.addDone (s : State) (n : Nat) : Except Stop Unit × State :=
  let a := (s.core n).kernel.doneCtr
  if a = 0 then (.ok (), s)
  else
    let v := s.coreVia n
    match s.translate v a .counter with
    | (.error e, s) => (.error e, s)
    | (.ok (.remote imp ta), s) =>
      match s.sendRemote v 5 0 imp ta 0 1 [] false (.ack n 7) with
      | none => (.error .busy, s)
      | some (_, s) => (.ok (), s)
    | (.ok (.aperture pa), s) =>
      match s.outbound v.tag.part pa 8 .counter with
      | .error f => (.error (.fault f), s)
      | .ok k => (.ok (), (s.sendOutbound k { kind := .atomic, op := .add, requester := v.requester, line := pa / 64, off := pa % 64
                                              len := 8, data := 1, tag := v.tag } (.ack n 7)).2)
    | (.ok (.mem pa), s) =>
      match s.access { kind := .atomic, op := .add, requester := v.requester, line := pa / 64, off := pa % 64, len := 8, data := 1, tag := v.tag } with
      | (.done _, s) => (.ok (), s)
      | (.busy, s) => (.error .busy, s)
      | (.faulted, s) => (.error .faulted, s)

/-- A duration kept for a descriptor address: the last 8, of the 16 addresses last used (R407). -/
def Ctx.keepDuration (x : Ctx) (addr d : Nat) : Ctx :=
  let old := ((x.durations.find? fun p => p.1 == addr).map (·.2)).getD []
  { x with durations := ((addr, (d :: old).take 8) :: x.durations.filter fun p => p.1 != addr).take 16 }

/-- A core of a LAUNCH has ended: PROGRESS, MARK, PARTIAL, and the end of the LAUNCH with its last core (R380, R407,
R409). -/
def State.coreEnded (s : State) (id model index : Nat) : State :=
  match s.cmd? id with
  | none => s
  | some c =>
    match c.launch with
    | none => s
    | some l =>
      let l := if model = 0 then { l with ended0 := insertNat index l.ended0 } else { l with ended1 := insertNat index l.ended1 }
      let s := s.modCmd id fun x => { x with launch := some l }
      if l.complete then
        let first := if l.switched then l.first1 else l.first0
        let desc := l.kernel.desc
        let s := match first with
          | some t => s.modCtx c.ctx fun x => x.keepDuration desc (s.now - t)
          | none => s
        s.finish id .ok
      else
        s.update id fun x => { x with
          status := if 0 < l.markOf then .partialResult else x.status
          info := BitVec.ofNat 8 (b2n l.switched)
          progress := BitVec.ofNat 32 l.progress, mark := BitVec.ofNat 32 l.markOf }

/-- CORE_END (R57). -/
def execCoreEnd (core : Fin 576) (s : State) : Out :=
  let c := s.core core
  .next (if !s.live core || !s.quiet core then s
    else match s.addDone core with
      | (.error x, s) => s.coreStop core x
      | (.ok _, s) =>
        let d := (s.core core).vacant
        let s := s.setCore core { d with lastStatus := BitVec.ofNat 8 Status.ok.code, prev := some (c.context.toNat, c.l1Units.toNat) }
        (s.setPlan core { s.plan core with next := none }).coreEnded c.cmd c.model c.index)

end Sys2Proof.Machine
end

