-- ==== Sys2Proof/Machine/Sequencer.lean ====
section
/-! DEFINITION. The shared queue instructions and the sequencer's events (R42 to R52, R165, R503). -/

namespace Sys2Proof.Machine

/-- NOP (R42): one issue cycle and nothing else. -/
def execNop (core : Fin 576) (q : Eng) (s : State) : Out :=
  .next (s.issueOp core q 0x00 fun w =>
    if !onlyBits w [(7, 0)] then s.faultCtx core q illegalParam else s.modQueue core q Queue.advance)

/-- END (R42, R45): the queue ends, also from inside a loop body. -/
def execEndQueue (core : Fin 576) (q : Eng) (s : State) : Out :=
  .next (s.issueOp core q 0x01 fun w =>
    if !onlyBits w [(7, 0)] then s.faultCtx core q illegalParam
    else s.modQueue core q fun x => { x with ended := true, loops := [], hold := .none, seq := x.seq + 1 })

/-- SIGNAL (R42): issues; the add follows once every earlier instruction of the queue has completed. -/
def execSignal (core : Fin 576) (q : Eng) (s : State) : Out :=
  .next (s.issueOp core q 0x02 fun w =>
    if !onlyBits w [(7, 0), (12, 8), (47, 16)] then s.faultCtx core q illegalParam
    else s.modQueue core q fun x =>
      { x.advance with sigs := x.sigs ++ [{ seq := x.seq, sem := fld w 12 8, amount := fld w 47 16 }] })

/-- The SIGNAL of a queue whose earlier instructions have all completed. -/
def Queue.readySignal (q : Queue) : Option Sig :=
  match q.sigs with
  | [] => none
  | x :: _ => if q.clearBefore x.seq then some x else none

/-- One SIGNAL of this cycle; past 0xFFFF_FFFF it is the fault SYNC_OVERFLOW (R48). -/
def State.performSignal (s : State) (n : Nat) (e : Eng) : State :=
  let c := s.core n
  match (c.queue e).readySignal with
  | none => s
  | some x =>
    if c.stopped then s
    else if 2 ^ 32 ≤ c.sem x.sem + x.amount then s.faultCtx n e (mkFault .syncOverflow .faulted)
    else s.setCore n ({ c with sems := zSet c.sems x.sem (c.sem x.sem + x.amount) }.setQueue e
      { c.queue e with sigs := (c.queue e).sigs.drop 1 })

/-- SIGNAL_PERFORM (R47): the ready SIGNALs of the named queues fall in one cycle, then the waits test. -/
def execSignalPerform (core : Fin 576) (qs : List Eng) (s : State) : Out :=
  .next (if !s.issues core then s else
    let sems := (Eng.all.filter qs.contains).filterMap fun e => (s.queue core e).readySignal.map (·.sem)
    let s := (Eng.all.filter qs.contains).foldl (fun s e => s.performSignal core e) s
    if (s.core core).stopped then s else s.modCore core fun c => sems.foldl Core.grant c)

/-- WAIT (R42, R47, R49): the queue is held, and its condition is tested at once. -/
def execWait (core : Fin 576) (q : Eng) (s : State) : Out :=
  .next (s.issueOp core q 0x03 fun w =>
    if !(onlyBits w [(7, 0), (13, 8), (53, 16)] && decide (fld w 53 48 ≤ 24)) then s.faultCtx core q illegalParam
    else
      let s := s.modQueue core q fun x => { x with hold := .wait, deadline := timeoutAt s.now (fld w 53 48) }
      s.modCore core fun c => c.grant (fld w 12 8))

/-- Read the cell of a WAITMEM at its home and release the queue, or hold it (R42, R503). -/
def State.tryWaitmem (s : State) (n : Nat) (e : Eng) (w : QWord) : State :=
  let q := s.queue n e
  let addr := fld w 63 16
  let need_ := waitmemThreshold q w
  let held (s : State) (line : Option Nat) (asked : Bool) : State := s.modQueue n e fun x =>
    { x with hold := .waitmem, deadline := if q.hold = .waitmem then q.deadline else timeoutAt s.now (fld w 15 10)
             watch := line, notice := false, asked := asked }
  if !bit w 8 then
    if need_ ≤ memRdLE (s.core n).sp addr 8 then s.modCore n fun c => c.release e else held s none false
  else
    match s.translate (s.seqVia n e) addr .read with
    | (.error .busy, s) => s
    | (.error x, s) => s.stopped n e x
    | (.ok t, s) =>
      match s.vread (s.seqVia n e) addr 8 with
      | (.error .busy, s) => (match t with
        | .remote _ _ => held s none true
        | _ => s)
      | (.error x, s) => s.stopped n e x
      | (.ok b, s) =>
        if need_ ≤ leVal b then s.modCore n fun c => c.release e
        else held s (match t with
          | .mem pa => some (pa / 64)
          | _ => none) (match t with
          | .remote _ _ => true
          | _ => false)

/-- WAITMEM (R42, R43, R60, R503). -/
def execWaitmem (core : Fin 576) (q : Eng) (s : State) : Out :=
  .next (s.issueOp core q 0x04 fun w =>
    if !(onlyBits w [(8, 0), (15, 10), (127, 16)] && decide (fld w 15 10 ≤ 24) && fld w 63 16 % 8 == 0) then
      s.faultCtx core q illegalParam
    else if !bit w 8 && !spOk (s.core core).l1Units.toNat (fld w 63 16) 8 then s.faultCtx core q spRangeFault
    else s.tryWaitmem core q w)

/-- WAITMEM_NOTICE (R503): after the home's notice, or the response of the other device, the cell is read again. -/
def execWaitmemNotice (core : Fin 576) (q : Eng) (s : State) : Out :=
  let x := s.queue core q
  .next (if !s.issues core || x.hold != .waitmem || !(x.notice || x.asked) then s
    else match tabGet? x.buf x.pos with
      | none => s
      | some w => s.tryWaitmem core q w)

def Queue.waits (q : Queue) : Bool := q.hold == .wait || q.hold == .waitmem

/-- Has a sink descriptor of a CPE waited 2^24 µs for its bytes (R335)? -/
def Core.sinkOverdue (c : Core) (e : Eng) (now : Nat) : Bool :=
  let late (x : Cpe) : Bool := x.copies.any fun y => byteFld y.raw 2 1 % 16 == 2 && y.rd == 0 && decide (y.since + 2 ^ 24 * 1000 ≤ now)
  match e with
  | .cpe0 => late c.cpe0
  | .cpe1 => late c.cpe1
  | _ => false

/-- WAIT_TIMEOUT (R49, R335): an expired wait is a context fault. -/
def execWaitTimeout (core : Fin 576) (q : Eng) (s : State) : Out :=
  let x := s.queue core q
  .next (if !s.issues core || !((x.waits && decide (x.deadline ≤ s.now)) || (s.core core).sinkOverdue q s.now) then s
    else s.faultCtx core q (mkFault .waitTimeout .timeout))

/-- Is the core deadlocked (R50)? The lowest waiting queue. -/
def Core.deadlock (c : Core) : Option Eng :=
  let live := Eng.all.filter fun e => !(c.queue e).ended
  let idle := Eng.all.all fun e => (c.queue e).flights.isEmpty && (c.queue e).sigs.isEmpty
  if live.all (fun e => (c.queue e).hold == .wait) && idle then live.head? else none

/-- QUEUE_DEADLOCK (R50). -/
def execQueueDeadlock (core : Fin 576) (s : State) : Out :=
  .next (if !s.issues core then s else
    match (s.core core).deadlock with
    | none => s
    | some e => s.faultCtx core e (mkFault .queueDeadlock .faulted))

/-- FENCE (R42, R165, R221): held until the earlier writes of the queue are performed and their invalidations applied at
the scope; the invalidations already in the core's own queue are applied. -/
def execFence (core : Fin 576) (q : Eng) (s : State) : Out :=
  let go (s : State) (w : QWord) : State :=
    let x := s.queue core q
    if x.clearBefore x.seq && s.fenceClear core q (fld w 9 8) then
      s.modCore core fun c => ({ c with l1 := c.l1.applyAll }).setQueue q x.advance
    else s.modQueue core q fun x => { x with hold := .fence }
  let x := s.queue core q
  .next (if x.hold = .fence && s.issues core then
      match tabGet? x.buf x.pos with
      | some w => go s w
      | none => s
    else s.issueOp core q 0x05 fun w =>
      if !(onlyBits w [(9, 0)] && decide (fld w 9 8 ≤ 2)) then s.faultCtx core q illegalParam else go s w)

/-- LOOP (R43, R45). -/
def execLoop (core : Fin 576) (q : Eng) (s : State) : Out :=
  .next (s.issueOp core q 0x06 fun w =>
    let x := s.queue core q
    let body := fld w 19 8
    let count := fld w 47 24
    let last := x.pos + 1 + body
    let fits := match x.loops with
      | [] => decide (last ≤ x.len)
      | l :: _ => decide (last ≤ l.start + l.body) && decide (last ≤ x.len)
    if !(onlyBits w [(19, 0), (47, 24)] && body != 0 && decide (x.loops.length < 4) && fits) then
      s.faultCtx core q illegalParam
    else if count = 0 then s.setQueue core q { x.goto last x.loops with seq := x.seq + 1 }
    else s.setQueue core q { x.goto (x.pos + 1) ({ start := x.pos + 1, body := body, count := count, idx := 0 } :: x.loops)
                             with seq := x.seq + 1 })

/-- The first position at or after the queue's own whose instruction is not in the queue. -/
def Queue.missing (q : Queue) : Nat → Nat → Option Nat
  | 0, _ => none
  | n + 1, p => if q.len ≤ p then none else if (tabGet? q.buf p).isNone then some p else q.missing n (p + 1)

/-- Instructions of a granule enter the queue, which holds 64 (R40, R45). -/
def Queue.addGranule (q : Queue) (p : Nat) (l : Line) : Queue :=
  let a := (q.base + 16 * p) / 64 * 64
  let new := (List.range 4).filterMap fun i =>
    let at_ := a + 16 * i
    if at_ < q.base then none
    else
      let k := (at_ - q.base) / 16
      if q.len ≤ k then none else some (k, (BitVec.ofNat 128 (lineRd l (16 * i) 16) : QWord))
  let buf := new.foldl (fun t x => tabSet t x.1 x.2) q.buf
  let hi := new.foldl (fun m x => if m < x.1 then x.1 else m) 0
  let top := buf.foldl (fun m x => if m < x.1 then x.1 else m) 0
  { q with buf := if top ≤ hi then buf.filter (fun x => decide (hi < x.1 + 64)) else buf.filter (fun x => decide (x.1 < hi + 61)) }

/-- GRANULE_FETCH (R52): the granule that holds the queue's next missing instruction arrives. A queue that stands past
the end of its stream without END takes the fault STREAM_OVERRUN. -/
def execGranuleFetch (core : Fin 576) (q : Eng) (s : State) : Out :=
  let x := s.queue core q
  .next (if !s.issues core || x.ended then s
    else if x.len ≤ x.pos then s.faultCtx core q (mkFault .streamOverrun .faulted)
    else match x.missing 64 x.pos with
      | none => s
      | some p =>
        match s.vread (s.seqVia core q) ((x.base + 16 * p) / 64 * 64) 64 with
        | (.error e, s) => s.stopped core q e
        | (.ok b, s) => s.modQueue core q fun x => x.addGranule p (bytesLine b))

end Sys2Proof.Machine
end

