-- ==== Sys2Proof/Machine/Tge.lean ====
section
/-! DEFINITION. Thread groups: starting and completing TSTARTs (R134 to R136, R166), issue of thread instructions (R139,
R142), branches, collectives and rotation (R144 to R151). -/

namespace Sys2Proof.Machine

/-! Starting groups. -/

/-- TSTART (R134 to R136): its check; with GROUPS 0 a no-op, else it waits at the head of its queue for its slots. -/
def execTstart (core : Fin 576) (s : State) : Out :=
  .next (s.issueOp core .tge 0x10 fun w =>
    let t := (s.core core).tge
    let groups := fld w 14 8
    if !(onlyBits w [(7, 0), (14, 8), (95, 16)] && decide (groups ≤ t.limit.toNat) && decide (groups ≤ 64)
        && fld w 63 16 % 8 == 0) then
      s.faultCtx core .tge illegalParam
    else if groups = 0 then s.modQueue core .tge Queue.advance
    else if t.starts.any fun x => !x.started then s
    else s.modCore core fun c =>
      let q := c.queue .tge
      ({ c with tge := { t with nextTs := t.nextTs + 1
                                starts := t.starts ++ [{ id := t.nextTs, seq := q.seq, groups := groups, pc := fld w 63 16, arg := fld w 95 64 }] }
      } : Core).setQueue .tge { q with hold := .full })

/-- Resident slots that hold no group, ascending. -/
def Tge.freeSlots (t : Tge) : List Nat := (List.range t.limit.toNat).filter fun k => (tabGet? t.groups k).isNone

/-- The groups of a TSTART in the lowest free slots, in index order (R133, R143). -/
def Tge.place (t : Tge) (x : TStart) (core : Nat) : Tge :=
  let z := (t.freeSlots.take x.groups).zip (List.range x.groups)
  { t with groups := z.foldl (fun g p => tabSet g p.1 (startGroup x p.2 core (t.nextAge + p.2))) t.groups
           nextAge := t.nextAge + x.groups
           starts := t.starts.map fun y => if y.id = x.id then { y with started := true } else y }

/-- TSTART_GROUPS_START (R135, R166): every invalidation in the L1's queue is applied, then all groups start. -/
def execTstartGroupsStart (core : Fin 576) (s : State) : Out :=
  let c := s.core core
  .next (match c.tge.starts.find? fun x => !x.started with
    | none => s
    | some x =>
      if !s.issues core || decide (c.tge.freeSlots.length < x.groups) then s
      else
        let q := c.queue .tge
        s.setCore core (({ c with l1 := c.l1.applyAll, tge := c.tge.place x core } : Core).setQueue .tge
          { q.advance with flights := q.flights ++ [{ seq := q.seq, op := 0x10, ts := x.id }] }))

/-- Has every thread of a TSTART exited, and has every write of them been performed or left (R44, R135)? -/
def Tge.finished (t : Tge) (id : Nat) : Bool :=
  (t.starts.any fun x => x.id == id && x.started) && !(t.groups.any fun p => p.2.ts == id) && !(t.stores.any fun e => e.ts.contains id)

/-- TSTART_COMPLETE (R135). -/
def execTstartComplete (core : Fin 576) (index : Nat) (s : State) : Out :=
  let c := s.core core
  .next (if !c.tge.finished index then s
    else
      let q := c.queue .tge
      s.setCore core (({ c with tge := { c.tge with starts := c.tge.starts.filter fun x => x.id != index } } : Core).setQueue .tge
        { q with flights := q.flights.filter fun f => f.ts != index }))

/-! Issue (R139, R142). -/

/-- The thread fault registers and the context fault (R158, R159). -/
def State.threadFault (s : State) (n slot : Nat) (pc : Nat) (lanes : BitVec 32) (f : CtxFault) : State :=
  (s.modCore n fun c => { c with tge := { c.tge with faultLanes := lanes, faultPc := BitVec.ofNat 48 pc, faultGroup := BitVec.ofNat 6 slot } }).faultCtx
    n .tge f

/-- What a stopped access does to its group. -/
def State.threadStop (s : State) (n slot pc : Nat) (lanes : BitVec 32) (x : Stop) : State :=
  match x with
  | .fault f => s.threadFault n slot pc lanes f
  | x => s.stopped n .tge x

/-- The thread instruction at an address, through the instruction cache (R136): where the cached instruction and memory
differ, a free choice takes one of them. -/
def State.threadWord (s : State) (n pc : Nat) : Except Stop DWord × State :=
  let v := s.engVia n .tge
  let fetch (s : State) : Except Stop DWord × State :=
    match s.vread v pc 8 with
    | (.error e, s) => (.error e, s)
    | (.ok b, s) =>
      let w : DWord := BitVec.ofNat 64 (leVal b)
      (.ok w, s.modCore n fun c => { c with tge := { c.tge with icache := tabSet c.tge.icache pc w } })
  match tabGet? (s.core n).tge.icache pc with
  | none => fetch s
  | some w =>
    let same := match (s.vread v pc 8).1 with
      | .ok b => leVal b == w.toNat
      | .error _ => true
    if same then (.ok w, s)
    else
      let (k, s) := s.choose 2
      if k = 0 then (.ok w, s) else fetch s

/-- Registers whose pending write holds the instruction: its sources, and what it writes over (R142). -/
def tHeld (g : Group) (f : TForm) (w : DWord) : Bool :=
  let rs := tSources f w ++ [tD w, tD w + 1]
  let all := tOp w == 0x41 || tOp w == 0x48
  g.did.isEmpty && g.pend.any fun p => (all || g.run.mask.getLsbD p.1) && rs.contains p.2

/-- Issue the instruction of a group's running path if it is the named one (opcode op). An instruction that fails its
check faults whichever was expected; another one, or a group that is not ready, leaves the state as it is. -/
def State.threadOp (s : State) (n slot op : Nat) (f : Group → DWord → State → State) : State :=
  if !s.issues n then s
  else match tabGet? (s.core n).tge.groups slot with
    | none => s
    | some g =>
      if g.bar || g.due.isSome then s
      else match s.threadWord n g.run.pc with
        | (.error e, s) => s.threadStop n slot g.run.pc g.run.mask e
        | (.ok w, s) =>
          if (tForm (tOp w)).isSome && tOp w != op then s
          else match tCheck (s.core n).tge.regs.toNat w with
            | .error x => s.threadFault n slot g.run.pc g.run.mask x
            | .ok form => if tHeld g form w then s else f g w s

/-- The group after its instruction, which has issued. A group without paths has exited and leaves its slot. -/
def State.threadDone (s : State) (n slot : Nat) (g : Group) : State :=
  s.modCore n fun c =>
    { c.bump 9 1 with tge := { c.tge with
        issued := c.tge.issued + 1
        groups := if g.paths.isEmpty then tabDel c.tge.groups slot else tabSet c.tge.groups slot g } }

/-- An instruction that computes each active lane's result from that lane's registers. -/
def State.threadAlu (s : State) (n slot op : Nat) (lane : DWord → Group → Nat → Nat) : State :=
  s.threadOp n slot op fun g w s =>
    s.threadDone n slot ((g.active.foldl (fun h l => h.setReg l (tD w) (lane w g l)) g).step)

/-- An instruction of two single source registers (R140). -/
def tLane (op : Nat) (w : DWord) (g : Group) (l : Nat) : Nat := tTwo op (g.reg l (tA w)) (g.reg l (tB w))

/-- NOP (R138). -/
def execThreadNop (core : Fin 576) (slot : Fin 64) (s : State) : Out :=
  .next (s.threadOp core slot 0x00 fun g _ s => s.threadDone core slot g.step)

/-- EXIT (R146): held while a lane of the path has a register pending. -/
def execExit (core : Fin 576) (slot : Fin 64) (s : State) : Out :=
  .next (s.threadOp core slot 0x01 fun g _ s =>
    if g.pend.any fun p => g.run.mask.getLsbD p.1 then s else s.threadDone core slot g.exit)

/-- The lanes that take a branch: those whose s[A] is zero, or is not. -/
def takenLanes (g : Group) (w : DWord) (zero : Bool) : BitVec 32 :=
  g.active.foldl (fun m l => if (g.reg l (tA w) == 0) == zero then m ||| BitVec.ofNat 32 (2 ^ l) else m) 0

/-- A branch (R145). -/
def State.threadBranch (s : State) (n slot op : Nat) (zero : Bool) : State :=
  s.threadOp n slot op fun g w s =>
    match g.branch (takenLanes g w zero) w with
    | none => s.threadFault n slot g.run.pc g.run.mask (mkFault .divergenceDepth .faulted)
    | some g => s.threadDone n slot g

/-- BRNZ (R145). -/
def execBrnz (core : Fin 576) (slot : Fin 64) (s : State) : Out := .next (s.threadBranch core slot 0x02 false)

/-- BRZ (R145). -/
def execBrz (core : Fin 576) (slot : Fin 64) (s : State) : Out := .next (s.threadBranch core slot 0x03 true)

/-- PATH_ROTATION (R147): a count has reached 64. The group becomes the youngest and its running path yields. -/
def execPathRotation (core : Fin 576) (slot : Fin 64) (s : State) : Out :=
  .next (match tabGet? (s.core core).tge.groups slot with
    | none => s
    | some g =>
      match g.due with
      | none => s
      | some p => if !s.issues core then s else s.modCore core fun c =>
          { c with tge := { c.tge with
              groups := tabSet c.tge.groups slot { g.rotate p with age := c.tge.nextAge }
              nextAge := c.tge.nextAge + 1, rotations := c.tge.rotations + 1 } })

/-! Integer and FP32 arithmetic (R138, R140). -/

/-- ADD. -/
def execAdd (core : Fin 576) (slot : Fin 64) (s : State) : Out := .next (s.threadAlu core slot 0x10 (tLane 0x10))
/-- SUB. -/
def execSub (core : Fin 576) (slot : Fin 64) (s : State) : Out := .next (s.threadAlu core slot 0x11 (tLane 0x11))
/-- MUL. -/
def execMul (core : Fin 576) (slot : Fin 64) (s : State) : Out := .next (s.threadAlu core slot 0x12 (tLane 0x12))
/-- MULHI. -/
def execMulhi (core : Fin 576) (slot : Fin 64) (s : State) : Out := .next (s.threadAlu core slot 0x13 (tLane 0x13))
/-- AND. -/
def execAnd (core : Fin 576) (slot : Fin 64) (s : State) : Out := .next (s.threadAlu core slot 0x14 (tLane 0x14))
/-- OR. -/
def execOr (core : Fin 576) (slot : Fin 64) (s : State) : Out := .next (s.threadAlu core slot 0x15 (tLane 0x15))
/-- XOR. -/
def execXor (core : Fin 576) (slot : Fin 64) (s : State) : Out := .next (s.threadAlu core slot 0x16 (tLane 0x16))
/-- SHL. -/
def execShl (core : Fin 576) (slot : Fin 64) (s : State) : Out := .next (s.threadAlu core slot 0x17 (tLane 0x17))
/-- SHR. -/
def execShr (core : Fin 576) (slot : Fin 64) (s : State) : Out := .next (s.threadAlu core slot 0x18 (tLane 0x18))
/-- SRA. -/
def execSra (core : Fin 576) (slot : Fin 64) (s : State) : Out := .next (s.threadAlu core slot 0x19 (tLane 0x19))
/-- SLT. -/
def execSlt (core : Fin 576) (slot : Fin 64) (s : State) : Out := .next (s.threadAlu core slot 0x1A (tLane 0x1A))
/-- SLTU. -/
def execSltu (core : Fin 576) (slot : Fin 64) (s : State) : Out := .next (s.threadAlu core slot 0x1B (tLane 0x1B))

/-- ADD64: register pairs, modulo 2^64. -/
def execAdd64 (core : Fin 576) (slot : Fin 64) (s : State) : Out :=
  .next (s.threadOp core slot 0x1C fun g w s =>
    s.threadDone core slot ((g.active.foldl (fun h l =>
      h.setPair l (tD w) ((g.pair l (tA w) + g.pair l (tB w)) % 2 ^ 64)) g).step))

/-- ADDI. -/
def execAddi (core : Fin 576) (slot : Fin 64) (s : State) : Out :=
  .next (s.threadAlu core slot 0x1D fun w g l => (g.reg l (tA w) + tImm w) % 2 ^ 32)
/-- MOVI. -/
def execMovi (core : Fin 576) (slot : Fin 64) (s : State) : Out := .next (s.threadAlu core slot 0x1E fun w _ _ => tImm w)
/-- SEL of a thread. -/
def execThreadSel (core : Fin 576) (slot : Fin 64) (s : State) : Out :=
  .next (s.threadAlu core slot 0x1F fun w g l => if g.reg l (tA w) != 0 then g.reg l (tB w) else g.reg l (tC w))

/-- FADD. -/
def execFadd (core : Fin 576) (slot : Fin 64) (s : State) : Out := .next (s.threadAlu core slot 0x20 (tLane 0x20))
/-- FSUB. -/
def execFsub (core : Fin 576) (slot : Fin 64) (s : State) : Out := .next (s.threadAlu core slot 0x21 (tLane 0x21))
/-- FMUL. -/
def execFmul (core : Fin 576) (slot : Fin 64) (s : State) : Out := .next (s.threadAlu core slot 0x22 (tLane 0x22))
/-- FFMA: A × B + C, rounded once. -/
def execFfma (core : Fin 576) (slot : Fin 64) (s : State) : Out :=
  .next (s.threadAlu core slot 0x23 fun w g l =>
    toFp32 (((ofFp32 (g.reg l (tA w))).mul (ofFp32 (g.reg l (tB w)))).add (ofFp32 (g.reg l (tC w)))))
/-- FMIN. -/
def execFmin (core : Fin 576) (slot : Fin 64) (s : State) : Out := .next (s.threadAlu core slot 0x24 (tLane 0x24))
/-- FMAX. -/
def execFmax (core : Fin 576) (slot : Fin 64) (s : State) : Out := .next (s.threadAlu core slot 0x25 (tLane 0x25))
/-- FSLT. -/
def execFslt (core : Fin 576) (slot : Fin 64) (s : State) : Out := .next (s.threadAlu core slot 0x26 (tLane 0x26))
/-- FSEQ. -/
def execFseq (core : Fin 576) (slot : Fin 64) (s : State) : Out := .next (s.threadAlu core slot 0x27 (tLane 0x27))

/-- CVT of a thread (R121 with SCALE_EXP 0). -/
def execThreadCvt (core : Fin 576) (slot : Fin 64) (s : State) : Out :=
  .next (s.threadAlu core slot 0x28 fun w g l => tCvt w (g.reg l (tA w)))

/-- FUNC of a thread: the bits that the VXE gives for FP32 (R125). -/
def execThreadFunc (core : Fin 576) (slot : Fin 64) (s : State) : Out :=
  .next (s.threadAlu core slot 0x29 fun w g l => (funcOp s.hub.feature.toNat .fp32 (fld w 35 32) (g.reg l (tA w))).1)

/-! Group-wide instructions (R149 to R151). -/

/-- VOTE: ANY, ALL or BALLOT over the active lanes. -/
def execVote (core : Fin 576) (slot : Fin 64) (s : State) : Out :=
  .next (s.threadAlu core slot 0x40 fun w g _ =>
    let yes := g.active.filter fun l => g.reg l (tA w) != 0
    match fld w 33 32 with
    | 0 => b2n (!yes.isEmpty)
    | 1 => b2n (yes.length == g.active.length)
    | _ => yes.foldl (fun m l => m + 2 ^ l) 0)

/-- SHFL: s[A] of the lane that bits [4:0] of the own s[B] name, as it stands. -/
def execShfl (core : Fin 576) (slot : Fin 64) (s : State) : Out :=
  .next (s.threadAlu core slot 0x41 fun w g l => g.reg (g.reg l (tB w) % 32) (tA w))

/-- BAR (R150): a converged group waits for the other groups of its TSTART. -/
def execBar (core : Fin 576) (slot : Fin 64) (s : State) : Out :=
  .next (s.threadOp core slot 0x42 fun g _ s =>
    if !g.converged then s.threadFault core slot g.run.pc g.run.mask (mkFault .unconvergedCollective .faulted)
    else s.threadDone core slot { g.step with bar := true })

/-- BAR_RELEASE (R150): every group of the TSTART that still has a lane running has arrived; all go on together. -/
def execBarRelease (core : Fin 576) (index : Nat) (s : State) : Out :=
  let t := (s.core core).tge
  let mine := t.groups.filter fun p => p.2.ts == index
  .next (if !s.issues core || mine.isEmpty || !(mine.all fun p => p.2.bar) then s
    else s.modCore core fun c => { c with tge := { c.tge with
      groups := c.tge.groups.map fun p => (p.1, if p.2.ts = index then { p.2 with bar := false } else p.2) } })

/-- The operand format of GRPMUL (R137). -/
def grpmulFormat (code : Nat) : Format :=
  match code with
  | 0 => .bf16 | 1 => .fp16 | 2 => .e4m3 | _ => .e5m2

/-- GRPMUL (R151): a path of all 32 lanes, two tiles from scratchpad. -/
def execGrpmul (core : Fin 576) (slot : Fin 64) (s : State) : Out :=
  .next (s.threadOp core slot 0x48 fun g w s =>
    let a := g.reg 0 (tA w)
    let b := g.reg 0 (tB w)
    let c := s.core core
    let stop (f : CtxFault) : State := s.threadFault core slot g.run.pc g.run.mask f
    if g.run.mask != 0xFFFFFFFF#32 then stop (mkFault .unconvergedCollective .faulted)
    else if a % 64 != 0 || b % 64 != 0 then stop (mkFault .threadMisaligned .badParam)
    else if !(spOk c.l1Units.toNat a 1024 && spOk c.l1Units.toNat b 1024) then stop spRangeFault
    else
      let out (l : Nat) : List Nat := grpmulLane c.sp (grpmulFormat (fld w 43 40)) a b g w l
      let h := (List.range 32).foldl (fun h l =>
        ((List.range 8).zip (out l)).foldl (fun h p => h.setReg l (tD w + p.1) p.2) h) g
      (s.threadDone core slot h.step).modCore core fun c => c.bump 12 2048)

end Sys2Proof.Machine
end

