-- ==== Sys2Proof/Machine/ThreadMem.lean ====
section
/-! DEFINITION. Memory instructions of threads (R152 to R158): the check of every lane, loads, stores, atomics, fences,
the store buffer. -/

namespace Sys2Proof.Machine

/-- A lane's address: s[A] + OFFSET in scratchpad, pair A + OFFSET modulo 2^64 in virtual memory (R152). -/
def laneAddr (g : Group) (w : DWord) (l : Nat) : Int :=
  if tVa w then ((g.pair l (tA w) : Int) + tOffset w) % ((2 ^ 64 : Nat) : Int) else (g.reg l (tA w) : Int) + tOffset w

/-- Check one lane (R158): where its access leads, no target for scratchpad, or the fault it would raise. -/
def State.laneCheck (s : State) (n : Nat) (need : Right) (g : Group) (w : DWord) (l : Nat) : Except Stop (Option Target) × State :=
  let a := laneAddr g w l
  if a % (tSize w : Int) ≠ 0 then (.error (.fault (mkFault .threadMisaligned .badParam)), s)
  else if !tVa w then
    if a < 0 || !spOk (s.core n).l1Units.toNat a.toNat (tSize w) then (.error (.fault spRangeFault), s) else (.ok none, s)
  else match s.translate (s.engVia n .tge) a.toNat need with
    | (.error e, s) => (.error e, s)
    | (.ok (.aperture pa), s) =>
      (match s.outbound (s.core n).partition.toNat pa (tSize w) need with
       | .error f => .error (.fault f)
       | .ok _ => .ok (some (.aperture pa)), s)
    | (.ok t, s) => (.ok (some t), s)

/-- What checking lanes gives: their targets, the lanes that fault with their faults, and a stop that is no fault. -/
structure LaneChecks where
  targets : List (Nat × Option Target) := []
  faults  : List (Nat × CtxFault) := []
  stop    : Option Stop := none
deriving DecidableEq, Repr

def State.checkLanes (n : Nat) (need : Right) (g : Group) (w : DWord) : List Nat → LaneChecks → State → LaneChecks × State
  | [], x, s => (x, s)
  | l :: ls, x, s =>
    match s.laneCheck n need g w l with
    | (.ok t, s) => State.checkLanes n need g w ls { x with targets := x.targets ++ [(l, t)] } s
    | (.error (.fault f), s) => State.checkLanes n need g w ls { x with faults := x.faults ++ [(l, f)] } s
    | (.error e, s) => ({ x with stop := some e }, s)

/-- What performing one lane gives: a value; a request on its way; nothing yet; a fault that comes with the answer. -/
inductive LaneOut where
  | value (v : Nat) (s : State)
  | waits (s : State)
  | busy (s : State)
  | fault (f : CtxFault) (s : State)
  | faulted (s : State)
deriving DecidableEq, Repr

/-- Perform lanes in ascending order (R154), noting each in the group: the value, or that its response will write the
register. The answer says whether all are done. -/
def State.runLanes (n slot : Nat) (pc : Nat) (f : Nat → Option Target → State → LaneOut) : List (Nat × Option Target) → State → Bool × State
  | [], s => (true, s)
  | (l, t) :: ls, s =>
    match f l t s with
    | .value v s => State.runLanes n slot pc f ls (s.modGroup n slot fun g => { g with did := g.did ++ [(l, some v)] })
    | .waits s => State.runLanes n slot pc f ls (s.modGroup n slot fun g => { g with did := g.did ++ [(l, none)] })
    | .busy s => (false, s)
    | .fault x s => (false, s.threadFault n slot pc (BitVec.ofNat 32 (2 ^ l)) x)
    | .faulted s => (false, s.stopped n .tge .faulted)

/-- Does a lane wait for the response to the present instruction? -/
def Group.awaits (g : Group) : Bool := g.did.any fun d => d.2.isNone

/-- Is the instruction an acquire at device or system scope (R156, R221)? -/
def tAcquire (w : DWord) : Bool := tOrder w % 2 == 1 && decide (2 ≤ tScope w)

/-- An acquire applies the invalidations that are in the L1's queue (R156, R221). -/
def State.freshen (s : State) (n : Nat) (acquire : Bool) : State :=
  if acquire then s.modCore n fun c => { c with l1 := c.l1.applyAll } else s

/-- A memory instruction (R158): its lanes are checked all together before the first is performed, and performed lane by
lane; fin makes the group's registers from the values. An acquire, and an ACAS, end only once their responses are there. -/
def State.threadMem (s : State) (n slot op : Nat) (need : DWord → Right) (ready : DWord → State → Bool)
    (lane : Group → DWord → Nat → Option Target → State → LaneOut) (fin : DWord → Group → Group) : State :=
  s.threadOp n slot op fun g w s =>
    let pc := g.run.pc
    if g.did.isEmpty && !ready w s then s
    else
      let s := s.freshen n (tAcquire w)
      let todo := g.active.filter fun l => !(g.did.any fun d => d.1 == l)
      match State.checkLanes n (need w) g w todo {} s with
      | ({ stop := some .busy, .. }, s) => s
      | ({ stop := some e, .. }, s) => s.stopped n .tge e
      | ({ targets := ts, faults := fs, stop := none }, s) =>
        match fs with
        | f :: _ =>
          let (k, s) := if fs.length = 1 then (0, s) else s.choose fs.length
          s.threadFault n slot pc (fs.foldl (fun m p => m ||| BitVec.ofNat 32 (2 ^ p.1)) 0) ((fs.getD k f).2)
        | [] =>
          match State.runLanes n slot pc (lane g w) ts s with
          | (false, s) => s
          | (true, s) =>
            match tabGet? (s.core n).tge.groups slot with
            | none => s
            | some g =>
              if (tAcquire w || op == 0x3C) && g.awaits then s
              else (s.freshen n (tAcquire w)).threadDone n slot ({ fin w g with did := [] }).step

/-- Write the values of a load or atomic; a lane whose response is on its way is left to it. -/
def finLoad (w : DWord) (g : Group) : Group :=
  g.did.foldl (fun h d => match d.2 with
    | some v => h.setSized d.1 (tD w) (tSize w) v
    | none => h) g

/-! The store buffer (R153). -/

/-- The key of an address in the store buffer: import and line. -/
def targetLine : Target → Option Nat × Nat × Nat
  | .mem pa => (none, pa / 64, pa % 64)
  | .aperture pa => (none, pa / 64, pa % 64)
  | .remote imp ta => (some imp, ta / 64, ta % 64)

def Tge.entry? (t : Tge) (k : Option Nat × Nat × Nat) : Option StoreLine := t.stores.find? fun e => e.imp == k.1 && e.line == k.2.1

/-- The mask of size bytes at an offset. -/
def byteMask (off size : Nat) : BitVec 64 := BitVec.ofNat 64 ((2 ^ size - 1) <<< off)

/-- Lanes may have 64 loads and atomics without response (R142). -/
def Core.loadRoom (c : Core) (slot reg : Nat) : Bool :=
  let out := c.tge.groups.flatMap fun p => p.2.pend.map fun q => (p.1, q.2)
  out.contains (slot, reg) || decide (out.eraseDups.length < 64)

/-- Send a load or atomic away; its registers are pending. -/
def State.sendAway (s : State) (n slot l reg size : Nat) (send : RemoteDest → Option State) : LaneOut :=
  if !(s.core n).loadRoom slot reg then .busy s
  else match send (.regs n slot l reg size) with
    | none => .busy s
    | some s => .waits (s.modGroup n slot fun g => { g with pend := g.pend ++ ((l, reg) :: (if size = 8 then [(l, reg + 1)] else [])) })

/-- The bytes of a line that a load of this core sees: the copy in the L1, or the home's, which the L1 then keeps. -/
def State.l1Load (s : State) (n line : Nat) : Ans × State :=
  let c := s.core n
  match c.l1.find c.l1Units.toNat line with
  | some k => (.done { data := (tabGet {} c.l1.lines k).data }, s.setCore n { c with l1 := c.l1.touch k })
  | none =>
    match s.access { kind := .rdShared, requester := 4 * n, line := line, tag := (s.engVia n .tge).tag } with
    | (.done r, s) => (.done r, s.modCore n fun c => { c with l1 := c.l1.fill c.l1Units.toNat line r.data })
    | x => x

/-- A re-read of a dead line, where the context has asked for it, is a fault in place of the value (R197). -/
def State.rereadOut (s : State) (n : Nat) (reread : Bool) (v : Nat) : LaneOut :=
  if reread && (s.ctx (s.core n).context.toNat).deadFault then .fault (mkFault .deadReread .faulted) s else .value v s

/-- A lane of a load (R152, R153, R189, R194, R212, R323). -/
def State.loadLane (s : State) (n slot : Nat) (g : Group) (w : DWord) (l : Nat) (t : Option Target) : LaneOut :=
  let size := tSize w
  let v := s.engVia n .tge
  match t with
  | none => .value (memRdLE (s.core n).sp (laneAddr g w l).toNat size) (s.modCore n fun c => c.bump 12 size)
  | some t =>
    let k := targetLine t
    let mask := byteMask k.2.2 size
    let e := ((s.core n).tge.entry? k).getD {}
    let own := e.mask &&& mask
    match t with
    | .mem pa =>
      let newest (d : Line) : Nat := lineRd (lineMerge d e.data e.mask) k.2.2 size
      if tLastUse w then
        match s.access { kind := .rdOnce, requester := 4 * n, line := pa / 64, off := pa % 64, len := size, tag := v.tag, lastUse := true } with
        | (.done r, s) => s.rereadOut n r.reread (newest r.data)
        | (.busy, s) => .busy s
        | (.faulted, s) => .faulted s
      else if own = mask then .value (lineRd e.data k.2.2 size) s
      else match s.l1Load n (pa / 64) with
        | (.done r, s) => s.rereadOut n r.reread (newest r.data)
        | (.busy, s) => .busy s
        | (.faulted, s) => .faulted s
    | .aperture pa =>
      if own = mask then .value (lineRd e.data k.2.2 size) s
      else if own != 0 then .busy s
      else match apertureOf pa size with
        | none => .busy s
        | some site => s.sendAway n slot l (tD w) size fun d =>
            some (s.sendOutbound site { kind := .rdOnce, requester := 4 * n, line := pa / 64, off := pa % 64, len := size, tag := v.tag } d).2
    | .remote imp ta =>
      if own = mask then .value (lineRd e.data k.2.2 size) s
      else if own != 0 then .busy s
      else s.sendAway n slot l (tD w) size fun d => (s.sendRemote v 1 0 imp ta size 0 [] (tLastUse w) d).map (·.2)

/-- LD of a thread (R152). -/
def execThreadLd (core : Fin 576) (slot : Fin 64) (s : State) : Out :=
  .next (s.threadMem core slot 0x30 (fun _ => .read) (fun _ _ => true) (fun g w l t s => s.loadLane core slot g w l t) finLoad)

/-- Put bytes into the store buffer: into the entry of their line or into a free one (R142, R153). -/
def Tge.store (t : Tge) (k : Option Nat × Nat × Nat) (size v ts now : Nat) (dead : Bool) : Option Tge :=
  let put (e : StoreLine) : StoreLine :=
    { e with data := lineWr e.data k.2.2 size v, mask := e.mask ||| byteMask k.2.2 size, dead := e.dead || dead, ts := insertNat ts e.ts }
  if (t.entry? k).isSome then
    some { t with stores := t.stores.map fun e => if e.imp == k.1 && e.line == k.2.1 then put e else e }
  else if t.stores.length < 32 then
    some { t with stores := t.stores ++ [put { line := k.2.1, imp := k.1, since := now }] }
  else none

/-- A lane of a store (R152, R153). -/
def State.storeLane (s : State) (n : Nat) (g : Group) (w : DWord) (l : Nat) (t : Option Target) : LaneOut :=
  let v := g.getSized l (tD w) (tSize w)
  match t with
  | none => .value 0 (s.modCore n fun c => (c.spWrite (laneAddr g w l).toNat (leBytes (tSize w) v)).bump 12 (tSize w))
  | some t =>
    match (s.core n).tge.store (targetLine t) (tSize w) v g.ts s.now (tLastUse w) with
    | none => .busy s
    | some x => .value 0 (s.modCore n fun c => { c with tge := x })

/-- May a release at a scope go on (R155)? At device scope the store buffer is empty and every write has its COMP; at
system scope every remote write has its acknowledgement. -/
def State.releaseClear (s : State) (n scope : Nat) : Bool :=
  if scope < 2 then true
  else (s.core n).tge.stores.isEmpty &&
    (s.cache.writes.all fun x => !(x.core == some n && x.queue == 2) || x.comp) && s.outboundClear n 2 &&
    (scope < 3 || (s.fab.tracker.all fun o => !(o.core == n && o.queue == 2 && lineRd o.hdr 0 1 != 1)))

/-- Is the release, if the instruction is one, done? -/
def releaseReady (n : Nat) (w : DWord) (s : State) : Bool := tOrder w < 2 || s.releaseClear n (tScope w)

/-- ST of a thread (R153): with ORDER 2 its release comes first. -/
def execThreadSt (core : Fin 576) (slot : Fin 64) (s : State) : Out :=
  .next (s.threadMem core slot 0x31 (fun _ => .write) (releaseReady core) (fun g w l t s => s.storeLane core g w l t) fun _ g => g.retire)

/-- Runs of set bits of a mask: offset and length. -/
def maskRuns (m : BitVec 64) : List (Nat × Nat) :=
  ((List.range 64).filter fun i => m.getLsbD i).foldl (fun rs i => match rs with
    | (o, k) :: r => if o + k = i then (o, k + 1) :: r else (i, 1) :: (o, k) :: r
    | [] => [(i, 1)]) []

/-- Send the runs of an entry to another device, one WRITE each; what does not find a tracker entry stays. -/
def State.sendRuns (v : Via) (imp line : Nat) (dead : Bool) : List (Nat × Nat) → StoreLine → State → StoreLine × State
  | [], e, s => (e, s)
  | r :: rs, e, s =>
    match s.sendRemote v 2 0 imp (64 * line + r.1) r.2 0 (leBytes r.2 (lineRd e.data r.1 r.2)) dead
        (.ack (v.tag.core.getD 0xFFFF) v.tag.queue) with
    | none => (e, s)
    | some (_, s) => State.sendRuns v imp line dead rs { e with mask := e.mask &&& ~~~(byteMask r.1 r.2) } s

/-- Drain one entry (R153, R189): its bytes go into the L1's copy and to the home as one write. The answer says whether
the entry is gone. -/
def State.drainEntry (s : State) (n : Nat) (e : StoreLine) : Bool × State :=
  let v := s.engVia n .tge
  let gone (s : State) : State := s.modCore n fun c =>
    { c with tge := { c.tge with stores := c.tge.stores.filter fun x => !(x.imp == e.imp && x.line == e.line) } }
  match e.imp with
  | some imp =>
    let (e', s) := State.sendRuns v imp e.line e.dead (maskRuns e.mask).reverse e s
    if e'.mask = 0 then (true, gone s)
    else (false, s.modCore n fun c => { c with tge := { c.tge with stores := c.tge.stores.map fun x => if x.imp == e.imp && x.line == e.line then e' else x } })
  | none =>
    let r : Req := { kind := .wrThrough, requester := 4 * n, line := e.line, data := e.data, mask := e.mask, tag := v.tag, lastUse := e.dead }
    if inMemory e.line then
      match s.access r with
      | (.done _, s) => (true, gone (s.modCore n fun c => { c with l1 := c.l1.write c.l1Units.toNat e.line e.data e.mask }))
      | (.busy, s) => (false, s)
      | (.faulted, s) => (false, s.stopped n .tge .faulted)
    else match apertureOf (64 * e.line) 64 with
      | none => (false, s)
      | some k =>
        match (s.site k).state with
        | .admitted => (true, gone (s.sendOutbound k { r with kind := .wrInv } (.ack n 2)).2)
        | _ => (true, (gone s).refused n 2 (mkFault .partnerTimeout .timeout))

/-- STORE_BUFFER_DRAIN (R153). -/
def execStoreBufferDrain (core : Fin 576) (index : Fin 32) (s : State) : Out :=
  .next (if !s.serving then s else
    match (s.core core).tge.stores[index.val]? with
    | none => s
    | some e => (s.drainEntry core e).2)

/-! Atomics (R154, R178). -/

/-- A lane of an atomic: at the local array, at the home slice, at the owning device or the partner. Bytes of the line that
the store buffer still holds go first. -/
def State.atomicLane (s : State) (n slot : Nat) (op : AtomOp) (aop : Nat) (g : Group) (w : DWord) (l : Nat) (t : Option Target) : LaneOut :=
  let size := tSize w
  let v := s.engVia n .tge
  let x := g.getSized l (tB w) size
  let cmp := if op = .cas then g.getSized l (tC w) size else 0
  match t with
  | none =>
    let a := (laneAddr g w l).toNat
    let old := memRdLE (s.core n).sp a size
    let new := atomicValue op size old x cmp
    .value old (s.modCore n fun c => (if new.2 then c.spWrite a (leBytes size new.1) else c).bump 12 size)
  | some t =>
    let k := targetLine t
    let (clear, s) := match (s.core n).tge.entry? k with
      | none => (true, s)
      | some e => s.drainEntry n e
    if !clear || (s.core n).stopped then .busy s
    else
      let r (pa : Nat) : Req := { kind := .atomic, requester := 4 * n, line := pa / 64, off := pa % 64, len := size, data := BitVec.ofNat 512 x
                                  cmp := BitVec.ofNat 64 cmp, op := op, tag := v.tag, lastUse := tLastUse w }
      match t with
      | .mem pa =>
        match s.access (r pa) with
        | (.done y, s) =>
          let s := if tLastUse w then s else s.modCore n fun c => { c with l1 := c.l1.fill c.l1Units.toNat (pa / 64) (s.peekLine (pa / 64)) }
          s.rereadOut n y.reread (lineRd y.data (pa % 64) size)
        | (.busy, s) => .busy s
        | (.faulted, s) => .faulted s
      | .aperture pa =>
        match apertureOf pa size with
        | none => .busy s
        | some site => s.sendAway n slot l (tD w) size fun d => some (s.sendOutbound site (r pa) d).2
      | .remote imp ta =>
        s.sendAway n slot l (tD w) size fun d =>
          (s.sendRemote v 3 (aop + 16 * fld w 45 44) imp ta 0 (x + 2 ^ 64 * cmp) [] (tLastUse w) d).map (·.2)

/-- An atomic retires a store, but for an ACAS whose comparison failed in every active lane (R147). -/
def finAtomic (cas : Bool) (w : DWord) (g : Group) : Group :=
  let h := finLoad w g
  if cas && g.did.all fun d => d.2 != some (g.getSized d.1 (tC w) (tSize w)) then h else h.retire

/-- An atomic instruction. -/
def State.threadAtomic (s : State) (n slot op : Nat) (a : AtomOp) : State :=
  s.threadMem n slot op (fun _ => .atomic) (releaseReady n) (fun g w l t s => s.atomicLane n slot a (op - 0x38) g w l t) (finAtomic (a == .cas))

/-- AADD: wraps at the width of SIZE. -/
def execAadd (core : Fin 576) (slot : Fin 64) (s : State) : Out := .next (s.threadAtomic core slot 0x38 .add)
/-- AMIN: signed. -/
def execAmin (core : Fin 576) (slot : Fin 64) (s : State) : Out := .next (s.threadAtomic core slot 0x39 .min)
/-- AMAX: signed. -/
def execAmax (core : Fin 576) (slot : Fin 64) (s : State) : Out := .next (s.threadAtomic core slot 0x3A .max)
/-- AEXCH. -/
def execAexch (core : Fin 576) (slot : Fin 64) (s : State) : Out := .next (s.threadAtomic core slot 0x3B .exch)
/-- ACAS: writes s[B] where the old value equals s[C]. -/
def execAcas (core : Fin 576) (slot : Fin 64) (s : State) : Out := .next (s.threadAtomic core slot 0x3C .cas)
/-- AFADD: FP32. -/
def execAfadd (core : Fin 576) (slot : Fin 64) (s : State) : Out := .next (s.threadAtomic core slot 0x3D .fadd)

/-- FENCE of a thread (R155, R156): a release waits for the earlier writes at its scope, an acquire at device or system
scope applies the invalidations that are in the L1's queue. -/
def execThreadFence (core : Fin 576) (slot : Fin 64) (s : State) : Out :=
  .next (s.threadOp core slot 0x3F fun g w s =>
    if !releaseReady core w s then s
    else (s.freshen core (tAcquire w)).threadDone core slot g.step)

/-- INVALIDATION_APPLY (R221): the oldest entry of the invalidation queue. -/
def execInvalidationApply (core : Fin 576) (s : State) : Out :=
  .next (s.modCore core fun c => { c with l1 := c.l1.applyOne })

end Sys2Proof.Machine
end

