-- ==== Sys2Proof/Machine/Scheduler.lean ====
section
/-! DEFINITION. Sharing a core (R399, R400), pre-emption (R402 to R406), deadlines and the fallback model (R408, R409), the run
limit (R380), teardown (R411, R412) and the Function Level Reset (R388). -/

namespace Sys2Proof.Machine

/-! Who waits for a core. -/

/-- The LAUNCH, of a context, that waits for a core, the oldest first. -/
def State.waiter (s : State) (ctx n : Nat) : Option (Cmd × Launch) :=
  s.cmds.findSome? fun c => match c.launch with
    | some l => if c.ctx = ctx && l.active && decide (l.kernel.first ≤ n) && l.waiting.contains (n - l.kernel.first) then some (c, l) else none
    | none => none

/-- The saved state of a context on a core. -/
def State.savedOn (s : State) (ctx n : Nat) : Option Core := tabGet? (tabGet [] s.saved ctx) n

/-- Contexts with a kernel waiting for a core, not started or saved (R399). -/
def State.waitingOn (s : State) (n : Nat) : List Nat :=
  (List.range 256).filter fun c => (s.waiter c n).isSome || (s.savedOn c n).isSome

/-- The context with the smallest V(c, n); the first in the list wins a tie (R399). -/
def smallestV (v : Tab Nat) : List Nat → Option Nat
  | [] => none
  | c :: cs => some (cs.foldl (fun b x => if zGet v x < zGet v b then x else b) c)

/-! Giving a core to a context. -/

/-- A core assigned to a kernel that has not started on it: its core start follows. -/
def State.assign (s : State) (n : Nat) (c : Cmd) (l : Launch) : State :=
  let k := l.kernel
  let i := n - k.first
  let s := s.modCore n fun x => { x with
    assigned := true, context := BitVec.ofNat 8 c.ctx, partition := (s.ctx c.ctx).partition
    cmd := c.id, model := b2n l.switched, index := i, kernel := k }
  s.modCmd c.id fun y => { y with launch := some { l with waiting := l.waiting.filter (· != i) } }

/-- What a saved state and the core it returns to make together (R402, R404): the core keeps its own counters, level and
the status of its last kernel; waits go on with the time they had left. -/
def Core.restored (saved phys : Core) (now : Nat) : Core :=
  let late (c : Cpe) (p : Cpe) : Cpe :=
    { nextId := max c.nextId p.nextId, copies := c.copies.map fun y => { y with since := now - y.since } }
  { saved with
    busy := phys.busy, waited := phys.waited, level := phys.nextLevel, nextLevel := phys.nextLevel
    counts := phys.counts, energy := phys.energy, leak := phys.leak, lastStatus := phys.lastStatus, faulted := phys.faulted
    faultQueue := phys.faultQueue, faultReason := phys.faultReason
    mxe := { saved.mxe with slabs := phys.mxe.slabs }, vxe := { saved.vxe with elems := phys.vxe.elems }
    tge := { saved.tge with issued := phys.tge.issued, rotations := phys.tge.rotations, icache := [] }
    cpe0 := late saved.cpe0 phys.cpe0, cpe1 := late saved.cpe1 phys.cpe1
    queues := saved.queues.map fun q => (q.1, { q.2 with deadline := q.2.deadline + now, notice := q.2.hold == .waitmem }) }

/-- The state that a pre-emption saves (R402, R404): deadlines as the time that is left, a sink's wait as the time it has
waited. -/
def Core.toSave (c : Core) (now since : Nat) : Core :=
  let aged (x : Cpe) : Cpe := { nextId := x.nextId, copies := x.copies.map fun y => { y with since := now - y.since } }
  { c with
    resided := c.resided + (now - since), l1 := {}, tlb := [], prev := none
    cpe0 := aged c.cpe0, cpe1 := aged c.cpe1
    queues := c.queues.map fun q => (q.1, { q.2 with deadline := q.2.deadline - now }) }

/-- A queue held in WAITMEM reads its cell afresh (R404). -/
def State.retest (s : State) (n : Nat) (e : Eng) : State :=
  let q := s.queue n e
  if q.hold = .waitmem && !(s.core n).stopped then
    match tabGet? q.buf q.pos with
    | some w => s.tryWaitmem n e w
    | none => s
  else s

/-- Restore a context's saved state on a core (R402 steps 5 and 6). -/
def State.restore (s : State) (n ctx : Nat) (saved : Core) : State :=
  let s := { s with saved := tabSet s.saved ctx (tabDel (tabGet [] s.saved ctx) n) }
  let s := s.setCore n (saved.restored (s.core n) s.now)
  let s := s.setPlan n { s.plan n with since := s.now, next := none }
  Eng.all.foldl (fun s e => s.retest n e) s

/-- A free core goes to a context that waits for it. -/
def State.giveCore (s : State) (n ctx : Nat) : State :=
  match s.savedOn ctx n with
  | some c => s.restore n ctx c
  | none => match s.waiter ctx n with
    | some (c, l) => s.assign n c l
    | none => s

/-- SCHEDULER_DECISION (R399): for a free core, and for one whose resident context has held it for 1 ms. -/
def execSchedulerDecision (core : Fin 576) (s : State) : Out :=
  let c := s.core core
  let p := s.plan core
  let w := s.waitingOn core
  .next (if !s.serving || c.assigned || c.stopped then s
    else if !c.resident then
      match smallestV p.v w with
      | some x => s.giveCore core x
      | none => s
    else if p.next.isSome || s.now < p.since + 10 ^ 6 then s
    else
      let me := c.context.toNat
      match smallestV p.v (me :: w.filter (· != me)) with
      | some x => if x = me then s.setPlan core { p with since := s.now } else s.setPlan core { p with next := some x }
      | none => s)

/-! Pre-emption. -/

/-- Complete what the VXE has started (R402 step 2). -/
def Core.finishVxe : Nat → Core → Core
  | 0, c => c
  | n + 1, c => match (c.queue .vxe).flights with
    | [] => c
    | f :: _ => Core.finishVxe n (c.complete .vxe 0 f)

/-- Drain the store buffer as far as its homes take it. -/
def State.drainStores (n : Nat) : Nat → State → State
  | 0, s => s
  | k + 1, s => match (s.core n).tge.stores with
    | [] => s
    | e :: _ => match s.drainEntry n e with
      | (true, s) => State.drainStores n k s
      | (false, s) => s

/-- Descriptors all of whose units have started complete (R404). -/
def State.finishCopies (s : State) (n : Nat) : State :=
  [0, 1].foldl (fun s k =>
    ((((s.core n).cpeOf k).copies.filter fun c => c.wr == dLen c.raw).map (·.id)).foldl (fun s id => s.driveCopy n k id) s) s

/-- Is the core drained (R402 step 2, R405): no store, no pending register, no unit without its response, no write of the
core still to be acknowledged, no request away? -/
def State.drained (s : State) (n : Nat) : Bool :=
  let c := s.core n
  let copies := c.cpe0.copies ++ c.cpe1.copies
  c.tge.stores.isEmpty && c.tge.groups.all (fun g => g.2.pend.isEmpty)
    && copies.all (fun y => y.owed == 0 && (y.wr != dLen y.raw || dDstKind y.raw == 2) && s.copyComp y)
    && s.cache.writes.all (fun w => w.core != some n) && s.fab.tracker.all (fun o => o.core != n)
    && s.links.sites.all fun p => p.2.outbound.all fun o => o.req.tag.core != some n

/-- PREEMPTION (R402 to R405): the steps from the drain to the restore or the assignment. While the core is not drained it
drains what it can; a kernel that is ending ends first. -/
def execPreemption (core : Fin 576) (s : State) : Out :=
  .next (match (s.plan core).next with
    | none => s
    | some x =>
      if !s.live core || s.quiet core then s
      else if !(s.waitingOn core).contains x then s.setPlan core { s.plan core with next := none }
      else
        let s := s.modCore core fun c => Core.finishVxe 64 c
        let s := (State.drainStores core 32 s).finishCopies core
        if !s.live core || !s.drained core then s
        else
          let c := s.core core
          let me := c.context.toNat
          let s := { s with saved := tabSet s.saved me (tabSet (tabGet [] s.saved me) core (c.toSave s.now (s.plan core).since)) }
          let s := s.modCtx me fun y => { y with switches := y.switches + 1 }
          let s := s.setCore core { c.vacant with sp := [], vxe := { elems := c.vxe.elems }, prev := none }
          (s.setPlan core { s.plan core with next := none }).giveCore core x)

/-! Deadlines. -/

/-- E_p or E_f: the largest duration kept for a descriptor address (R407). -/
def Ctx.longest (x : Ctx) (addr : Nat) : Nat :=
  (((x.durations.find? fun p => p.1 == addr).map (·.2)).getD []).foldl max 0

/-- The residency of the core of an index in the primary's kernel, if it has started (R408). -/
def State.residency (s : State) (id i first : Nat) : Option Nat :=
  let n := first + i
  let c := s.core n
  if c.resident && c.cmd == id && c.model == 0 then some (c.resided + (s.now - (s.plan n).since))
  else
    (s.saved.findSome? fun p => match tabGet? p.2 n with
      | some k => if k.cmd = id && k.model == 0 then some k.resided else none
      | none => none)

/-- The projection of R408 at the present time. -/
def State.projection (s : State) (c : Cmd) (l : Launch) : Nat :=
  let e := (s.ctx c.ctx).longest l.prim.desc
  let left := (List.range l.prim.count).filter fun i => !l.ended0.contains i
  left.foldl (fun m i => max m (match s.residency c.id i l.prim.first with
    | some r => s.now + (e - r)
    | none => s.now + e)) 0

/-- The switch to the fallback model (R409). -/
def State.switchModel (s : State) (c : Cmd) (l : Launch) (f : Kernel) : State :=
  let m0 := l.markOf
  let s := s.stopModel c.id 0 Status.aborted.code
  let s := s.modCmd c.id fun y => { y with launch := some { l with switched := true, m0 := m0, prog0 := l.progress, waiting := [], active := false } }
  let s := s.queueKernel c.id f m0
  let s := s.modCtx c.ctx fun x => { x with dlSwitches := if x.dlSwitches = 0xFFFF then x.dlSwitches else x.dlSwitches + 1 }
  match (s.cmd? c.id).bind (·.launch) with
  | none => s
  | some l => s.update c.id fun y => { y with info := 1, progress := BitVec.ofNat 32 l.progress, mark := BitVec.ofNat 32 l.markOf }

/-- One evaluation of a LAUNCH by the deadline monitor (R408); without FALLBACK it only sets LATE. -/
def State.evaluate (s : State) (c : Cmd) (l : Launch) : State :=
  match s.deadlineOf l with
  | none => s
  | some d =>
    let s := if d < s.now then s.noteLate c l else s
    let l := { l with late := l.late || decide (d < s.now) }
    match l.fall with
    | none => s
    | some f =>
      let ef := (s.ctx c.ctx).longest f.desc
      if !l.switched && (decide (d < s.projection c l) || decide (d ≤ s.now + ef + 100000)) then s.switchModel c l f else s

/-- DEADLINE_EVALUATION (R408): of the LAUNCH at an index of a ring. -/
def execDeadlineEvaluation (fn : Fin 16) (ring : Fin 4) (index : BitVec 32) (s : State) : Out :=
  .next (match s.cmdAt fn ring index.toNat with
    | none => s
    | some c => match c.launch with
      | none => s
      | some l => if !s.serving || (s.ctx c.ctx).state == .tearing then s else s.evaluate c l)

/-! Teardown. -/

/-- A context enters its teardown (R411); one in progress goes on as it is. -/
def State.tear (s : State) (ctx : Nat) (t : Teardown) : State :=
  s.modCtx ctx fun x => if x.tear.isSome then x else { x with state := .tearing, tear := some { t with started := s.now } }

/-- RUN_LIMIT_EXPIRY (R380): the context of the LAUNCH is torn down. -/
def execRunLimitExpiry (fn : Fin 16) (ring : Fin 4) (index : BitVec 32) (s : State) : Out :=
  .next (match s.cmdAt fn ring index.toNat with
    | none => s
    | some c => match c.launch with
      | none => s
      | some l =>
        if !s.serving || s.now < l.startAt + l.runLimit * 10 ^ 6 then s
        else s.tear c.ctx { cause := .runLimit, cmd := some c.id })

/-- Segment entries of a context are freed (R320). -/
def State.freeSegs (s : State) (ctx : Nat) : State :=
  let mine := s.fab.segs.filter fun p => decide (16 ≤ p.1) && p.2.context == ctx
  let gens := mine.foldl (fun t p => if p.2.kind = 2 then tabSet t p.1 p.2.generation else t) s.fab.gens
  { s with fab := { s.fab with segs := s.fab.segs.filter (fun p => decide (p.1 < 16) || p.2.context != ctx), gens := gens } }

/-- The streams of a context stop (R336). -/
def State.stopStreams (s : State) (ctx : Nat) : State :=
  let stop (x : Schedule) : Schedule :=
    let mine := x.streams.filter fun r => r.context == ctx
    { x with str := mine.foldl (fun t r => tabMod {} t r.stream fun y => { y with stopped := true }) x.str }
  { s with sol := { s.sol with sched := s.sol.sched.map fun p => (p.1, stop p.2) } }

/-- BAR2 mappings of a context are undone (R382). -/
def State.unmapApertures (s : State) (ctx : Nat) : State :=
  { s with fns := s.fns.map fun p => (p.1, if p.2.mapped && p.2.context.toNat == ctx then { p.2 with mapped := false, vaBase := 0, context := 0 } else p.2) }

/-- Cores that hold, or are assigned to, a context. -/
def State.ctxCores (s : State) (ctx : Nat) : List Nat :=
  (s.cores.filter fun p => (p.2.resident || p.2.assigned) && p.2.context.toNat == ctx).map (·.1)

/-- Have the outstanding requests of a context been answered (step 2)? -/
def State.answered (s : State) (ctx : Nat) : Bool :=
  s.fab.tracker.all (fun o => lineRd o.hdr 4 1 != ctx)
    && s.links.sites.all (fun p => p.2.outbound.all fun o => o.req.tag.ctx != ctx)
    && s.cache.writes.all (fun w => w.ctx != ctx || w.comp)
    && s.fab.inbound.all fun i => decide (lineRd i.hdr 0x10 4 % 2 ^ 21 < 16) || (tabGet {} s.fab.segs (lineRd i.hdr 0x10 4 % 2 ^ 21)).context != ctx

/-- Calendar entries armed for a context are freed (R293). -/
def State.freeCal (s : State) (ctx : Nat) : State :=
  { s with cal := { s.cal with entries := s.cal.entries.filter fun p => p.1 < 256 || p.2.context.toNat != ctx } }

/-- Step 3 of a teardown: what the context holds is freed, its cores are vacated and forget it (R411, R412). -/
def State.release (s : State) (ctx : Nat) (t : Teardown) : State :=
  let st (c : Core) : Nat := if t.cmd = some c.cmd then
      (match t.cause with | .fault => Status.faulted.code | .runLimit => Status.timeout.code | _ => Status.aborted.code)
    else Status.aborted.code
  let s := (s.ctxCores ctx).foldl (fun s n => s.vacate n (st (s.core n))) s
  let s : State := { s with cores := s.cores.map fun p => (p.1, if p.2.prev.any (fun x => x.1 == ctx) then { p.2 with prev := none } else p.2) }
  let s := (((s.freeCal ctx).freeSegs ctx).stopStreams ctx).unmapApertures ctx
  { s with hdTlb := tabDel s.hdTlb ctx }

/-- Step 4: final statuses. -/
def State.tearStatuses (s : State) (ctx : Nat) (t : Teardown) : State :=
  let mine := s.cmds.filter fun c => c.namesCtx && c.ctx == ctx && c.started && !c.status.final
  mine.foldl (fun s c =>
    if t.cmd = some c.id then
      match t.cause with
      | .fault => s.finish c.id .faulted t.reason
      | .runLimit => s.finish c.id .timeout
      | _ => s
    else s.cancel c.id) s

/-- A context number that has become free: its counters stand until it is created again (R392, R416). -/
def Ctx.freed (x : Ctx) : Ctx :=
  { partition := x.partition, time := x.time, switches := x.switches, dlSwitches := x.dlSwitches, late := x.late }

/-- Step 5: the resulting state. -/
def State.tearEnd (s : State) (ctx : Nat) (t : Teardown) : State :=
  match t.cause with
  | .destroy =>
    let s := s.modCtx ctx Ctx.freed
    match t.cmd with
    | some id => s.finish id .ok
    | none => s
  | .flr => s.modCtx ctx Ctx.freed
  | _ => s.modCtx ctx fun x => { x with state := .faulted, tear := none, reason := t.reason }

def State.setStep (s : State) (ctx k : Nat) : State :=
  s.modCtx ctx fun x => { x with tear := x.tear.map fun t => { t with step := k } }

/-- The next step of a context's teardown. -/
def State.tearStep (s : State) (ctx : Nat) : State :=
  match (s.ctx ctx).tear with
  | none => s
  | some t =>
    match t.step with
    | 0 =>
      let s := (s.ctxCores ctx).foldl (fun s n => s.modCore n fun c => { c with stopped := true }) s
      ({ s with saved := tabDel s.saved ctx }).setStep ctx 1
    | 1 => if s.answered ctx then s.setStep ctx 2 else s
    | 2 => (s.release ctx t).setStep ctx 3
    | 3 => (s.tearStatuses ctx t).setStep ctx 4
    | _ => s.tearEnd ctx t

/-- TEARDOWN (R411): the next step of the table Teardown steps for a context. -/
def execTeardown (ctx : BitVec 8) (s : State) : Out :=
  .next (if !s.serving then s else s.tearStep ctx.toNat)

/-! Function Level Reset. -/

/-- The rings, commands, aperture and contexts of a function are reset (R388); during a recovery the teardowns come at its
end (R457). -/
def State.resetFn (s : State) (fn : Nat) : State :=
  let mine := s.cmds.filter fun c => c.fn == fn
  let s : State := { s with cmds := s.cmds.map fun c => if c.fn = fn then { c with mute := true } else c }
  let s := mine.foldl (fun s c => s.cancel c.id) s
  let s := s.setFn fn {}
  let made := (s.ctxs.filter fun p => p.2.creator == fn && p.2.state != .free).map (·.1)
  made.foldl (fun s c =>
    if (s.ctx c).state = .faulted && s.serving then s.modCtx c Ctx.freed else s.tear c { cause := .flr }) s

/-- FUNCTION_LEVEL_RESET (R388). -/
def execFunctionLevelReset (fn : Fin 16) (s : State) : Out := .next (s.resetFn fn)

end Sys2Proof.Machine
end

