-- ==== Sys2Proof/Machine/Commands.lean ====
section
/-! DEFINITION. Commands of the host about contexts, kernels and the calendar (R291 to R297, R363, R364, R377 to R382,
R387, R393, R447). -/

namespace Sys2Proof.Machine

/-! NOP and QUERY. -/

/-- CMD_NOP (R377). -/
def execCmdNop (fn : Fin 16) (ring : Fin 4) (index : BitVec 32) (s : State) : Out :=
  .next (s.startCmd fn ring index.toNat 0x00 (fun s c => s.inOrder c (.ok ()) (.ok ()) (.ok ())) fun s c => s.finish c.id .ok)

/-- A fault record as R445 lays it out. -/
def FaultRec.bytes (r : FaultRec) (number : Nat) : List Byte :=
  let flags := b2n r.tagValid + 2 * b2n r.remote + 4 * b2n r.host + 8 * b2n r.governing + 16 * b2n r.subsumed
  let b := leBytes 4 number ++ [r.cls, r.cause, r.status, BitVec.ofNat 8 flags] ++ leBytes 8 r.time.toNat
    ++ [r.context, BitVec.ofNat 8 r.partition.toNat] ++ leBytes 2 r.srcDevice.toNat ++ leBytes 2 r.core.toNat ++ [r.queue, r.die]
    ++ leBytes 8 r.addr.toNat ++ leBytes 8 r.detail.toNat ++ leBytes 4 r.seq.toNat ++ [r.ring, r.function] ++ List.replicate 14 0
  b ++ leBytes 4 (crc32 b)

/-- A record as QUERY copies it for a function (R447). -/
def State.queryRecord (s : State) (fn n : Nat) : List Byte :=
  match tabGet? s.log.recs n with
  | none => List.replicate 64 0
  | some r => if fn != 0 && (!r.tagValid || r.partition.toNat != fn) then List.replicate 64 0 else r.bytes n

/-- Records held: NEXT - 4,096 to NEXT - 1 (R444). -/
def State.holdsRecord (s : State) (n : Nat) : Bool := decide (n < s.log.next.toNat) && decide (s.log.next.toNat ≤ n + 4096)

/-- Write the result of a command to host memory or to its context's memory (R379). -/
def State.resultTo (s : State) (c : Cmd) (kinds dst : Nat) (bs : List Byte) : Except Stop Unit × State :=
  if kinds % 2 = 0 then (.ok (), s.hostWrite c.fn dst bs) else s.vwrite (s.hdVia c.ctx) dst bs

def queryParams (s : State) (c : Cmd) : Chk :=
  let block := c.f 0x0C 1
  let index := c.f 0x10 4
  let n := c.f 0x14 4
  s.inOrder c (.ok ())
    (do
      par (decide (block ≤ 1)) 0x0C
      par (decide (c.f 0x0D 1 ≤ 1)) 0x0D
      c.zero 0x0E 0x10
      par (if block = 0 then index % 4 == 0 && decide (index + n ≤ 2 ^ 24) else s.holdsRecord index) 0x10
      par (n % (if block = 0 then 4 else 64) == 0 && decide (n ≤ 2 ^ 20)) 0x14
      par (c.f 0x18 8 % 8 == 0) 0x18)
    (.ok ())

/-- The bytes that a QUERY copies. -/
def State.queryBytes (s : State) (c : Cmd) : List Byte :=
  let index := c.f 0x10 4
  let n := c.f 0x14 4
  if c.f 0x0C 1 = 0 then (List.range (n / 4)).flatMap fun k => leBytes 4 (s.reg32 c.fn (index + 4 * k))
  else (List.range (n / 64)).flatMap fun k => s.queryRecord c.fn (index + k)

/-- QUERY (R447). -/
def execQuery (fn : Fin 16) (ring : Fin 4) (index : BitVec 32) (s : State) : Out :=
  .next (s.startCmd fn ring index.toNat 0x01 queryParams fun s c =>
    match s.resultTo c (c.f 0x0D 1) (c.f 0x18 8) (s.queryBytes c) with
    | (.error x, s) => s.cmdStop c.id x
    | (.ok _, s) =>
      let n := BitVec.ofNat 32 (c.f 0x14 4)
      (s.modCmd c.id fun x => { x with progress := n, mark := n }).finish c.id .ok)

/-! Contexts. -/

def createParams (s : State) (c : Cmd) : Chk :=
  let root := c.f 0x0C 8
  let first := c.f 0x18 2
  let count := c.f 0x1A 2
  s.inOrder c
    (match s.partOfCtx c.ctx with
      | none => chk false .denied
      | some p =>
        let x := s.part p
        chk (x.usable root 4096 && (count == 0 || (decide (x.coreFirst.toNat ≤ first) && decide (first + count ≤ x.coreFirst.toNat + x.coreCount.toNat)))) .denied)
    (do
      par (root % 4096 == 0) 0x0C
      par (c.f 0x14 2 != 0) 0x14
      par (decide (c.f 0x16 1 ≤ 3)) 0x16
      par (decide (c.f 0x17 1 ≤ 3)) 0x17
      par (decide (1 ≤ count) && decide (count ≤ 576)) 0x1A)
    (.ok ())

/-- CTX_CREATE (R393). -/
def execCtxCreate (fn : Fin 16) (ring : Fin 4) (index : BitVec 32) (s : State) : Out :=
  .next (s.startCmd fn ring index.toNat 0x08 createParams fun s c =>
    let attr := c.f 0x17 1
    let x : Ctx :=
      { state := .created, partition := BitVec.ofNat 4 ((s.partOfCtx c.ctx).getD 0), level := BitVec.ofNat 2 (c.f 0x16 1)
        exactFault := attr.testBit 0, deadFault := attr.testBit 1, share := BitVec.ofNat 16 (c.f 0x14 2)
        root := BitVec.ofNat 48 (c.f 0x0C 8), coreFirst := c.f 0x18 2, coreCount := c.f 0x1A 2, creator := fn }
    (s.setCtx c.ctx x).finish c.id .ok)

def attrParams (s : State) (c : Cmd) : Chk :=
  let mask := c.f 0x0C 1
  s.inOrder c (.ok ())
    (do
      par (decide (mask ≤ 7)) 0x0C
      c.zero 0x0D 0x0E
      par (!mask.testBit 0 || c.f 0x0E 2 != 0) 0x0E
      par (!mask.testBit 1 || decide (c.f 0x10 1 ≤ 3)) 0x10
      par (decide (c.f 0x11 1 ≤ 3)) 0x11)
    (.ok ())

/-- CTX_ATTR (R379). -/
def execCtxAttr (fn : Fin 16) (ring : Fin 4) (index : BitVec 32) (s : State) : Out :=
  .next (s.startCmd fn ring index.toNat 0x09 attrParams fun s c =>
    let mask := c.f 0x0C 1
    let s := s.modCtx c.ctx fun x => { x with
      share := if mask.testBit 0 then BitVec.ofNat 16 (c.f 0x0E 2) else x.share
      level := if mask.testBit 1 then BitVec.ofNat 2 (c.f 0x10 1) else x.level
      exactFault := if mask.testBit 2 then (c.f 0x11 1).testBit 0 else x.exactFault
      deadFault := if mask.testBit 2 then (c.f 0x11 1).testBit 1 else x.deadFault }
    s.finish c.id .ok)

/-- CTX_DESTROY (R382): the teardown begins, whose end makes the command final. -/
def execCtxDestroy (fn : Fin 16) (ring : Fin 4) (index : BitVec 32) (s : State) : Out :=
  .next (s.startCmd fn ring index.toNat 0x0A (fun s c => s.inOrder c (.ok ()) (.ok ()) (.ok ())) fun s c =>
    s.tear c.ctx { cause := .destroy, cmd := some c.id })

def apertureParams (s : State) (c : Cmd) : Chk :=
  s.inOrder c (.ok ()) (do par (c.f 0x0C 8 % 2 ^ 30 == 0) 0x0C; par (decide (c.f 0x14 1 ≤ 1)) 0x14) (.ok ())

/-- APERTURE (R364). -/
def execAperture (fn : Fin 16) (ring : Fin 4) (index : BitVec 32) (s : State) : Out :=
  .next (s.startCmd fn ring index.toNat 0x0B apertureParams fun s c =>
    let old := (s.fn fn).bar2Word
    let s := s.modFn fn fun f =>
      if (c.f 0x14 1).testBit 0 then { f with mapped := true, context := BitVec.ofNat 8 c.ctx, vaBase := BitVec.ofNat 34 (c.f 0x0C 8 / 2 ^ 30) }
      else { f with mapped := false, context := 0, vaBase := 0 }
    s.finish c.id .ok 0 old)

/-! LAUNCH. -/

/-- The kernel that a launch descriptor at an address describes (R53). -/
def kernelOf (addr : Nat) (b : List Byte) : Kernel :=
  { desc := addr, keep := (byteAt b 4 1).testBit 0, l1 := byteAt b 5 1, regs := byteAt b 6 1, first := byteAt b 8 2, count := byteAt b 0xA 2
    argLen := byteAt b 0xC 4, argAddr := byteAt b 0x10 8, doneCtr := byteAt b 0x18 8
    streams := (List.range 5).map fun e => (byteAt b (0x20 + 16 * e) 8, byteAt b (0x28 + 16 * e) 4) }

def launchCrc (b : List Byte) : Bool := crc32 (b.take 0x7C) == byteAt b 0x7C 4

/-- The parameters of a launch descriptor (R54). -/
def launchOk (b : List Byte) : Bool :=
  let k := kernelOf 0 b
  byteAt b 0 4 == 1 && decide (byteAt b 4 1 ≤ 1) && byteAt b 7 1 == 0 && byteAt b 0x70 12 == 0
    && decide (1 ≤ k.l1) && decide (k.l1 ≤ 8) && ((k.streams.getD 2 (0, 0)).2 == 0 || (decide (32 ≤ k.regs) && decide (k.regs ≤ 255)))
    && decide (k.first ≤ 575) && decide (k.first + k.count ≤ 576) && decide (k.argLen ≤ 4032) && k.doneCtr % 8 == 0
    && (List.range 5).all fun e =>
        byteAt b (0x20 + 16 * e) 8 % 16 == 0 && byteAt b (0x28 + 16 * e) 4 % 16 == 0
          && decide (byteAt b (0x28 + 16 * e) 4 ≤ 2 ^ 24) && byteAt b (0x2C + 16 * e) 4 == 0

/-- Does the kernel's core range lie within the context's cores (R54, R393)? -/
def Ctx.covers (x : Ctx) (k : Kernel) : Bool :=
  k.count == 0 || (decide (x.coreFirst ≤ k.first) && decide (k.first + k.count ≤ x.coreFirst + x.coreCount))

/-- The checks of a LAUNCH once both descriptors have been read, in the order of R380. -/
def launchChecks (s : State) (c : Cmd) (d : List Byte) (fb : Option (List Byte)) : Chk :=
  let x := s.ctx c.ctx
  let k := kernelOf 0 d
  let all (p : List Byte → Bool) : Bool := p d && (match fb with
    | some b => p b
    | none => true)
  do
    chk (all launchCrc) .badCrc
    s.inOrder c
      (chk (all fun b => x.covers (kernelOf 0 b)) .denied)
      (do
        par (c.f 0x0C 8 % 64 == 0) 0x0C
        par (launchOk d) inStructure
        match fb with
        | none => .ok ()
        | some b => do
          par (c.f 0x14 8 % 64 == 0 && c.f 0x1C 8 != 0) 0x14
          par (launchOk b && (kernelOf 0 b).count == k.count) inStructure
        par (decide (c.f 0x24 4 < 10 ^ 9)) 0x24
        par (c.f 0x28 4 != 0) 0x28
        par (decide (c.f 0x2C 1 ≤ 1) && !((c.f 0x2C 1).testBit 0 && s.tim.num == 0)) 0x2C)
      (.ok ())

/-- A LAUNCH whose checks have passed starts (R380, R392, R408). -/
def State.beginLaunch (s : State) (c : Cmd) (d : List Byte) (fb : Option (List Byte)) : State :=
  let dl := c.f 0x1C 8
  let frame := (c.f 0x2C 1).testBit 0
  let l : Launch :=
    { prim := kernelOf (c.f 0x0C 8) d, fall := fb.map (kernelOf (c.f 0x14 8)), deadline := dl, dlFrame := frame, dlOffset := c.f 0x24 4
      runLimit := c.f 0x28 4, startAt := s.now }
  let e : CalEntry := { due := BitVec.ofNat 64 dl, offset := if frame then BitVec.ofNat 32 (c.f 0x24 4) else 0, cls := 3, base := frame, cmd := c.id }
  let go (s : State) (l : Launch) : State :=
    let s := s.modCmd c.id fun y => { y with launch := some l }
    if l.prim.count = 0 then s.finish c.id .ok
    else
      let s := (s.activate c.ctx).restate c.ctx
      match s.cmd? c.id with
      | none => s
      | some y => match y.launch with
        | none => s
        | some m => s.evaluate y m
  if dl = 0 then go s l
  else match s.armFor c.ctx e with
    | none => s.finish c.id .noResource
    | some (i, s) => go s { l with calIdx := some i }

/-- LAUNCH (R380). -/
def execLaunch (fn : Fin 16) (ring : Fin 4) (index : BitVec 32) (s : State) : Out :=
  .next (s.startCmd fn ring index.toNat 0x10 (fun s c => if (s.ctx c.ctx).state = .free then s.headChecks c 33 else .ok ()) fun s c =>
    let v := { s.hdVia c.ctx with checked := true }
    let ready (s : State) (d : List Byte) (fb : Option (List Byte)) : State :=
      match launchChecks s c d fb with
      | .error e => s.finish c.id e.1 e.2
      | .ok _ => s.beginLaunch c d fb
    match s.vread v (c.f 0x0C 8) 128 with
    | (.error x, s) => s.cmdStop c.id x
    | (.ok d, s) =>
      if c.f 0x14 8 = 0 then ready s d none
      else match s.vread v (c.f 0x14 8) 128 with
        | (.error x, s) => s.cmdStop c.id x
        | (.ok b, s) => ready s d (some b))

/-! ABORT. -/

def abortParams (s : State) (c : Cmd) : Chk :=
  s.inOrder c (.ok ()) (do par (decide (c.f 0x0C 1 ≤ 3)) 0x0C; c.zero 0x0D 0x10) (.ok ())

/-- ABORT (R381). -/
def execAbort (fn : Fin 16) (ring : Fin 4) (index : BitVec 32) (s : State) : Out :=
  .next (s.startCmd fn ring index.toNat 0x11 abortParams fun s c =>
    match s.cmds.find? fun d => d.fn == c.fn && d.ring == c.f 0x0C 1 && d.seq == c.f 0x10 4 && d.id != c.id && !d.status.final with
    | none => s.finish c.id .ok
    | some d => (s.cancel d.id).finish c.id .ok 0 1)

/-! Calendar commands. -/

/-- WHEN, OFFSET and BASE of an entry to be armed, at their packet offsets (R290, R291). -/
def whenOk (base : Bool) (when_ : Nat) : Bool := !base || decide (when_ < 2 ^ 48)

def offsetOk (base : Bool) (offset : Nat) : Bool := if base then decide (offset < 10 ^ 9) else offset == 0

def calArmParams (s : State) (c : Cmd) : Chk :=
  let cls := c.f 0x24 1
  let base := (c.f 0x25 1).testBit 0
  let period := c.f 0x18 8
  s.inOrder c
    (do
      chk (!([1, 2, 3, 6].contains cls)) .denied
      chk (!(cls == 4 && c.fn != 0)) .denied)
    (do
      c.zero 0x0C 0x10
      par (whenOk base (c.f 0x10 8)) 0x10
      par (period == 0 || (if base then decide (period < 2 ^ 32) else decide (1000 ≤ period))) 0x18
      par (offsetOk base (c.f 0x20 4)) 0x20
      par (cls != 0) 0x24
      par (decide (c.f 0x25 1 ≤ 1) && !(base && s.tim.num == 0)) 0x25
      c.zero 0x26 0x28
      par (!(cls == 5) || decide (c.f 0x28 8 % 64 ≤ 1)) 0x28)
    (.ok ())

/-- CAL_ARM (R293). -/
def execCalArm (fn : Fin 16) (ring : Fin 4) (index : BitVec 32) (s : State) : Out :=
  .next (s.startCmd fn ring index.toNat 0x03 calArmParams fun s c =>
    let e : CalEntry :=
      { due := BitVec.ofNat 64 (c.f 0x10 8), period := BitVec.ofNat 64 (c.f 0x18 8), offset := BitVec.ofNat 32 (c.f 0x20 4)
        cls := BitVec.ofNat 8 (c.f 0x24 1), base := (c.f 0x25 1).testBit 0, arg := BitVec.ofNat 64 (c.f 0x28 8) }
    match s.armFor c.ctx e with
    | none => s.finish c.id .noResource
    | some (i, s) => s.finish c.id .ok 0 i)

def calCancelParams (s : State) (c : Cmd) : Chk :=
  let i := c.f 0x0C 4
  let e := tabGet? s.cal.entries i
  let mine := decide (256 ≤ i) && decide (i ≤ 4095)
  s.inOrder c
    (chk (!mine || e.all fun x => x.context.toNat == c.ctx) .denied)
    (par (mine && e.isSome) 0x0C)
    (.ok ())

/-- CAL_CANCEL (R297): an entry in whose 100 ns window it comes still fires, and is then freed. -/
def execCalCancel (fn : Fin 16) (ring : Fin 4) (index : BitVec 32) (s : State) : Out :=
  .next (s.startCmd fn ring index.toNat 0x04 calCancelParams fun s c =>
    let i := c.f 0x0C 4
    let e := tabGet {} s.cal.entries i
    let firing := (e.dueAt s.tim).any fun d => decide (d / 100 ≤ s.now / 100)
    let once : CalEntry := { e with due := BitVec.ofNat 64 (e.due.toNat + e.n * e.period.toNat), period := 0, n := 0 }
    let s : State := { s with cal := { s.cal with
      entries := if firing then tabSet s.cal.entries i once else tabDel s.cal.entries i } }
    s.finish c.id .ok)

def phaseParams (s : State) (c : Cmd) : Chk :=
  let base := (c.f 0x18 1).testBit 0
  s.inOrder c (.ok ())
    (do
      par (whenOk base (c.f 0x0C 8)) 0x0C
      par (offsetOk base (c.f 0x14 4)) 0x14
      par (decide (c.f 0x18 1 ≤ 1) && !(base && s.tim.num == 0)) 0x18
      par (decide (c.f 0x19 1 ≤ 1)) 0x19
      par (decide (1 ≤ c.f 0x1A 2) && decide (c.f 0x1A 2 ≤ 3600)) 0x1A
      par (decide (1 ≤ c.f 0x1C 4) && decide (c.f 0x1C 4 ≤ 10 ^ 7)) 0x1C)
    (.ok ())

/-- The ARG of a PHASE entry: KIND, POWER_W, DURATION_US (R387). -/
def phaseArg (kind power duration : Nat) : Nat := kind + power * 2 ^ 8 + duration * 2 ^ 32

/-- PHASE (R387). -/
def execPhase (fn : Fin 16) (ring : Fin 4) (index : BitVec 32) (s : State) : Out :=
  .next (s.startCmd fn ring index.toNat 0x02 phaseParams fun s c =>
    let e : CalEntry :=
      { due := BitVec.ofNat 64 (c.f 0x0C 8), offset := BitVec.ofNat 32 (c.f 0x14 4), cls := 2, base := (c.f 0x18 1).testBit 0
        arg := BitVec.ofNat 64 (phaseArg (c.f 0x19 1) (c.f 0x1A 2) (c.f 0x1C 4)) }
    match s.armFor c.ctx e with
    | none => s.finish c.id .noResource
    | some (i, s) => s.finish c.id .ok 0 i)

/-! IDLE_CONFIG. -/

def idleParams (s : State) (c : Cmd) : Chk :=
  s.inOrder c (.ok ())
    (do par (decide (c.f 0x0C 1 ≤ 4)) 0x0C; c.zero 0x0D 0x0E; par (decide (c.f 0x0E 2 ≤ 1000)) 0x0E) (.ok ())

/-- IDLE_CONFIG (R379). -/
def execIdleConfig (fn : Fin 16) (ring : Fin 4) (index : BitVec 32) (s : State) : Out :=
  .next (s.startCmd fn ring index.toNat 0x25 idleParams fun s c =>
    let s : State := { s with tim := { s.tim with maxState := BitVec.ofNat 3 (c.f 0x0C 1), margin := BitVec.ofNat 10 (c.f 0x0E 2) } }
    s.finish c.id .ok)

end Sys2Proof.Machine
end

