-- ==== Sys2Proof/Machine/CohOps.lean ====
section
/-! DEFINITION. The home's side of the coherence messages: taking a request in (R186 to R192, R218, R226), answering it
(R217, R220), ending a transaction (R219, R224), taking the domain down (R229, R230). -/

namespace Sys2Proof.Machine

/-- The tag of a request message (R21, R225): the device is that of a request from a fabric port. -/
def messageTag (r ctx part device : Nat) : Tag :=
  { ctx := ctx, part := part
    remote := if 2311 ≤ r then some device else none
    host := r == 2308
    core := if r < 2304 then some (r / 4) else none
    queue := if r < 2304 && r % 4 < 3 then r % 4 + 2 else 7 }

/-! Answers. -/

/-- A write that the home has performed: its record carries COMP and INV_DONE (R220). One without an invalidation gets
its record here. -/
def State.owesComp (s : State) (r : Req) (v : Served) (grants : Bool) : State :=
  let reread := v.reread && r.isRed
  match v.id with
  | some id => { s with cache := { s.cache with writes := s.cache.writes.map fun w =>
      if w.id = id then { w with grants := grants, flags := v.flags, reread := reread } else w } }
  | none =>
    let (id, s) := s.newId
    { s with cache := { s.cache with writes := s.cache.writes ++
      [{ id := id, line := r.line, requester := r.requester, core := r.tag.core, queue := r.tag.queue, ctx := r.tag.ctx
         grants := grants, flags := v.flags, reread := reread }] } }

/-- The answer to a request that has been performed (R217, R218). -/
def State.respond (s : State) (r : Req) (v : Served) : State :=
  let msg (k : MsgKind) (d : Nat) (s : State) : State := s.send [{ kind := k, dest := d, line := r.line, data := v.data, req := r }]
  match r.kind with
  | .rdOnce => msg .rdData r.requester s
  | .rdShared => msg .dataS r.requester s
  | .rdUnique => msg .dataE ((reqAgent r.requester).getD 0) s
  | .upgrade => s.owesComp r v true
  | .atomic =>
    let s := s.owesComp r v false
    if r.op.isRed then s else if r.requester < 2304 && r.requester % 4 == 0 then msg .dataS r.requester s else msg .rdData r.requester s
  | _ => s.owesComp r v false

/-- FAULT to a requester (R230, R243). -/
def State.answerFault (s : State) (r : Req) : State := s.send [{ kind := .fault, dest := r.requester, line := r.line, req := r }]

/-! Taking a request in. -/

/-- Is the requester a holder of the line, so that an UPGRADE needs no data (R218)? -/
def holdsCopy (w : Way) (r : Req) : Bool :=
  match reqAgent r.requester, w.dir with
  | some a, .s => w.sh.has a
  | some a, .e o => o == a
  | some a, .m o => o == a
  | _, _ => false

/-- An access waits in an entry of its own. -/
def State.park (s : State) (n : Nat) (r : Req) : State :=
  s.modSlice n fun sl => sl.setEntry { line := r.line, filling := false, parked := true, waiters := [r], part := r.tag.part }

/-- The slice takes a request in, at this point of home order: it joins the line's entry, is performed and answered, or
starts what it waits for. None: there is no capacity for it (R192, R226); a forced one waits instead. -/
def State.accept (s : State) (r : Req) (force : Bool) : Option State :=
  let a := r.line
  let n := sliceOf a
  let sl := s.slice n
  let room := force || !s.missFull n r.tag.part
  let parked : Option State := if room then some (s.park n r) else none
  match sl.entry? a with
  | some m => if force || decide (m.waiters.length < 32) then some (s.modSlice n fun sl => sl.setEntry { m with waiters := m.waiters ++ [r] }) else none
  | none =>
    let home := r.isRed && !sl.mayPin a (s.mask r.tag)
    if sl.forwarded.any (fun f => f.line == a) && !(home && (sl.find a).isNone) then parked
    else
      match sl.find a with
      | some k =>
        let w := sl.way k
        match foreignOwner w r with
        | some o => if room then some (s.startTxn n a k { why := .serve, req := r, owed := [(o, r.snoopKind)] } false []) else none
        | none =>
          let r := if r.kind = .upgrade && !holdsCopy w r then { r with kind := .rdUnique } else r
          let (v, s) := (s.count n 0 1).performAt n k r r.reread
          some (s.respond r v)
      | none =>
        let r := if r.kind = .upgrade then { r with kind := .rdUnique } else r
        if home then
          let reread := s.rereads r
          some ((if reread then s.noteReread n r else s).modSlice n fun sl => { sl with forwarded := sl.forwarded ++ [{ r with reread := reread }] })
        else
          match s.room n a (s.mask r.tag) r.tag with
          | .none => if force then some (s.park n r) else none
          | .evicting t => if room then some (t.park n r) else none
          | .way k t =>
            if r.whole then
              let (v, t) := (t.install n k a 0).performAt n k r false
              some (t.respond r v)
            else if !room then none
            else
              let reread := t.rereads r
              let t := (if reread then t.noteReread n r else t).count n 1 1
              some (t.modSlice n fun sl => (sl.setWay k { st := .filling, line := a }).setEntry
                { line := a, way := k, waiters := [{ r with reread := reread }], part := r.tag.part })

/-- Take in again what waited, in order. -/
def State.acceptAll (s : State) (rs : List Req) : State := rs.foldl (fun s r => (s.accept r true).getD s) s

/-- Accesses that were parked are tried again. -/
def State.unpark (s : State) (n : Nat) : State :=
  ((s.slice n).miss.filter (·.parked)).foldl (fun s m =>
    if (s.slice n).forwarded.any (fun f => f.line == m.line) then s
    else (s.modSlice n fun sl => sl.delEntry m.line).acceptAll m.waiters) s

/-- A request arrives at its home slice (R226): it is accepted, or answered with RETRY and its requester queued. A
requester that waits in the slice's queue sends nothing; one with a CREDIT sends the request it was granted for. -/
def State.arrive (s : State) (r : Req) (take : Bool → State → Option State) : State :=
  let n := sliceOf r.line
  let sl := s.slice n
  if s.cache.coh.down then s.answerFault r
  else if !s.sup.on || sl.flushing || !s.serving || sl.retry.any (fun q => q.requester == r.requester) then s
  else
    match sl.credited.find? fun q => q.1.requester == r.requester with
    | some q =>
      if q.1.line = r.line && q.1.kind == r.kind then
        let s := s.modSlice n fun sl => { sl with credited := sl.credited.filter fun x => x.1.requester != r.requester }
        (take true s).getD s
      else s
    | none =>
      let hit := match sl.find r.line with
        | some k => (foreignOwner (sl.way k) r).isNone && (sl.entry? r.line).isNone
        | none => false
      let turned := s.modSlice n fun sl => { (sl.count 11 1) with retry := sl.retry ++ [r] }
      let refuse : State := turned.send [{ kind := .retry, dest := r.requester, line := r.line, req := r }]
      if !sl.retry.isEmpty && !hit then refuse
      else match take false s with
        | some t => t
        | none => refuse

/-! The end of a transaction (R216, R219, R224). -/

/-- The home has every answer of a transaction. -/
def State.endTxn (s : State) (n : Nat) (m : MissEntry) (t : Txn) : State :=
  let s := s.modSlice n fun sl => sl.delEntry m.line
  let s := match t.why with
    | .serve | .clear => s
    | .evict =>
      let w := (s.slice n).way m.way
      (s.setSlice n ((s.slice n).setWay m.way { w with dir := .i, sh := {} })).writeBack n m.way
    | .drop => s.setDead n m.way
  ((if t.why = .serve then s.acceptAll [t.req] else s).acceptAll m.waiters).unpark n

/-- End a transaction to which nothing is owed any more. -/
def State.settleTxn (s : State) (a : Nat) : State :=
  let n := sliceOf a
  match (s.slice n).entry? a with
  | some m => match m.txn with
    | some t => if t.owed.isEmpty && t.dataFrom.isNone then s.endTxn n m t else s
    | none => s
  | none => s

/-- The directory and the data of a line once its owner has answered a snoop, with data if it had written (R218, R219). -/
def Way.answered (w : Way) (agent : Nat) (kind : SnoopKind) (data : Option Line) : Way :=
  let w := match data with
    | some d => { w with data := d, st := .dirty }
    | none => w
  match kind, w.dir with
  | .share, .e _ | .share, .m _ => { w with dir := .s, sh := { agents := [agent] } }
  | _, .e _ | _, .m _ => { w with dir := .i, sh := {} }
  | _, .s =>
    let sh := w.sh.drop agent
    { w with dir := if sh.empty then .i else .s, sh := sh }
  | _, .i => w

/-! The domain goes down (R229, R230). -/

/-- Every request that a slice has not performed is answered with FAULT, and nothing waits in it; the updates that it has
forwarded to memory are left to the flush (R209). -/
def State.refuseAll (s : State) (n : Nat) : State :=
  let sl := s.slice n
  let serving := sl.miss.flatMap fun m => (match m.txn with
    | some t => if t.why = .serve then [t.req] else []
    | none => []) ++ m.waiters
  let all := serving ++ sl.owedData.map (·.1) ++ sl.retry ++ sl.credited.map (·.1) ++ sl.forwarded
  let ways := sl.ways.map fun p => (p.1, if p.2.st = .filling then ({} : Way) else p.2)
  let s := s.setSlice n { sl with miss := [], owedData := [], retry := [], credited := [], ways := ways.filter fun p => p.2 != {} }
  all.foldl State.answerFault s

/-- A failure on which the domain goes down: HUB_COH_STATUS, the job fault, and FAULT for every request outstanding. -/
def State.cohDown (s : State) (cause : Nat) (agent : Nat) (isReq : Bool) (line : Nat) (tag : Option Tag) : State :=
  if s.cache.coh.down then s
  else
    let c : Coh := { down := true, cause := BitVec.ofNat 3 cause, agent := BitVec.ofNat 10 agent, slice := BitVec.ofNat 8 (sliceOf line)
                     ctx := BitVec.ofNat 8 ((tag.getD {}).ctx), isReq := isReq
                     requester := if isReq then BitVec.ofNat 12 agent else 0, line := BitVec.ofNat 42 line }
    let s : State := { s with cache := { s.cache with coh := c } }
    let detail := s.cohWord + s.cohAddr / 2 ^ 32 * 2 ^ 32
    let rec_ : FaultRec := match tag with
      | some t => FaultRec.ofTag s t 0x04 (sliceOf line / 64) (64 * line) detail
      | none => { FaultRec.untagged s 0x04 detail with die := BitVec.ofNat 8 (sliceOf line / 64), addr := BitVec.ofNat 64 (64 * line) }
    let s := s.cache.slices.foldl (fun s p => s.refuseAll p.1) s
    s.arise 2 rec_

/-- A protocol violation by an agent (R229). -/
def State.violation (s : State) (agent line : Nat) (tag : Option Tag) : State := s.cohDown 4 agent false line tag

/-- Is an agent one that the device admits: not 580 or 581 while its site is not in open mode (R229)? -/
def State.admits (s : State) (agent : Nat) : Bool :=
  decide (agent < 580) || (let x := s.site (agent - 580); x.state == .admitted && x.openMode)

/-- Take back every line that an agent holds (R271, R278): snoops where none are under way. The answer says whether the
directory still names the agent. -/
def State.recallAgent (s : State) (agent : Nat) : Bool × State :=
  let holds (w : Way) : Bool := w.dir == .e agent || w.dir == .m agent || (w.dir == .s && w.sh.agents.contains agent)
  let all := s.cache.slices.flatMap fun p => (p.2.ways.filter fun w => holds w.2).map fun w => (p.1, w.1, w.2)
  (!all.isEmpty, all.foldl (fun s x =>
    let (n, k, w) := x
    if ((s.slice n).entry? w.line).isSome then s
    else s.startTxn n w.line k { why := .clear, owed := [(agent, if w.dir = .s then .inv else .recall)], req := { line := w.line } } false []) s)

/-! Agents 576 to 581. -/

def State.agentTab (s : State) (agent : Nat) : Tab AgentLine := tabGet [] s.cache.agents agent

def State.agentLine (s : State) (agent line : Nat) : AgentLine := tabGet {} (s.agentTab agent) line

/-- What an agent holds of a line; one that holds nothing and owes nothing is not listed. -/
def State.setAgentLine (s : State) (agent line : Nat) (x : AgentLine) : State :=
  let lines := if x = {} then tabDel (s.agentTab agent) line else tabSet (s.agentTab agent) line x
  { s with cache := { s.cache with agents := tabSet s.cache.agents agent lines } }

/-- Take a message of a kind for a destination and a line off the network. -/
def State.takeMsg (s : State) (kind : MsgKind) (dest line : Nat) : Option (Msg × State) :=
  let hit (m : Msg) : Bool := m.kind == kind && m.dest == dest && m.line == line
  match s.cache.msgs.find? hit with
  | none => none
  | some m => some (m, { s with cache := { s.cache with msgs := s.cache.msgs.eraseP hit } })

/-- Does any message of these kinds travel to a destination for a line? -/
def State.travels (s : State) (kinds : List MsgKind) (dest line : Nat) : Bool :=
  s.cache.msgs.any fun m => kinds.contains m.kind && m.dest == dest && m.line == line

/-- The tag of the transaction on a line, if there is one. -/
def State.txnTag (s : State) (line : Nat) : Option Tag :=
  (((s.slice (sliceOf line)).entry? line).bind (·.txn)).map (·.req.tag)

end Sys2Proof.Machine
end

