-- ==== Sys2Proof/Machine/HomeOps.lean ====
section
/-! DEFINITION. Accesses of several lines that outside parties make through HD, performed together at their homes (R212,
R275, R323), and the extension of measurements (R481). -/

namespace Sys2Proof.Machine

/-- Would an access be performed at once: the line is not busy, and it or room for it is there? -/
def State.ready (s : State) (r : Req) : Bool :=
  let sl := s.slice (sliceOf r.line)
  !s.cache.coh.down && !sl.flushing && (sl.entry? r.line).isNone && !sl.forwarded.any (fun f => f.line == r.line) &&
  (match sl.find r.line with
   | some k => (foreignOwner (sl.way k) r).isNone
   | none => (r.isRed && !sl.mayPin r.line (s.mask r.tag)) || (match s.room (sliceOf r.line) r.line (s.mask r.tag) r.tag with
      | .way _ _ => true
      | _ => false))

/-- Accesses one after another; the first that is not performed ends them. -/
def State.accessEach : List Req → List Served → State → Except Stop (List Served) × State
  | [], acc, s => (.ok acc, s)
  | r :: rs, acc, s =>
    match s.access r with
    | (.done v, s) => State.accessEach rs (acc ++ [v]) s
    | (.busy, s) => (.error .busy, s)
    | (.faulted, s) => (.error .faulted, s)

/-- The accesses of one request: none is made before each could be performed at once; meanwhile what the first busy line
waits for is set going. -/
def State.accessAll (s : State) (rs : List Req) : Except Stop (List Served) × State :=
  match rs.find? fun r => !s.ready r with
  | none => State.accessEach rs [] s
  | some r =>
    match s.access r with
    | (.faulted, s) => (.error .faulted, s)
    | (_, s) => (.error .busy, s)

/-- A range of physical addresses as accesses of one kind, line by line, with the bytes of each. -/
def lineReqs (base : Req) (pa : Nat) (len : Nat) (data : List Byte) : List Req :=
  (cut pa len).map fun p =>
    let x := placeBytes (p.1 % 64) (padTo p.2 (data.drop (p.1 - pa)))
    { base with line := p.1 / 64, off := p.1 % 64, len := p.2, data := x.1, mask := x.2 }

/-- The bytes that reads brought. -/
def readBytes (rs : List Req) (vs : List Served) : List Byte :=
  (rs.zip vs).flatMap fun p => leBytes p.1.len (lineRd p.2.data p.1.off p.1.len)

def allFlags (vs : List Served) : RedFlags := vs.foldl (fun f v => f.or v.flags) {}

/-- Operand and compare value of an atomic, in a request at its place. -/
def atomicReq (base : Req) (pa size : Nat) (op : AtomOp) (operand : Nat) (cmp : BitVec 64) : Req :=
  { base with kind := .atomic, line := pa / 64, off := pa % 64, len := size, data := BitVec.ofNat 512 operand, op := op, cmp := cmp }

/-- Extend a measurement register (R481): 32 bytes, byte 0 lowest. -/
def extended (reg : BitVec 256) (d : List Byte) : BitVec 256 :=
  BitVec.ofNat 256 (leVal (sha256 (leBytes 32 reg.toNat ++ sha256 d)))

def State.extendM (s : State) (k : Nat) (d : List Byte) : State :=
  { s with sec := { s.sec with meas := tabMod 0 s.sec.meas k fun r => extended r d } }

def State.extendP (s : State) (p : Nat) (d : List Byte) : State :=
  { s with sec := { s.sec with pmeas := tabMod 0 s.sec.pmeas p fun r => extended r d } }

end Sys2Proof.Machine
end

