-- ==== Sys2Proof/Machine/FlushOps.lean ====
section
/-! DEFINITION. The flush of the LLC (R207, R209, R216). -/

namespace Sys2Proof.Machine

/-- The lines of a slice that an agent holds in M. -/
def Slice.owned (sl : Slice) : List (Nat × Nat × Nat) := sl.ways.filterMap fun p => match p.2.dir with
  | .m o => some (p.1, p.2.line, o)
  | _ => none

/-- Ask every owner in M for its data (R216); the answer says whether there was one. -/
def State.askOwners (s : State) : Bool × State :=
  let all := s.cache.slices.flatMap fun p => p.2.owned.map fun x => (p.1, x)
  (!all.isEmpty, all.foldl (fun s x =>
    let (n, k, a, o) := x
    if ((s.slice n).entry? a).isSome then s else s.startTxn n a k { why := .clear, owed := [(o, .share)] } false []) s)

/-- One way in a flush: written back if Dirty, unpinned, and Invalid if Dead; a last-use mark that waited takes effect. -/
def State.flushWay (s : State) (n k : Nat) : State :=
  let sl := s.slice n
  let w := sl.way k
  if w.st = .dead then s.setSlice n (sl.setWay k {})
  else
    let s := if w.st = .dirty then (s.setSlice n (sl.count 3 1)).chanWrite w.line w.data else s
    let w' : Way := { w with st := if w.st = .dirty then .clean else w.st, pinned := false, marked := false }
    let s := s.setSlice n ((s.slice n).setWay k w')
    if w.marked then s.dropLine n k else s

/-- Complete the updates that a slice has forwarded to its controller (R202, R209). -/
def State.drainForwarded (s : State) (n : Nat) : State :=
  let f := (s.slice n).forwarded
  f.foldl (fun s r => (s.redAtMemory r [] []).2) (s.modSlice n fun sl => { sl with forwarded := [] })

/-- A flush of every slice (R209). -/
def State.flushAll (s : State) : State :=
  s.cache.slices.foldl (fun s p =>
    let s := p.2.ways.foldl (fun s w => s.flushWay p.1 w.1) s
    s.drainForwarded p.1) s

end Sys2Proof.Machine
end

