-- ==== Sys2Proof/Machine/TimeOps.lean ====
section
/-! DEFINITION. What the rows of reference time share: qualifying inputs, following a source, steps (R283 to R288), frame
edges (R289, R290), peer delays (R311), firing calendar entries (R294 to R297). -/

namespace Sys2Proof.Machine

def State.modTim (s : State) (f : Tim → Tim) : State := { s with tim := f s.tim }

/-! Inputs and sources. -/

/-- REJECT_INPUT (R301). -/
def TimeInput.code : TimeInput → Nat
  | .ref10m => 1 | .pps => 2 | .ptpFabric => 3 | .ptpHost => 4 | .frame => 5

def RejectCause.code : RejectCause → Nat
  | .stop => 1 | .jump => 2 | .drift => 3

def Tim.input (t : Tim) (i : TimeInput) : InputState := tabGet {} t.inputs i.code

def Tim.setInput (t : Tim) (i : TimeInput) (x : InputState) : Tim := { t with inputs := tabSet t.inputs i.code x }

/-- The source that an input belongs to (R283, R285); 0 for REF_FRAME. -/
def TimeInput.source : TimeInput → Nat
  | .ref10m => 1 | .pps => 1 | .ptpFabric => 2 | .ptpHost => 3 | .frame => 0

/-- Is a source qualified? The pins count as one. -/
def Tim.sourceOk (t : Tim) (src : Nat) : Bool :=
  if src = 1 then (t.input .ref10m).qualified && (t.input .pps).qualified
  else if src = 2 then (t.input .ptpFabric).qualified
  else if src = 3 then (t.input .ptpHost).qualified
  else false

/-- The source to follow: the primary, else the secondary, else none (R288). -/
def Tim.bestSource (t : Tim) : Nat :=
  if t.sourceOk t.primary.toNat then t.primary.toNat else if t.sourceOk t.secondary.toNat then t.secondary.toNat else 0

/-- Follow the best source. A source newly followed is measured (ACQUIRING); without one, a unit that has followed one goes
to HOLDOVER with what it has learned (R286, R288). -/
def Tim.follow (t : Tim) : Tim :=
  let b := t.bestSource
  if b = t.src.toNat then t
  else if b = 0 then { t with state := .holdover, src := 0, steer := 0, slewing := false, toSlew := 0 }
  else { t with state := .acquiring, src := BitVec.ofNat 3 b, steer := 0, slewing := false, toSlew := 0 }

/-- Frame edges are synthesised from an edge on (R289, R290). -/
def Tim.synthesise (t : Tim) : Tim :=
  { t with frameLocked := false, synFrom := t.frameEdge.toNat, synCount := 0, frameHoldover := t.num != 0 && !t.noSyn }

/-- An input breaks a limit (R285): a rejection if it was qualified, else its requalification starts again. -/
def Tim.reject (t : Tim) (i : TimeInput) (c : RejectCause) : Tim :=
  let x := t.input i
  let u := t.setInput i { qualified := false, since := t.now.toNat }
  if !x.qualified then u
  else
    let u := { u with rejectCause := BitVec.ofNat 4 c.code, rejectInput := BitVec.ofNat 4 i.code
                      rejects := if t.rejects = 0xFFF then 0xFFF else t.rejects + 1 }
    if i = .frame then u.synthesise else if i.source = t.src.toNat then u.follow else u

/-- Nominal frame period × NUM, in ns. -/
def Tim.periodNum (t : Tim) : Nat := 10 ^ 9 * t.den.toNat

/-- Does a measurement of an input break the limit of a cause (R285)? Stops, jumps and intervals are in ns; the drifts of
REF_10M and of PTP, and of REF_FRAME's mean over 16 frames, are deviations in parts per 10^9; the drift of REF_PPS is the
deviation of the interval in ns. A jump is judged after lock, and not while a change of source is slewed. -/
def Tim.breaks (t : Tim) (i : TimeInput) (c : RejectCause) (m : Nat) : Bool :=
  let steady := t.state == .locked && t.src.toNat == i.source && !t.slewing
  match i, c with
  | .ref10m, .stop => decide (1000 ≤ m)
  | .ref10m, .jump => decide (10 < m)
  | .pps, .stop => decide (10 ^ 9 + 200000 < m)
  | .pps, .jump => steady && decide (1000 < m)
  | .ptpFabric, .stop => decide (4 * 10 ^ 9 ≤ m * 2 ^ t.syncExp.toNat)
  | .ptpHost, .stop => decide (10 ^ 8 ≤ m)
  | .ptpFabric, .jump | .ptpHost, .jump => steady && decide (1000 < m)
  | .frame, .stop => t.num != 0 && decide (2 * t.periodNum ≤ m * t.num.toNat)
  | .frame, .jump => t.frameLocked && decide (2000 < m)
  | .frame, .drift => t.num != 0 && decide (200000 < m)
  | _, .drift => decide (200000 < m)

/-- Has an unqualified input met every limit for its requalification period (R285)? -/
def Tim.mayQualify (t : Tim) (i : TimeInput) : Bool :=
  let x := t.input i
  !x.qualified && (if i = .frame then t.num != 0 && decide (17 ≤ x.good) else decide (x.since + 10 ^ 10 ≤ t.now.toNat))

/-- An input is accepted again, and the unit chooses (R285, R288, R289). -/
def Tim.qualify (t : Tim) (i : TimeInput) : Tim :=
  let x := t.input i
  let u := t.setInput i { x with qualified := true }
  if i = .frame then
    { u with frameLocked := true, frameHoldover := false, noSyn := false, synFrom := if t.noSyn then x.last else t.synFrom
             synCount := if t.noSyn then 0 else t.synCount }
  else u.follow

/-- The last measured offset of the source, saturated (R301). -/
def satOffset (o : Int) : BitVec 32 :=
  let m : Int := 2 ^ 31 - 1
  BitVec.ofInt 32 (if m < o then m else if o < -m then -m else o)

/-- An offset measured to the source in use: a jump rejects it; in LOCKED it is steered out, within 50 ppm, by a rate that
the specification leaves open (R286). -/
def State.measure (s : State) (i : TimeInput) (o : Int) : State :=
  let t := s.tim
  if t.src.toNat ≠ i.source then s
  else if t.breaks i .jump o.natAbs then s.modTim fun t => { t with offset := satOffset o }.reject i .jump
  else
    let (k, s) := s.choose 100001
    s.modTim fun t => { t with offset := satOffset o, steer := if t.state = .locked then (k : Int) - 50000 else t.steer }

/-- The one step of reference time (R286): firmware entries with BASE 0, the last frame edge and Midwinter's last beat move
with it. -/
def State.step1 (s : State) (d : Nat) : State :=
  let up (x : BitVec 64) : BitVec 64 := x + BitVec.ofNat 64 d
  { s with
    tim := { s.tim with now := up s.tim.now, frameEdge := up s.tim.frameEdge, synFrom := s.tim.synFrom + d, todValid := true
                        stepped := true, inputs := s.tim.inputs.map fun p => (p.1, { p.2 with since := p.2.since + d, last := p.2.last + d })
                        lastPps := s.tim.lastPps.map (· + d) }
    cal := { s.cal with entries := s.cal.entries.map fun p => (p.1, if p.1 < 256 && !p.2.base then { p.2 with due := up p.2.due } else p.2) }
    mw := { s.mw with lastBeat := up s.mw.lastBeat } }

/-- TIME_SETs in hand. -/
def State.timeSets (s : State) : List Cmd := s.cmds.filter fun c => c.op == 0x24 && c.started && !c.status.final

/-! Frames. -/

/-- A frame rate takes effect at an edge (R290): the count goes on, REF_FRAME requalifies, edges are synthesised from there;
a rate of 0 stops the count, and the next rate waits for REF_FRAME. -/
def Tim.setRate (t : Tim) (num den : BitVec 16) : Tim :=
  let u := (t.setInput .frame { since := t.now.toNat }).synthesise
  { u with num := num, den := den, nextRate := none, noSyn := t.num == 0 || num == 0
           frameHoldover := num != 0 && t.num != 0 }

/-- The frame count advances at an edge (R289), and a new rate takes effect (R290). -/
def Tim.countEdge (t : Tim) (at_ : Nat) (real : Bool) : Tim :=
  let u := { t with frame := t.frame + 1, frameEdge := BitVec.ofNat 64 at_
                    synFrom := if real then at_ else t.synFrom, synCount := if real then 0 else t.synCount + 1 }
  match u.nextRate with
  | some (n, d) => u.setRate n d
  | none => u

/-- An edge of REF_FRAME while it is rejected counts toward requalification (R285). -/
def Tim.tryEdge (t : Tim) : Tim :=
  let x := t.input .frame
  let now := t.now.toNat
  let restart : Tim := t.setInput .frame { since := now, good := 1, last := now }
  if x.good = 0 || decide (2 * t.periodNum < (now - x.last) * t.num.toNat) then restart
  else
    let span := (now - x.since) * t.num.toNat
    let mean := x.good * t.periodNum
    if 16 ≤ x.good && decide (200000 * mean < ((span : Int) - mean).natAbs * 10 ^ 9) then restart
    else t.setInput .frame { x with good := x.good + 1, last := now }

/-! Peer delays (R311). -/

/-- Insert into a rising list. -/
def insertSorted (x : Nat) : List Nat → List Nat
  | [] => [x]
  | y :: ys => if x ≤ y then x :: y :: ys else y :: insertSorted x ys

/-- The median; of an even number, the mean of the middle two. -/
def median (l : List Nat) : Nat :=
  let q := l.foldl (fun a x => insertSorted x a) []
  let n := q.length
  if n % 2 = 1 then q.getD (n / 2) 0 else (q.getD (n / 2 - 1) 0 + q.getD (n / 2) 0) / 2

/-! Firing calendar entries. -/

/-- Has an entry fallen due (R294)? A BASE 1 entry waits for the edge of its frame. -/
def CalEntry.isDue (e : CalEntry) (t : Tim) : Bool :=
  (!e.base || decide (e.due.toNat + e.n * e.period.toNat ≤ t.frame.toNat)) && ((e.dueAt t).any fun d => decide (d ≤ t.now.toNat))

/-- Can the class of an entry fire now: is the domain that it needs awake and in service (R292, R296, R300)? -/
def State.mayFire (s : State) (e : CalEntry) : Bool :=
  !needsCompute e.cls.toNat || (decide (s.tim.idle.toNat < 2) && s.serving)

/-- The order within one 100 ns window (R295): sealed partitions, then class, then index. -/
def State.fireKey (s : State) (p : Nat × CalEntry) : Nat :=
  let sealed := decide (256 ≤ p.1) && (s.part p.2.partition.toNat).sealed
  ((p.2.dueAt s.tim).getD 0 / 100) * 2 ^ 32 + (if sealed then 0 else 2 ^ 24) + p.2.cls.toNat * 2 ^ 13 + p.1

/-- Is it the turn of an entry (R294, R295)? -/
def State.turnOf (s : State) (i : Nat) (cls : Nat) : Option CalEntry :=
  match tabGet? s.cal.entries i with
  | none => none
  | some e =>
    let ready (x : CalEntry) : Bool := x.isDue s.tim && s.mayFire x
    if e.cls.toNat = cls && s.sup.on && ready e
        && s.cal.entries.all (fun p => p.1 == i || !ready p.2 || decide (s.fireKey (i, e) < s.fireKey p)) then some e
    else none

/-- The next due time of a periodic entry after those that a late firing covers (R296). -/
def CalEntry.nextN (e : CalEntry) (t : Tim) (late : Bool) : Nat :=
  let p := e.period.toNat
  let reached := if e.base then t.frame.toNat else t.now.toNat
  if late && e.due.toNat ≤ reached && p != 0 then max (e.n + 1) ((reached - e.due.toNat) / p + 1) else e.n + 1

/-- An entry fires (R294 to R297): it is late, counted, freed or set to its next due time; then its action follows. -/
def State.fireEntry (s : State) (i cls : Nat) (act : State → CalEntry → Bool → State) : State :=
  match s.turnOf i cls with
  | none => s
  | some e =>
    let window := s.now / 100
    let fired := if s.cal.window = window then s.cal.fired else 0
    let late := e.past || decide (64 ≤ fired)
    let e' : CalEntry := { e with count := e.count + 1, past := false, n := e.nextN s.tim late }
    let s : State := { s with cal := { s.cal with
      entries := if e.period = 0 then tabDel s.cal.entries i else tabSet s.cal.entries i e'
      late := if late && s.cal.late != 0xFFFF then s.cal.late + 1 else s.cal.late
      window := window, fired := fired + 1 } }
    act s e late

/-- Entries of classes that need compute and have fallen due meanwhile will fire late (R296). -/
def State.markLate (s : State) : State :=
  { s with cal := { s.cal with entries := s.cal.entries.map fun p =>
      (p.1, if needsCompute p.2.cls.toNat && p.2.isDue s.tim then { p.2 with past := true } else p.2) } }

/-! Idle states. -/

/-- Is the device idle (R298)? -/
def State.isIdle (s : State) : Bool :=
  s.sup.on && s.hub.bootStatus == 0 && s.recov.state == 0 && s.recov.due == 0
    && s.cores.all (fun p => !p.2.running && !p.2.assigned)
    && s.cmds.isEmpty && s.fab.tracker.isEmpty && s.fab.inbound.isEmpty && s.fab.departed.isEmpty && s.cache.msgs.isEmpty
    && s.links.sites.all (fun p => p.2.outbound.isEmpty && p.2.held.isEmpty)
    && s.sol.sched.all fun p => p.2.state.toNat < 2 || decide (5 ≤ p.2.state.toNat)

/-- May the device be in an idle state now (R299)? -/
def State.idleFits (s : State) (k : Nat) : Bool :=
  let t := s.tim
  decide (k ≤ t.maxState.toNat)
    && (decide (k < 2) || !(s.parts.any fun p => p.2.sealed))
    && (decide (k < 4) || s.cores.all fun p => !p.2.resident)
    && (decide (k < 2) || (s.nextCompute).all fun d => decide (s.now + idleEntry k + idleWake k + 1000 * t.margin.toNat ≤ d))

/-- The deepest idle state that fits (R299). -/
def State.idleChoice (s : State) : Nat := ([4, 3, 2, 1].find? s.idleFits).getD 0

end Sys2Proof.Machine
end

