-- ==== Sys2Proof/Machine/Power.lean ====
section
/-! DEFINITION. Power, droop, temperature and telemetry (R417 to R442). Sensor readings are the rows' operands: power in mW,
energy in nJ, temperature in 1/16 °C. -/

namespace Sys2Proof.Machine

def State.modPwr (s : State) (f : Power → Power) : State := { s with pwr := f s.pwr }

/-! Estimates (R418, R419). -/

/-- The activity counters of a core in the order of R418. -/
def Core.activity (c : Core) : List Nat := (List.range 16).map (zGet c.counts)

/-- One core's window ends: its estimate, and its counters from 0. -/
def Core.estimate (c : Core) (temp mv : Nat) : Core :=
  { c with energy := c.energy + Config.dynamicEnergy c.activity, leak := c.leak + Config.leakEnergy temp mv, counts := [] }

/-- The partition that owns a core (R390). -/
def State.corePart (s : State) (n : Nat) : Nat :=
  ((s.parts.find? fun p => decide (p.2.coreFirst.toNat ≤ n) && decide (n < p.2.coreFirst.toNat + p.2.coreCount.toNat)).map (·.1)).getD 0

def State.coreSealed (s : State) (n : Nat) : Bool := (s.part (s.corePart n)).sealed

/-- The unsealed cores of a die. -/
def State.openCores (s : State) (die : Nat) : List Nat := ((List.range 144).map (144 * die + ·)).filter fun n => !s.coreSealed n

/-- Set a core's level; one without change stays as it is. -/
def State.setLevel (s : State) (n level : Nat) : State :=
  let c := s.core n
  let l := BitVec.ofNat 4 level
  if c.level = l && c.nextLevel == l then s else s.setCore n { c with level := l, nextLevel := l }

/-- A core's level is k at least. -/
def State.raiseLevel (k : Nat) (s : State) (n : Nat) : State := s.setLevel n (max (s.core n).level.toNat k)

/-- The estimate of a core joins its own energy and that of its die (R418, R419). -/
def State.estimateCore (temps : List (BitVec 12)) (millivolts : List Nat) (s : State) (n : Nat) : State :=
  let c := (s.core n).estimate (temps.getD (n / 12) 0).toNat (millivolts.getD (n / 144) 0)
  let d := n / 144
  let e := c.energy + c.leak - (s.core n).energy - (s.core n).leak
  (s.setCore n c).modPwr fun p => { p with msEnergy := zSet p.msEnergy d (zGet p.msEnergy d + e) }

/-- A die whose clock is stretched in each of more than 1,000 windows in turn has its unsealed cores throttled (R422). -/
def State.throttleDie (s : State) (d : Nat) : State :=
  let runs := if s.pwr.stretched.contains d then zGet s.pwr.stretchRuns d + 1 else 0
  let s := s.modPwr fun p => { p with stretchRuns := zSet p.stretchRuns d runs }
  if runs ≤ 1000 then s
  else (s.openCores d).foldl (State.raiseLevel 8)
    (s.modPwr fun p => { p with droopEnd := zSet p.droopEnd d (s.now + 100000) })

/-- ESTIMATE_WINDOW (R418, R422): every core estimates the energy of its last 2 µs, with the temperature of its row and its
die's supply voltage. -/
def execEstimateWindow (temps : List (BitVec 12)) (millivolts : List Nat) (s : State) : Out :=
  .next (if !s.sup.on || s.sup.partOff || s.now < s.pwr.windowAt + 2000 then s
    else
      let s := (List.range 576).foldl (State.estimateCore temps millivolts) s
      ([0, 1, 2, 3].foldl State.throttleDie (s.modPwr fun p => { p with windowAt := s.now })).modPwr fun p => { p with stretched := [] })

/-- CALIBRATION (R419): a die's rail energy of the last millisecond, measured, against its cores' estimates. Die 4, HD, has
no ratio. -/
def execCalibration (die : Fin 5) (measured : Nat) (s : State) : Out :=
  let d := die.val
  .next (if !s.sup.on || s.now < zGet s.pwr.calAt d + 10 ^ 6 then s
    else s.modPwr fun p =>
      let sum := zGet p.msEnergy d
      let raw := roundDiv (measured * 2 ^ 15) sum
      let out := d < 4 && sum != 0 && (decide (measured * 4 < sum * 3) || decide (sum * 5 < measured * 4))
      { p with
        calAt := zSet p.calAt d s.now, measured := tabSet p.measured d (BitVec.ofNat 16 (measured / 10 ^ 6))
        msEnergy := zSet p.msEnergy d 0
        ratios := if d = 4 || sum = 0 then p.ratios else tabSet p.ratios d (BitVec.ofNat 16 (max 0x6000 (min 0xA000 raw)))
        calOut := p.calOut || out, outDies := if out then insertNat d p.outDies else p.outDies })

/-! Droop (R421, R422). -/

/-- DROOP_DETECT (R421): the clock of a die is stretched, unless within 32 cycles of the end of its last stretch. -/
def execDroopDetect (die : Fin 4) (s : State) : Out :=
  let d := die.val
  let last := zGet s.pwr.stretchAt d
  .next (if !s.sup.on || (last != 0 && decide (s.now < last + 18)) then s
    else s.modPwr fun p => { p with
      stretches := tabSet p.stretches d (tabGet 0 p.stretches d + 1), stretchAt := zSet p.stretchAt d s.now
      stretched := insertNat d p.stretched })

/-! The capping loop (R420, R423 to R427, R434 to R436). -/

/-- Energy in nJ over 100 µs as power in mW. -/
def stepPower (nj : Nat) : Nat := nj / 100

/-- The partner reserve in mW (R433). -/
def State.partnerReserve (s : State) : Nat :=
  1000 * (s.links.sites.filter fun p => p.2.state == .admitted).foldl (fun a p => a + p.2.powerW.toNat) 0

/-- Does a core run a kernel of a context whose schedule is in state 3 (R426)? -/
def State.inSolstice (s : State) (n : Nat) : Bool :=
  let c := s.core n
  c.resident && s.sol.sched.any fun p => p.2.state == 3 && p.2.streams.any fun r => r.context == c.context.toNat

/-- Dynamic power and leakage of a core over the step in mW, with a calibration ratio. -/
def Core.stepOf (c : Core) (ratio : Nat) : Nat × Nat :=
  (stepPower (c.energy * ratio / 2 ^ 15), stepPower (c.leak * ratio / 2 ^ 15))

/-- Power scaled back to level 0 (R424, R425). -/
def Core.atZero (c : Core) (dyn : Nat) : Nat := dyn * 16 / (16 - c.level.toNat)

/-- What the loop predicts at a level (R424). -/
def predicted (full leak t : Nat) : Nat := min full leak + (full - leak) * (16 - t) / 16

/-- The level of R425: the smallest that fits, falling by at most 4. -/
def levelFor (full leak old : Nat) (room : Int) : Nat :=
  let t := ((List.range 16).find? fun t => decide ((predicted full leak t : Int) ≤ room)).getD 15
  max t (old - 4)

/-- The level of a core after a step: that of its kind, raised by a droop and by HOT; a sealed core keeps its own (R422, R425, R426, R434,
R437). -/
def State.levelCore (level : Nat) (low : Bool) (s : State) (n : Nat) : State :=
  if s.coreSealed n then s
  else
    let t := if s.inSolstice n && !low then 0 else level
    let t := if s.now < zGet s.pwr.droopEnd (n / 144) then max t 8 else t
    s.setLevel n (if s.pwr.hot then max t 12 else t)

/-- Apply the levels of a step, for a power at level 0 of the cores that it throttles. -/
def State.applyLevels (s : State) (full : Nat) : State :=
  let p := s.pwr
  let fixed := p.last.uncore + s.partnerReserve + p.last.others
  let level := levelFor full p.last.leak p.level.toNat ((p.target : Int) - fixed)
  let low := decide (p.credit < 60000000)
  (List.range 576).foldl (State.levelCore level low) (s.modPwr fun p => { p with level := BitVec.ofNat 4 level })

/-- Levels of a sealed partition: from its own estimate with the ratios frozen when it was sealed against POWER_W, no lower
than a common level while SEAL_BREACH is set, and 12 while HOT is (R434, R435, R437). -/
def State.sealedLevels (s : State) (p common : Nat) : State :=
  let x := s.part p
  let cores := (List.range x.coreCount.toNat).map (x.coreFirst.toNat + ·)
  let sums := cores.foldl (fun (a : Nat × Nat) n =>
    let c := s.core n
    let e := c.stepOf (tabGet 0x8000 s.pwr.frozen (8 * p + n / 144)).toNat
    (a.1 + c.atZero e.1 + e.2, a.2 + e.2)) (0, 0)
  let t := levelFor sums.1 sums.2 (zGet s.pwr.partLevel p) (1000 * x.powerW : Nat)
  let t := if s.pwr.sealBreach then max t common else t
  cores.foldl (fun s n => s.setLevel n (if s.pwr.hot then max t 12 else t)) s

/-- The power of one core over the step, and its leakage, with its die's ratio; none during a recovery (R427). -/
def State.corePower (s : State) (n : Nat) : Nat × Nat :=
  if s.recov.state = 1 || s.recov.state == 2 then (0, 0)
  else (s.core n).stepOf (tabGet 0x8000 s.pwr.ratios (n / 144)).toNat

/-- How much the measured rail power of dies whose ratio left its range exceeds their calibrated estimate (R419). -/
def State.railExcess (s : State) : Nat :=
  s.pwr.outDies.foldl (fun a d =>
    let est := ((List.range 144).map fun k => s.corePower (144 * d + k)).foldl (fun a e => a + e.1 + e.2) 0
    a + (1000 * (tabGet 0 s.pwr.measured d).toNat - est)) 0

/-- The sums of a step. -/
structure StepSums where
  full   : Nat := 0
  leak   : Nat := 0
  loose  : Nat := 0
  others : Nat := 0
  parts  : Tab Nat := []
deriving DecidableEq, Repr

def State.stepSums (s : State) : StepSums :=
  (List.range 576).foldl (fun a n =>
    let e := s.corePower n
    let q := s.corePart n
    let a := { a with parts := zSet a.parts q (zGet a.parts q + e.1 + e.2) }
    if s.coreSealed n || s.inSolstice n then { a with others := a.others + e.1 + e.2 }
    else { a with full := a.full + (s.core n).atZero e.1 + e.2, leak := a.leak + e.2, loose := a.loose + e.1 + e.2 }) {}

/-- The thermal target after a step (R436). -/
def thermalNext (old p tj : Nat) (memHot : Bool) : Nat :=
  if 92 * 16 < tj || memHot then max 1000000 (min old p - 50000)
  else if tj < 90 * 16 then min 3600000 (old + 25000)
  else old

/-- The largest forecast of a rise in force, in mW (R428). -/
def Power.forecast (p : Power) : Nat := 1000 * p.rises.foldl (fun a r => max a r.1) 0

/-- The energy of a core counts from 0 again after a step (R424). -/
def State.clearEnergy (s : State) (n : Nat) : State :=
  let c := s.core n
  if c.energy = 0 && c.leak == 0 then s else s.setCore n { c with energy := 0, leak := 0 }

/-- What a step of the loop measures and keeps (R423 to R425, R436). -/
def State.measureStep (s : State) (power : Nat) (tj : BitVec 12) (die : Nat) : State :=
  let x := s.stepSums
  let uncore := power - (x.loose + x.others) - s.partnerReserve
  let thermal := thermalNext s.pwr.thermal power tj.toNat s.memHot
  let credit : Int := (s.pwr.credit : Int) + ((3000000 : Int) - power) * 100
  let credit := if credit < 0 then 0 else min credit.toNat 6000000000
  let since (on : Bool) (t : Option Nat) : Option Nat := if on then some (t.getD s.now) else none
  s.modPwr fun p => { p with
    credit := credit, thermal := thermal, target := min (if 60000000 ≤ credit then 3600000 else 3000000) thermal
    energy := p.energy + power * 100, tjMax := tj, tjDie := BitVec.ofNat 3 die, lastStep := s.now
    partEnergy := x.parts.foldl (fun t q => zSet t q.1 (zGet t q.1 + q.2 * 100)) p.partEnergy
    partCore := x.parts
    coreLast := (List.range 576).foldl (fun t n => zSet t n ((s.corePower n).1 + (s.corePower n).2)) []
    last := { power := power, uncore := uncore, others := x.others, full := x.full + s.railExcess, leak := x.leak }
    hotSince := since (decide (95 * 16 ≤ tj.toNat)) p.hotSince
    coolSince := since (decide (tj.toNat < 90 * 16)) p.coolSince }

/-- SEAL_BREACH (R435): the target is exceeded without credit although every unsealed core is at the highest level. -/
def State.noteBreach (s : State) (power : Nat) : State :=
  if decide (s.pwr.target < power) && decide (s.pwr.credit < 60000000)
      && (List.range 576).all (fun n => s.coreSealed n || (s.core n).level == 15) && s.parts.any fun q => q.2.sealed then
    s.modPwr fun p => { p with sealBreach := true, breachAt := s.now }
  else s

/-- The levels of a step, for every core (R425, R426, R428, R434, R435). -/
def State.levelStep (s : State) (power loose : Nat) : State :=
  let y := s.pwr.last
  let fixed := y.uncore + s.partnerReserve
  let s := (s.applyLevels (max y.full (s.pwr.forecast - (fixed + y.others)))).noteBreach power
  let common := levelFor y.others 0 0 ((s.pwr.target : Int) - (fixed + loose))
  (s.parts.filter fun q => q.2.sealed).foldl (fun s q => s.sealedLevels q.1 common) s

/-- The highest level of the cores of each partition, from which its level falls at the next step (R425, R434). -/
def State.partLevels (s : State) (cores : List Nat) : Tab Nat :=
  cores.foldl (fun t n =>
    let q := s.corePart n
    zSet t q (max (zGet t q) (s.core n).level.toNat)) []

def State.notePartLevels (s : State) (cores : List Nat) : State :=
  let levels := s.partLevels cores
  s.modPwr fun p => { p with partLevel := levels }

def State.clearEnergies (s : State) (cores : List Nat) : State := cores.foldl State.clearEnergy s

/-- CAPPING_LOOP_STEP (R425): with the package input power over the step and the highest junction reading and its die. -/
def execCappingLoopStep (power : Nat) (tj : BitVec 12) (die : Fin 5) (s : State) : Out :=
  .next (if !s.sup.on || s.now < s.pwr.lastStep + 100000 then s
    else
      (((s.measureStep power tj die).levelStep power s.stepSums.loose).clearEnergies (List.range 576)).notePartLevels (List.range 576))

/-- SEAL_BREACH_CLEAR (R435). -/
def execSealBreachClear (s : State) : Out :=
  .next (if s.pwr.sealBreach && decide (s.pwr.breachAt + 10 ^ 8 ≤ s.now) then s.modPwr fun p => { p with sealBreach := false } else s)

/-! Phase hints (R428, R429). -/

/-- PHASE_FIRE (R428): a rise comes into force, or a fall ends the rises of its context and the loop runs one extra step. -/
def execPhaseFire (entry : Fin 4096) (s : State) : Out :=
  .next (s.fireEntry entry 2 fun s e _ =>
    let arg := e.arg.toNat
    let power := arg / 2 ^ 8 % 2 ^ 16
    let c := e.context.toNat
    let hint := (power, s.now + 1000 * (arg / 2 ^ 32), c)
    if arg % 2 = 0 then s.modPwr fun p => { p with rises := p.rises ++ [hint], setPoint := true }
    else
      let s := s.modPwr fun p =>
        let rises := p.rises.filter fun r => r.2.2 != c
        { p with rises := rises, falls := p.falls ++ [hint], setPoint := !rises.isEmpty }
      let x := s.pwr.last
      s.applyLevels (1000 * power - (x.uncore + s.partnerReserve + x.others)))

/-- PHASE_EXPIRY (R429): hints whose DURATION_US has run out leave force. -/
def execPhaseExpiry (s : State) : Out :=
  .next (s.modPwr fun p =>
    let rises := p.rises.filter fun r => decide (s.now < r.2.1)
    { p with rises := rises, falls := p.falls.filter fun r => decide (s.now < r.2.1), setPoint := !rises.isEmpty })

/-! Temperature (R437 to R440). -/

/-- The governor asks every schedule in operation for the level of HOT (R437). -/
def State.governHot (s : State) : State :=
  { s with sol := { s.sol with sched := s.sol.sched.map fun p => (p.1, if p.2.state = 3 then { p.2 with govReq := 24 } else p.2) } }

/-- HOT (R437). -/
def execHot (s : State) : Out :=
  .next (if !s.pwr.hot && heldFor s.pwr.hotSince (10 ^ 6) s.now then
      ((List.range 576).foldl (State.raiseLevel 12) (s.modPwr fun p => { p with hot := true })).governHot
    else s)

/-- HOT_CLEAR (R437). -/
def execHotClear (s : State) : Out :=
  .next (if s.pwr.hot && heldFor s.pwr.coolSince (10 ^ 7) s.now then s.modPwr fun p => { p with hot := false } else s)

/-- The compute dies lose their clocks and their supply. -/
def State.stopDies (s : State) : State :=
  { s with cores := s.cores.map fun p => (p.1, { p.2 with stopped := true }), recov := { s.recov with noPower := true } }

/-- THERMAL_TRIP (R438): a junction sensor reads 105 °C or more; sensors 16 d to 16 d + 15 are those of compute die d, 64 to 67
those of HD. -/
def execThermalTrip (sensor : Fin 68) (reading : BitVec 12) (s : State) : Out :=
  .next (if !s.sup.on || reading.toNat < 105 * 16 then s
    else
      let s := (s.deviceFault 0x13 (sensor.val + reading.toNat * 2 ^ 8) (sensor.val / 16)).stopDies
      s.modPwr fun p => { p with therm := true, tjMax := reading, tjDie := BitVec.ofNat 3 (sensor.val / 16) })

/-- Does the configuration record declare the thermistor (R474)? -/
def State.thermistor (s : State) : Bool := byteAt s.sec.config 0x0C 4 % 2 == 1

/-- COOLANT_READ (R440): the inlet temperature, none outside the thermistor's range. -/
def execCoolantRead (reading : Option (BitVec 12)) (s : State) : Out :=
  .next (if !s.sup.on || !s.thermistor then s
    else s.modPwr fun p =>
      match reading with
      | none => { p with coolantValid := false }
      | some r =>
        let warm := if 40 * 16 < r.toNat then some (p.inletSince.getD s.now) else none
        let cool := if r.toNat ≤ 39 * 16 then some (p.inletCool.getD s.now) else none
        let set := heldFor warm (10 ^ 9) s.now
        let clear := heldFor cool (10 ^ 10) s.now
        { p with coolant := r, coolantValid := true, inletSince := warm, inletCool := cool
                 coolantHigh := (p.coolantHigh || set) && !clear })

/-! Telemetry (R442). -/

/-- The telemetry record of an entry. -/
def State.telemetryRecord (s : State) (e : CalEntry) (late : Bool) : List Byte :=
  let p := s.pwr
  let q := e.partition.toNat
  let x := s.part q
  let set := e.arg.toNat % 2
  let shown := set == 0 || q == 0
  let head := leBytes 8 p.lastStep ++ leBytes 4 (e.count + 1) ++ [BitVec.ofNat 8 set, BitVec.ofNat 8 (b2n shown + 2 * b2n late), 0, 0]
  let pace := (s.sol.sched.filter fun g => g.2.state == 3 && g.2.partition.toNat == q).foldl (fun a g => max a g.2.pace.toNat) 0
  let part := leBytes 4 (zGet p.partCore q) ++ leBytes 4 (if x.sealed then 1000 * x.powerW else 0) ++ leBytes 4 0
    ++ [BitVec.ofNat 8 (zGet p.partLevel q), BitVec.ofNat 8 pace, 0, 0] ++ leBytes 8 0 ++ leBytes 8 (zGet p.partEnergy q / 1000)
  let package := leBytes 4 p.last.power ++ leBytes 4 p.last.uncore ++ leBytes 4 s.partnerReserve
    ++ [BitVec.ofNat 8 p.level.toNat, 0] ++ leBytes 2 p.tjMax.toNat ++ leBytes 4 (p.credit / 10 ^ 6) ++ leBytes 4 (p.thermal / 1000)
    ++ leBytes 8 (p.energy / 1000)
  padTo 64 (head ++ (if !shown then [] else if set = 0 then part else package))

/-- TELEMETRY (R442): the record is written to the context's memory; where that fails translation the entry is freed. -/
def execTelemetry (entry : Fin 4096) (s : State) : Out :=
  .next (match s.turnOf entry 5 with
    | none => s
    | some e =>
      let late := e.past || (s.cal.window == s.now / 100 && decide (64 ≤ s.cal.fired))
      if s.shut then s.fireEntry entry 5 fun s _ _ => s
      else match s.vwrite (s.hdVia e.context.toNat) (e.arg.toNat / 64 * 64) (s.telemetryRecord e late) with
        | (.error .busy, s) => s
        | (.error (.fault _), s) => s.fireEntry entry 5 fun s _ _ => { s with cal := { s.cal with entries := tabDel s.cal.entries entry } }
        | (.error .faulted, s) => s.fireEntry entry 5 fun s _ _ => s
        | (.ok _, s) => s.fireEntry entry 5 fun s _ _ => s)

end Sys2Proof.Machine
end

