-- ==== Sys2Proof/Machine/SolOps.lean ====
section
/-! DEFINITION. What the rows of the Solstice path share: slots and epochs (R337, R338), points and their buffers (R339,
R346), collisions (R348), the requests and decisions of a pace group (R350 to R353, R430), fallback (R359, R461). -/

namespace Sys2Proof.Machine

/-! Slots. -/

/-- The epoch period at a pace (R337). -/
def Schedule.period (x : Schedule) (q : Nat) : Nat := (4096 + 512 * q) * x.slotNs

/-- The compiled slot at a time of the present epoch, and whether the time lies in it and not in an idle slot after it
(R337). -/
def Schedule.slotNow (x : Schedule) (now : Nat) : Option (Nat × Bool) :=
  if now < x.epochAt || x.slotNs == 0 then none
  else
    let d := (now - x.epochAt) / x.slotNs
    let q := x.pace.toNat
    let k := min 4095 ((8 * d + 7) / (8 + q))
    some (k, k * (8 + q) / 8 == d)

/-- A compiled slot of the present epoch, counted from slot 0 of epoch 0. -/
def Schedule.abs (x : Schedule) (k : Nat) : Nat := x.epoch.toNat * 4096 + k

/-- TAG (R341): bytes 0x10 to 0x13 of the DIGEST. -/
def Schedule.tag (x : Schedule) : Nat := byteAt x.digest 0x10 4

/-- Is an entry in force in a compiled slot? -/
def SlotEntry.at_ (e : SlotEntry) (k : Nat) : Bool := decide (e.first ≤ k) && decide (k < e.first + e.slots)

/-! Points. -/

/-- The die of a point: 0 to 3, 4 for HD (R254, R339). A die-link direction sends from the die at its end. -/
def pointDie (p : Nat) : Nat :=
  if p < 576 then p / 144
  else if 1024 ≤ p && p < 1600 then (p - 1024) / 144
  else if 2048 ≤ p && p < 2064 then
    let l := (p - 2048) / 2
    if p % 2 = 0 then (if l < 4 then l else l - 4) else (if l < 4 then 4 else (l - 3) % 4)
  else 4

def queueKey (point stream : Nat) : Nat := 65536 * point + stream

/-- Units that a schedule may hold on a die (R346). -/
def State.bufferUnits (s : State) (g die : Nat) : Nat :=
  let size := if die = 4 then 8 * 2 ^ 20 else 2 * 2 ^ 20
  let sum := (s.sol.sched.filter fun p => p.2.state != 0).foldl (fun a p => a + p.2.share) 0
  if sum = 0 then 0 else size * (s.sched g).share / sum / 64

def Schedule.held (x : Schedule) (die : Nat) : Nat :=
  (x.queues.filter fun q => pointDie (q.1 / 65536) == die).foldl (fun a q => a + q.2.length) 0

def Schedule.modStr (x : Schedule) (k : Nat) (f : StreamState → StreamState) : Schedule := { x with str := tabMod {} x.str k f }

def Schedule.setQueue (x : Schedule) (key : Nat) (q : List SolUnit) : Schedule :=
  { x with queues := if q.isEmpty then tabDel x.queues key else tabSet x.queues key q }

/-- Late units are counted (R347). -/
def Schedule.addLate (x : Schedule) (n : Nat) : Schedule :=
  if n = 0 then x else { x with lateCount := x.lateCount + BitVec.ofNat 64 n, late := true }

/-- Units discarded (R314, R336). -/
def State.discardUnits (s : State) (n : Nat) : State := { s with fab := { s.fab with discarded := s.fab.discarded + BitVec.ofNat 64 n } }

/-! Collisions (R348). -/

/-- A collision: SOL_FAULT_g holds the first; a job fault that names the owner of the stream, else the context of the JOIN.
None in state 5 (R461). -/
def State.collide (s : State) (g cause point stream slot : Nat) : State :=
  let x := s.sched g
  if x.state = 5 then s
  else
    let f := if x.fault = 0 then BitVec.ofNat 64 (pack [(3, cause), (12, point), (16, stream), (12, slot), (21, 0)]) else x.fault
    let s := s.setSched g { x with fault := f }
    let die := pointDie point
    let detail := f.toNat + g
    if x.state = 0 then s.arise 2 { FaultRec.untagged s 0x05 detail with die := BitVec.ofNat 8 die }
    else
      let ctx := ((x.streams.find? fun r => r.stream == stream).map (·.context)).getD x.joinCtx
      s.jobFault { ctx := ctx, part := x.partition.toNat } 0x05 die 0 detail

/-! The requests of a device (R351, R353, R430). -/

/-- The contexts of a schedule's streams. -/
def Schedule.owns (x : Schedule) (ctx : Nat) : Bool := x.streams.any fun r => r.context == ctx

/-- POWER_W of hints whose span [from, to) meets a test: those in force, and those that are armed (R428, R430). -/
def State.hints (s : State) (x : Schedule) (kind : Nat) (meets : Nat → Nat → Bool) : List Nat :=
  let live := (if kind = 0 then s.pwr.rises else s.pwr.falls).filter fun r => x.owns r.2.2 && meets 0 r.2.1
  let armed := s.cal.entries.filterMap fun p =>
    let e := p.2
    if e.cls = 2 && e.arg.toNat % 2 == kind && x.owns e.context.toNat then
      match e.dueAt s.tim with
      | some d => if meets d (d + 1000 * (e.arg.toNat / 2 ^ 32)) then some (e.arg.toNat / 2 ^ 8 % 2 ^ 16) else none
      | none => none
    else none
  live.map (·.1) ++ armed

/-- GOV_REQ (R430), powers in mW; HOT asks for 24 (R437). -/
def State.govern (s : State) (x : Schedule) : Nat :=
  let q := x.pace.toNat
  let from_ := x.epochAt + x.period q
  let to_ := from_ + x.period q
  let sealed_ := (s.part x.partition.toNat).sealed
  let mine := (List.range 576).filter fun n => (s.core n).resident && x.owns (s.core n).context.toNat
  let group := mine.foldl (fun a n => a + zGet s.pwr.coreLast n) 0
  let o : Int := if sealed_ then 0 else (s.pwr.last.power : Int) - group
  let f := 1000 * (s.hints x 0 fun a b => decide (a < to_) && decide (from_ < b)).foldl max 0
  let falls := s.hints x 1 fun a b => decide (a ≤ from_) && decide (from_ < b)
  let measured : Int := if falls.isEmpty then (group * (8 + q) / 8 : Nat) else ((1000 * falls.foldl max 0 : Nat) : Int) - o
  let power := max measured (f - o)
  let room : Int := (if sealed_ then 1000 * (s.part x.partition.toNat).powerW else min 3000000 s.pwr.thermal : Nat) - o
  if s.pwr.hot || decide (room ≤ 0) then 24
  else
    let n := 8 * power - 8 * room
    if n ≤ 0 then 0 else min 24 (ceilDiv n.toNat room.toNat)

/-! Pace records (R350). -/

def paceLine (epoch qNow q : Nat) (down late time : Bool) (tag requester : Nat) : Line :=
  BitVec.ofNat 512 (epoch + qNow * 2 ^ 64 + q * 2 ^ 72 + (b2n down + 2 * b2n late + 4 * b2n time) * 2 ^ 80 + tag * 2 ^ 96 + requester * 2 ^ 128)

def recQ (r : Line) : Nat := lineRd r 9 1
def recDown (r : Line) : Bool := (lineRd r 10 1).testBit 0
def recLate (r : Line) : Bool := (lineRd r 10 1).testBit 1
def recTime (r : Line) : Bool := (lineRd r 10 1).testBit 2
def recReq (r : Line) : Nat := lineRd r 0x10 2

/-- Entries that bring records to the pace point, and those through which it sends. -/
def Schedule.paceIn (x : Schedule) : List SlotEntry := x.entries.filter fun e => e.point == 4094 && e.source != 4095
def Schedule.paceSrc (x : Schedule) : List SlotEntry := x.entries.filter fun e => e.point == 4094 && e.source == 4095

/-- The first slot in which the pace point sends. -/
def Schedule.firstPace (x : Schedule) : Nat := x.paceSrc.foldl (fun a e => min a e.first) 4096

/-- Up records that come before it: one from each child. -/
def Schedule.children (x : Schedule) : Nat :=
  (x.paceIn.filter fun e => decide (e.first < x.firstPace)).foldl (fun a e => a + e.slots * e.units) 0

/-- No record comes after it: this member is the root. -/
def Schedule.root (x : Schedule) : Bool := x.paceIn.all fun e => decide (e.first < x.firstPace)

/-- Down records that this member sends. -/
def Schedule.copies (x : Schedule) : Nat :=
  x.paceSrc.foldl (fun a e => a + e.slots * e.units) 0 - (if x.root then 0 else 1)

/-- The decision for the next epoch is known, and goes down (R350, R351). -/
def Schedule.decide_ (x : Schedule) (q : Nat) (late time : Bool) (requester : Nat) : Schedule :=
  { x with decision := some (q, time), nextQ := BitVec.ofNat 5 q
           paceOut := x.paceOut ++ List.replicate x.copies (paceLine x.epoch.toNat x.pace.toNat q true late time x.tag requester) }

/-- Once every child has reported, the maximum goes up; the root decides. Of equal requests the lowest device's is named. -/
def Schedule.combine (x : Schedule) (device : Nat) : Schedule :=
  if x.ups.length != x.children || x.decision.isSome then x
  else
    let q := x.ups.foldl (fun a r => max a (recQ r)) x.ownReq.toNat
    let who := (x.ups.filter fun r => recQ r == q).foldl (fun a r => min a (recReq r)) (if x.ownReq.toNat = q then device else 65535)
    let late := x.late || x.ups.any recLate
    let time := x.time || x.ups.any recTime
    if x.root then x.decide_ q late time who
    else { x with paceOut := x.paceOut ++ [paceLine x.epoch.toNat x.pace.toNat q false late time x.tag who] }

/-- The sample at the start of an epoch (R351, R353). A member in state 5 asks for nothing (R461). LATE tells of the epoch
that has ended. -/
def State.sample (s : State) (g : Nat) (ended : Bool) : State :=
  let x := s.sched g
  let relays := x.state == 5
  let rise := if ended && x.late then min 24 (x.lateReq.toNat + 1) else x.lateReq.toNat
  let run := if !ended || x.late then 0 else x.goodRun + 1
  let lateReq := if run = 256 then rise - 1 else rise
  let unlocked := if s.tim.state = .locked then 0 else x.unlocked + 1
  let off := if x.guardNs - 4 < 2 * s.tim.offset.toInt.natAbs then x.offRun + 1 else 0
  let gov := if relays then 0 else s.govern x
  let y : Schedule := { x with
    lateReq := BitVec.ofNat 5 lateReq, goodRun := if run = 256 then 0 else run, govReq := BitVec.ofNat 5 gov
    ownReq := if relays then 0 else BitVec.ofNat 5 (max gov lateReq), unlocked := unlocked, offRun := off
    time := !relays && (decide (16 ≤ unlocked) || decide (16 ≤ off)), ups := [], decision := none, paceOut := [] }
  s.setSched g { (y.combine s.fab.device.toNat) with late := false }

/-! Epochs. -/

/-- A running schedule goes over to Equinox fallback at the start of an epoch (R353, R359). -/
def Schedule.fall (x : Schedule) (t old : Nat) : Schedule :=
  { x with state := 4, cause := 3, fallbackAt := t + x.period old
           str := x.str.map fun p => (p.1, { p.2 with written := p.2.sent, added := p.2.sent, adding := none }) }

/-- An epoch starts at t with what has been decided for it (R337, R351, R352). -/
def State.beginEpoch (s : State) (g t : Nat) : State :=
  let x := s.sched g
  let start (q : Nat) : Schedule := { x with epoch := x.epoch + 1, pace := BitVec.ofNat 5 q, epochAt := t }
  if x.state = 5 then (s.setSched g (start ((x.decision.map (·.1)).getD x.pace.toNat))).sample g true
  else match x.decision with
    | none => s.collide g 7 4094 65535 0
    | some (q, true) => s.setSched g ((start q).fall t x.pace.toNat)
    | some (q, false) => (s.setSched g (start q)).sample g true

/-- In state 5 the pace point counts epochs by itself (R461): epochs that have passed since. -/
def State.relayEpochs (s : State) (g : Nat) : State :=
  let x := s.sched g
  if x.state ≠ 5 || x.slotNs == 0 || decide (s.now < x.epochAt + x.period x.pace.toNat) then s
  else
    let s := s.beginEpoch g (x.epochAt + x.period x.pace.toNat)
    let y := s.sched g
    let p := y.period y.pace.toNat
    let n := (s.now - y.epochAt) / p
    if n = 0 then s
    else (s.setSched g { y with epoch := y.epoch + BitVec.ofNat 64 (n - 1), epochAt := y.epochAt + (n - 1) * p }).beginEpoch g (y.epochAt + n * p)

/-- A schedule starts to run at T0, on Solstice or in fallback with its cause (R355, R356). -/
def State.startRun (s : State) (g cause t0 : Nat) : State :=
  let x := s.sched g
  let y : Schedule := { x with
    state := if cause = 0 then 3 else 4, cause := BitVec.ofNat 3 cause, pace := BitVec.ofNat 5 x.paceInit, nextQ := 0
    epoch := 0, t0 := BitVec.ofNat 64 t0, epochAt := t0, fallbackAt := 0, queues := [], str := [], sentAt := [], paceOut := [], ups := []
    decision := none, late := false, time := false, lateReq := 0, goodRun := 0, unlocked := 0, offRun := 0 }
  let s := s.setSched g y
  if cause = 0 then s.sample g false else s

/-- The firmware's EPOCH entry (R337): due at an epoch's start, with the period of that epoch. -/
def State.armEpoch (s : State) (g t q n : Nat) : State :=
  let x := s.sched g
  let e : CalEntry := { due := BitVec.ofNat 64 t, period := BitVec.ofNat 64 (x.period q), cls := 1, arg := BitVec.ofNat 64 x.paceGroup.toNat, n := n }
  { s with cal := { s.cal with entries := tabSet s.cal.entries (epochEntry g) e } }

end Sys2Proof.Machine
end

