-- ==== Sys2Proof/Machine/Solstice.lean ====
section
/-! DEFINITION. The Solstice path at work: groups that points send (R341, R346, R347), headers and units that arrive (R343,
R348), landing (R334, R335), overdue units, epochs (R337) and pace records (R350 to R353). -/

namespace Sys2Proof.Machine

/-! Sending. -/

/-- Take the first elements with a property, up to n; the others keep their order. -/
def takeUpTo {α : Type} (p : α → Bool) : Nat → List α → List α × List α
  | _, [] => ([], [])
  | n, x :: xs =>
    if n != 0 && p x then
      let r := takeUpTo p (n - 1) xs
      (x :: r.1, r.2)
    else
      let r := takeUpTo p n xs
      (r.1, x :: r.2)

/-- Units of a core's send queue leave for an entry (R333). -/
def State.takeSource (s : State) (g : Nat) (e : SlotEntry) : List Line × State :=
  let n := e.point
  let (us, rest) := takeUpTo (fun u : SendUnit => u.sched == g && u.stream == e.stream) e.units (s.core n).sendq
  let s := if us.isEmpty then s else s.modCore n fun c => { c with sendq := rest }
  let x := s.sched g
  let s := if us.isEmpty then s else s.setSched g (x.modStr e.stream fun y => { y with sent := y.sent + 64 * us.length })
  (us.map (·.data), us.foldl (fun s u => s.unitLeft n u.cpe u.copy) s)

/-- What a point sends for an entry in a slot: units that are due, the late ones counted (R346, R347). -/
def State.takeFor (s : State) (g abs : Nat) (e : SlotEntry) : List Line × State :=
  let x := s.sched g
  if e.source = 4095 then
    if e.point = 4094 then (x.paceOut.take e.units, s.setSched g { x with paceOut := x.paceOut.drop e.units })
    else if x.state = 4 then ([], s) else s.takeSource g e
  else
    let key := queueKey e.point e.stream
    let q := tabGet [] x.queues key
    let us := (q.takeWhile fun u => decide (u.due ≤ abs)).take e.units
    let y := (x.setQueue key (q.drop us.length)).addLate (us.filter fun u => decide (u.due < abs)).length
    (us.map (·.data), if us.isEmpty then s else s.setSched g y)

/-- A slot header unit (R341). -/
def slotHeader (epoch slot tag : Nat) (streams : List (Nat × Nat)) : Line :=
  let list := streams.flatMap fun p => leBytes 2 p.1 ++ leBytes 2 p.2
  bytesLine (padTo 64 (leBytes 4 epoch ++ leBytes 2 slot ++ [BitVec.ofNat 8 streams.length, 0] ++ leBytes 4 tag ++ leBytes 4 0 ++ list))

/-- A group leaves its point: to the other points of this device, or by its port, or nowhere where the port is down. -/
def State.emit (s : State) (point : Nat) (group : List Line) : State :=
  if 3072 ≤ point && point < 3090 then
    if (s.port (point - 3072)).up then { s with sol := { s.sol with out := tabSet s.sol.out (point - 3072) group } }
    else s.discardUnits group.length
  else { s with sol := { s.sol with wires := s.sol.wires ++ [(point, group)] } }

/-- May a point send for a schedule in its state? In state 5 only the points on HD between other devices do (R349, R461); in
fallback only the units that are on their way (R359). -/
def Schedule.sends (x : Schedule) (point now : Nat) : Bool :=
  x.state == 3 || (x.state == 4 && x.cause == 3 && decide (now ≤ x.fallbackAt)) || (x.state == 5 && decide (3072 ≤ point))

/-- The group of one schedule at a point (R341): once in each of its slots. -/
def State.sendGroup (s : State) (g point : Nat) : State :=
  let s := s.relayEpochs g
  let x := s.sched g
  match x.slotNow s.now with
  | some (k, true) =>
    let es := x.entries.filter fun e => e.point == point && e.at_ k
    if es.isEmpty || !x.sends point s.now || decide (x.abs k < zGet x.sentAt point) then s
    else
      let s := s.setSched g { x with sentAt := zSet x.sentAt point (x.abs k + 1) }
      let r := es.foldl (fun (acc : List (Nat × Nat) × List Line × State) e =>
        let (us, s) := acc.2.2.takeFor g (x.abs k) e
        (acc.1 ++ [(e.stream, us.length)], acc.2.1 ++ us, s)) ([], [], s)
      r.2.2.emit point (slotHeader x.epoch.toNat k x.tag r.1 :: r.2.1)
  | _ => s

/-! Landing (R334, R335). -/

/-- A unit of a stream is written into the ring and counted; none while a home is busy. Units of a stopped stream, or whose
ring or counter does not translate, are discarded and counted. -/
def State.landUnit (s : State) (g : Nat) (r : StreamRec) (data : Line) : Option State :=
  let x := s.sched g
  let y := tabGet {} x.str r.stream
  let v : Via := { tag := { ctx := r.context, part := x.partition.toNat }, requester := 4 * r.sinkCore + 1 + b2n (r.cpes.getLsbD 4), hd := true }
  let ring := 2 ^ r.ringLog2
  if y.stopped then some (s.discardUnits 1)
  else match s.vwrite v (r.ringVa + y.landed % ring) (lineBytes data) with
    | (.error .busy, _) => none
    | (.error (.fault _), s) => some (s.discardUnits 1)
    | (.error .faulted, s) => some s
    | (.ok _, s) =>
      match s.translate v r.ctrVa .counter with
      | (.ok (.mem pa), s) =>
        match s.access { kind := .atomic, op := .add, requester := v.requester, line := pa / 64, off := pa % 64, len := 8, data := 64, tag := v.tag } with
        | (.busy, _) => none
        | (.faulted, s) => some s
        | (.done _, s) =>
          let x := s.sched g
          let x := x.modStr r.stream fun y => { y with landed := y.landed + 64 }
          some (s.setSched g (if y.consumed + ring < y.landed + 64 then { x with overrun := x.overrun + 1 } else x))
      | (.error .busy, _) => none
      | (_, s) => some (s.discardUnits 1)

/-! Fallback (R359). -/

/-- The add that a stream's answered bytes allow: none is without answer, and each WRITE it counts has its COMP. -/
def State.fallAdd (s : State) (g n : Nat) (r : StreamRec) : State :=
  let x := s.sched g
  let y := tabGet {} x.str r.stream
  let v := s.engVia n (cpeEng (b2n (r.cpes.getLsbD 0)))
  if y.adding.isSome || y.written != y.sent || decide (y.written ≤ y.added) || decide (s.now < x.fallbackAt) then s
  else match s.translate v r.ctrRemote .counter with
    | (.ok (.remote imp ta), s) =>
      match s.sendRemote v 5 0 imp ta 0 (y.written - y.added) [] false (.streamAdd g r.stream) with
      | none => s
      | some (_, s) => s.setSched g ((s.sched g).modStr r.stream fun y => { y with adding := some y.written })
    | (.error .busy, s) => s
    | (.error e, s) => s.stopped n (cpeEng (b2n (r.cpes.getLsbD 0))) e
    | (_, s) => s

/-- The first unit of a core's queue goes out as a WRITE through RING_REMOTE; a sink on this device lands it. -/
def State.fallUnit (s : State) (g n : Nat) : State :=
  let x := s.sched g
  match (s.core n).sendq.find? fun u => u.sched == g with
  | none => s
  | some u =>
    match x.streams.find? fun r => r.stream == u.stream with
    | none => s
    | some r =>
      let y := tabGet {} x.str r.stream
      let v := s.engVia n (cpeEng u.cpe)
      let left (s : State) : State :=
        let s := s.modCore n fun c => { c with sendq := (takeUpTo (fun w : SendUnit => w.sched == g && w.stream == u.stream) 1 c.sendq).2 }
        (s.setSched g ((s.sched g).modStr r.stream fun y => { y with sent := y.sent + 64 })).unitLeft n u.cpe u.copy
      if r.sinkDev = s.fab.device.toNat then
        if y.landed != y.sent || decide (s.now < x.fallbackAt) then s
        else match s.landUnit g r u.data with
          | none => s
          | some s => left s
      else match s.translate v (r.ringRemote + y.sent % 2 ^ r.ringLog2) .write with
        | (.ok (.remote imp ta), s) =>
          match s.sendRemote v 2 0 imp ta 64 0 (lineBytes u.data) false (.stream g r.stream 64) with
          | none => s
          | some (_, s) => left s
        | (.error .busy, s) => s
        | (.error e, s) => s.stopped n (cpeEng u.cpe) e
        | (_, s) => s

/-- What the source CPEs of a core do for a schedule in fallback. -/
def State.fallBack (s : State) (g n : Nat) : State :=
  let x := s.sched g
  if x.state ≠ 4 || !s.live n then s
  else
    let mine := x.streams.filter fun r => r.role.getLsbD 0 && r.srcCore == n && r.sinkDev != s.fab.device.toNat && r.context == (s.core n).context.toNat
    (mine.foldl (fun s r => s.fallAdd g n r) s).fallUnit g n

/-- SLOT_SEND (R341): a point in the present slot; the schedules in ascending order. -/
def execSlotSend (point : Fin 4096) (s : State) : Out :=
  .next (if !s.sup.on then s
    else
      let s := [0, 1, 2, 3].foldl (fun s g => s.sendGroup g point) s
      if point.val < 576 then [0, 1, 2, 3].foldl (fun s g => s.fallBack g point) s else s)

/-! Receiving (R343, R346, R348). -/

/-- The entries that a stream's units of a slot of a feeding point go to. -/
def Schedule.fedBy (x : Schedule) (source stream slot : Nat) : List SlotEntry :=
  x.entries.filter fun e => e.source == source && e.source != 4095 && e.stream == stream && e.at_ ((slot + e.delay) % 4096)

/-- Units are queued at the point of an entry. -/
def State.enqueue (s : State) (g due slot : Nat) (e : SlotEntry) (us : List Line) : State :=
  let x := s.sched g
  let die := pointDie e.point
  if us.isEmpty then s
  else if 1024 ≤ e.point && e.point < 1600 && (x.state == 5 || (x.state == 4 && decide (x.fallbackAt < s.now))) then
    s.collide g 4 e.point e.stream slot
  else if s.bufferUnits g die < x.held die + us.length then s.collide g 5 e.point e.stream slot
  else
    let key := queueKey e.point e.stream
    s.setSched g (x.setQueue key (tabGet [] x.queues key ++ us.map fun u => { due := due + e.delay, data := u }))

/-- The lists of a header, one after another: the units that follow are theirs; units that none lists are a collision. -/
def State.takeLists (g source epochAbs slot : Nat) : List (Nat × Nat) → List Line → State → State
  | [], us, s => if us.isEmpty then s else s.collide g 1 source 65535 slot
  | (stream, n) :: rest, us, s =>
    let es := (s.sched g).fedBy source stream slot
    let s := if es.isEmpty then s.collide g 1 source stream slot
      else if es.any fun e => decide (e.units < n) then s.collide g 2 source stream slot
      else es.foldl (fun s e => s.enqueue g epochAbs slot e (us.take n)) s
    State.takeLists g source epochAbs slot rest (us.drop n) s

/-- A group arrives from a point. -/
def State.takeGroup (s : State) (source : Nat) (h : Line) (us : List Line) : State :=
  let slot := lineRd h 4 2 % 4096
  match [0, 1, 2, 3].find? fun g => (s.sched g).state != 0 && (s.sched g).tag == lineRd h 8 4 with
  | none => s.collide (([0, 1, 2, 3].find? fun g => (s.sched g).entries.any fun e => e.source == source).getD 0) 3 source 65535 slot
  | some g =>
    let s := s.relayEpochs g
    let e := (s.sched g).epoch.toNat
    let lists := (List.range (min 12 (lineRd h 6 1))).map fun i => (lineRd h (0x10 + 4 * i) 2, lineRd h (0x12 + 4 * i) 2)
    if e % 2 ^ 32 = lineRd h 0 4 then State.takeLists g source (e * 4096 + slot) slot lists us s
    else if e != 0 && (e - 1) % 2 ^ 32 == lineRd h 0 4 then State.takeLists g source ((e - 1) * 4096 + slot) slot lists us s
    else s.collide g 3 source ((lists.head?.map (·.1)).getD 65535) slot

/-- SLOT_HEADER_RECEIVE (R348): a group comes in at an ingress, 3,200 + p; or the points that a point of this device feeds
take the oldest group that it has sent. -/
def execSlotHeaderReceive (source : Fin 4096) (header : BitVec 512) (units : List (BitVec 512)) (s : State) : Out :=
  let p := source.val
  .next (if !s.sup.on then s
    else if 3200 ≤ p && p < 3218 then (if (s.port (p - 3200)).up then s.takeGroup p header units else s)
    else match s.sol.wires.find? fun w => w.1 == p with
      | some (_, h :: us) =>
        ({ s with sol := { s.sol with wires := (takeUpTo (fun w : Nat × List Line => w.1 == p) 1 s.sol.wires).2 } } : State).takeGroup p h us
      | _ => s)

/-- UNIT_LAND (R334): the land point of a core takes the next unit of a stream in one of its slots. -/
def execUnitLand (core : Fin 576) (g : Fin 4) (stream : BitVec 16) (s : State) : Out :=
  let x := s.sched g
  let p := 1024 + core.val
  let key := queueKey p stream.toNat
  .next (match x.slotNow s.now, tabGet [] x.queues key, x.streams.find? fun r => r.stream == stream.toNat with
    | some (k, true), u :: us, some r =>
      let y := tabGet {} x.str stream.toNat
      let done := if y.slotAt = x.abs k then y.slotCount else 0
      let fits := x.entries.any fun e => e.point == p && e.stream == stream.toNat && e.at_ k && decide (done < e.units)
      if !fits || !(x.state == 3 || x.state == 4) || !s.serving || decide (x.abs k < u.due) then s
      else
        let z := ((x.setQueue key us).addLate (if u.due < x.abs k then 1 else 0)).modStr stream.toNat fun y => { y with slotAt := x.abs k, slotCount := done + 1 }
        (((s.setSched g z).landUnit g r u.data).getD s)
    | _, _, _ => s)

/-- UNIT_OVERDUE (R348): 4,096 slots after its due slot a unit still stands in its queue. -/
def execUnitOverdue (g : Fin 4) (point : Fin 4096) (stream : BitVec 16) (s : State) : Out :=
  let x := s.sched g
  let key := queueKey point stream.toNat
  .next (match x.slotNow s.now, tabGet [] x.queues key with
    | some (k, _), u :: us =>
      if x.abs k < u.due + 4096 || x.state == 5 then s
      else (s.setSched g (x.setQueue key us)).collide g 4 point stream.toNat (u.due % 4096)
    | _, _ => s)

/-! Epochs and pace records. -/

/-- EPOCH (R337, R351): an epoch starts for the schedules of the entry's pace group. The firmware sets the entry to the start
of the next epoch, whose distance is the period of this one. -/
def execEpoch (entry : Fin 4096) (s : State) : Out :=
  .next (s.fireEntry entry 1 fun s e _ =>
    let t := (e.dueAt s.tim).getD s.now
    [0, 1, 2, 3].foldl (fun s g =>
      let x := s.sched g
      if x.paceGroup.toNat ≠ e.arg.toNat % 65536 || entry.val != epochEntry g then s
      else
        let s := match x.joining.bind Joining.go with
          | some (mode, t0, _) => if x.state = 2 then s.startRun g mode t0 else s
          | none => s
        let x := s.sched g
        let s := if x.state = 5 then s.relayEpochs g
          else if x.state = 3 && decide (x.epochAt < t) then s.beginEpoch g t
          else s
        let y := s.sched g
        if y.epochAt = x.epochAt then s else s.armEpoch g y.epochAt y.pace.toNat 1) s)

/-- PACE_RECORD (R350, R352): the next record at the pace point of HD. -/
def execPaceRecord (g : Fin 4) (s : State) : Out :=
  let s := s.relayEpochs g
  let x := s.sched g
  let key := queueKey 4094 65535
  .next (match x.slotNow s.now, tabGet [] x.queues key with
    | some (k, _), u :: us =>
      if x.abs k < u.due || !(x.state == 3 || x.state == 5) then s
      else
        let r := u.data
        let y := (x.setQueue key us).addLate (if u.due < x.abs k then 1 else 0)
        let s := s.setSched g y
        if lineRd r 0 8 ≠ y.epoch.toNat || lineRd r 8 1 != y.pace.toNat || lineRd r 12 4 != y.tag then
          s.collide g 6 4094 65535 (u.due % 4096)
        else if recDown r then
          (if y.root || y.decision.isSome then s else s.setSched g (y.decide_ (recQ r) (recLate r) (recTime r) (recReq r)))
        else s.setSched g (({ y with ups := y.ups ++ [r] } : Schedule).combine s.fab.device.toNat)
    | _, _ => s)

/-- PACE_DECISION_MISSING (R352): the next epoch starts and its pace is not decided. -/
def execPaceDecisionMissing (g : Fin 4) (s : State) : Out :=
  let x := s.sched g
  .next (if x.state = 3 && x.decision.isNone && decide (x.epochAt + x.period x.pace.toNat ≤ s.now) then s.collide g 7 4094 65535 0 else s)

end Sys2Proof.Machine
end

