-- ==== Sys2Proof/Machine/Schedules.lean ====
section
/-! DEFINITION. Loading and stopping schedules: the image (R342), its checks (R339, R340, R344, R345), SCHED_LOAD and SCHED_STOP
(R378, R385). -/

namespace Sys2Proof.Machine

/-! The image (R342). -/

/-- Cut bytes into records of n bytes. -/
def records (n : Nat) : Nat → List Byte → List (List Byte)
  | 0, _ => []
  | k + 1, bs => bs.take n :: records n k (bs.drop n)

def streamOf (b : List Byte) : StreamRec :=
  { stream := byteAt b 0 2, role := BitVec.ofNat 8 (byteAt b 2 1), context := byteAt b 3 1, srcCore := byteAt b 4 2, sinkCore := byteAt b 6 2
    cpes := BitVec.ofNat 8 (byteAt b 8 1), ringLog2 := byteAt b 9 1, srcDev := byteAt b 0xA 2, sinkDev := byteAt b 0xC 2
    ringVa := byteAt b 0x10 8, ctrVa := byteAt b 0x18 8, ringRemote := byteAt b 0x20 8, ctrRemote := byteAt b 0x28 8, units := byteAt b 0x30 4 }

def entryOf (b : List Byte) : SlotEntry :=
  { point := byteAt b 0 2, source := byteAt b 2 2, first := byteAt b 4 2, slots := byteAt b 6 2, stream := byteAt b 8 2
    units := byteAt b 0xA 2, delay := byteAt b 0xC 2 }

/-- The reserved bits of a stream record and of a slot entry. -/
def streamReserved (b : List Byte) : Bool :=
  decide (4 ≤ byteAt b 2 1) || byteAt b 8 1 &&& 0xEE != 0 || byteAt b 0xE 2 != 0 || byteAt b 0x34 8 != 0 || byteAt b 0x3C 4 != 0

def entryReserved (b : List Byte) : Bool := decide (4096 ≤ byteAt b 0 2) || decide (4096 ≤ byteAt b 2 2) || byteAt b 0xE 2 != 0

/-- An image read from memory: its header and its lists, as bytes. -/
structure Image where
  head    : List Byte
  streams : List (List Byte)
  entries : List (List Byte)
deriving DecidableEq, Repr

def imageOf (b : List Byte) : Image :=
  let n := byteAt b 0x40 4
  { head := b.take 128, streams := records 64 n (b.drop 128), entries := records 16 (byteAt b 0x44 4) (b.drop (128 + 64 * n)) }

/-- The length that the counts give. -/
def imageLength (head : List Byte) : Nat := 128 + 64 * byteAt head 0x40 4 + 16 * byteAt head 0x44 4

/-- The schedule of an image (R342); the counters of its index and SOL_FAULT_g stay (R360). -/
def Image.load (i : Image) (x : Schedule) : Schedule :=
  let h := i.head
  { state := 1, lateCount := x.lateCount, overrun := x.overrun, fault := x.fault, job := BitVec.ofNat 64 (byteAt h 8 8)
    digest := (h.drop 0x10).take 32, paceGroup := BitVec.ofNat 16 (byteAt h 0x32 2), slotNs := byteAt h 0x34 2, guardNs := byteAt h 0x36 2
    first := byteAt h 0x38 2, share := byteAt h 0x3A 1, partition := BitVec.ofNat 4 (byteAt h 0x3B 1), members := byteAt h 0x3C 4
    paceInit := byteAt h 0x48 1, streams := i.streams.map streamOf, entries := i.entries.map entryOf }

/-! The checks (R345). -/

/-- τ and the epoch period at pace 0 of a domain (R329). -/
def Fabric.tau (f : Fabric) : Nat :=
  if f.size ≤ 8 then 8 else if f.size ≤ 64 then 16
  else
    let r := max f.zdim.toNat f.wdim.toNat
    if r ≤ 4 then 32 else if r ≤ 16 then 64 else 128

/-- Units per slot of a point (R340); none without a limit there. -/
def pointCap (p tau : Nat) : Option Nat :=
  let k := if tau = 8 then 0 else if tau = 16 then 1 else if tau = 32 then 2 else if tau = 64 then 3 else 4
  if 3072 ≤ p && p < 3090 then some (11 * 2 ^ k)
  else if 2048 ≤ p && p < 2064 then some ((if (p - 2048) / 2 < 4 then 192 else 144) * 2 ^ k)
  else if p < 576 || (1024 ≤ p && p < 1600) then some ([32, 66, 134, 268, 536].getD k 0)
  else none

/-- Points that send or land, and points that feed (R339). -/
def sendsAt (p : Nat) : Bool :=
  decide (p < 576) || (decide (1024 ≤ p) && decide (p < 1600)) || (decide (2048 ≤ p) && decide (p < 2064)) || (decide (3072 ≤ p) && decide (p < 3090)) || p == 4094

def feeds (p : Nat) : Bool :=
  decide (p < 576) || (decide (2048 ≤ p) && decide (p < 2064)) || (decide (3200 ≤ p) && decide (p < 3218)) || p == 4094 || p == 4095

/-- H of R344 for an entry, in ns. -/
def State.hop (s : State) (guard : Nat) (e : SlotEntry) : Nat :=
  if 3200 ≤ e.source && e.source < 3218 then (s.port (e.source - 3200)).delayNs.toNat + 30 + guard
  else if 2048 ≤ e.source && e.source < 2064 then 14 + 29 else 14

/-- A source entry has no DELAY; any other one covers its hop (R342, R344). -/
def State.delayOk (s : State) (x : Schedule) (e : SlotEntry) : Bool :=
  if e.source = 4095 then e.delay == 0
  else decide (1 ≤ e.delay) && decide (e.delay ≤ 4095) && decide (x.slotNs + s.hop x.guardNs e ≤ e.delay * x.slotNs)

def sortedEntries : List SlotEntry → Bool
  | a :: b :: r => (decide (a.point < b.point) || (a.point == b.point && decide (a.first ≤ b.first))) && sortedEntries (b :: r)
  | _ => true

/-- What a point sends in the first slot of one of its entries: at most 12 streams, within its units (R340, R345). -/
def Schedule.slotOk (x : Schedule) (e : SlotEntry) : Bool :=
  let es := x.entries.filter fun d => d.point == e.point && d.at_ e.first
  decide (es.length ≤ 12) && (match pointCap e.point x.slotNs with
    | none => true
    | some c => decide (es.foldl (fun a d => a + d.units) 1 ≤ c * x.share / 16))

/-- The units of an entry's stream at its point over an epoch (R345). -/
def Schedule.sumOk (x : Schedule) (e : SlotEntry) : Bool :=
  e.stream == 65535 || x.streams.any fun r => r.stream == e.stream &&
    (x.entries.filter fun d => d.point == e.point && d.stream == e.stream).foldl (fun a d => a + d.slots * d.units) 0 == r.units

def streamOk (r : StreamRec) : Bool :=
  decide (r.stream ≤ 65534) && (!r.role.getLsbD 0 || decide (r.srcCore < 576)) &&
    (!r.role.getLsbD 1 || (decide (r.sinkCore < 576) && r.ringVa % 2 ^ r.ringLog2 == 0 && r.ctrVa % 8 == 0)) &&
    decide (12 ≤ r.ringLog2) && decide (r.ringLog2 ≤ 30)

def entryOk (e : SlotEntry) : Bool :=
  sendsAt e.point && feeds e.source && decide (1 ≤ e.slots) && decide (e.first + e.slots ≤ 4096)

/-- BAD_PARAM of R345 within the image. -/
def State.imageOk (s : State) (i : Image) (x : Schedule) : Bool :=
  let h := i.head
  byteAt h 0 4 == 1 && byteAt h 4 4 == imageLength h && decide (byteAt h 0x40 4 ≤ 16384) && decide (1 ≤ byteAt h 0x44 4) && decide (byteAt h 0x44 4 ≤ 262144)
    && byteAt h 0x30 2 == s.fab.device.toNat && x.slotNs == s.fab.tau && decide (104 ≤ x.guardNs) && decide (x.guardNs ≤ 10000)
    && decide (1 ≤ x.share) && decide (x.share ≤ 16) && decide (byteAt h 0x3B 1 < 16) && decide (1 ≤ x.members) && decide (x.members ≤ 65536)
    && decide (x.paceInit ≤ 24) && byteAt h 0x49 3 == 0 && ((h.drop 0x50).take 44).all (· == 0)
    && !i.streams.any streamReserved && !i.entries.any entryReserved && x.streams.all streamOk && x.entries.all entryOk
    && sortedEntries x.entries && x.entries.all fun e => s.delayOk x e && x.slotOk e && x.sumOk e

/-- Pages of a range. -/
def pages (va len : Nat) : List (Nat × Nat) :=
  (List.range ((va + len + 4095) / 4096 - va / 4096)).map fun k => if k = 0 then (va, 1) else (va / 4096 * 4096 + 4096 * k, 1)

/-- Do the ring, the counter and the remote addresses of a stream translate with their rights (R345)? -/
def State.streamReach (s : State) (r : StreamRec) : Except Stop Unit × State :=
  let v := s.hdVia r.context
  let ring := 2 ^ r.ringLog2
  let both (a c : Nat) (s : State) : Except Stop Unit × State :=
    match State.checkRange v .write (pages a ring) s with
    | (.error e, s) => (.error e, s)
    | (.ok _, s) => State.checkRange v .counter [(c, 8)] s
  match (if r.role.getLsbD 1 then both r.ringVa r.ctrVa s else (.ok (), s)) with
  | (.error e, s) => (.error e, s)
  | (.ok _, s) =>
    if r.role.getLsbD 0 && r.sinkDev != s.fab.device.toNat then both r.ringRemote r.ctrRemote s else (.ok (), s)

def State.allReach : List StreamRec → State → Except Stop Unit × State
  | [], s => (.ok (), s)
  | r :: rs, s =>
    match s.streamReach r with
    | (.error e, s) => (.error e, s)
    | (.ok _, s) => State.allReach rs s

/-- SHAREs with what sealed partitions keep (R345, R383). -/
def State.shareSum (s : State) (p add : Nat) : Nat :=
  (List.range 16).foldl (fun a q =>
    let used := (s.sol.sched.filter fun x => x.2.state != 0 && x.2.partition.toNat == q).foldl (fun a x => a + x.2.share) (if q = p then add else 0)
    a + max used (if (s.part q).sealed then (s.part q).solShare else 0)) 0

/-- NO_RESOURCE of R345. -/
def State.roomFor (s : State) (g : Nat) (x : Schedule) : Bool :=
  (s.sched g).state == 0 && decide (s.shareSum x.partition.toNat x.share ≤ 16)
    && !(s.sol.sched.any fun y => y.2.state != 0 && y.2.paceGroup == x.paceGroup)
    && x.entries.all fun e => !(decide (3200 ≤ e.source) && decide (e.source < 3218)) || (s.port (e.source - 3200)).delayValid

/-! SCHED_LOAD. -/

/-- Everything but the translations, in the order of R345. -/
def loadChecks (s : State) (c : Cmd) (i : Image) (x : Schedule) (bytes : Nat) (reach : Bool) : Chk :=
  let fits := bytes == imageLength i.head
  do
    chk (crc32 (i.head.take 124) == byteAt i.head 0x7C 4) .badCrc
    chk (!fits || crc32 (i.streams.flatten ++ i.entries.flatten) == byteAt i.head 0x4C 4) .badCrc
    s.inOrder c
      (do
        chk (x.partition.toNat == c.fn) .denied
        chk (!fits || (reach && x.streams.all fun r => s.partOfCtx r.context == some x.partition.toNat)) .denied)
      (do
        par (decide (c.f 0x0C 1 ≤ 3)) 0x0C
        c.zero 0x0D 0x10
        par fits 0x18
        par (s.imageOk i x) inStructure)
      (chk (s.roomFor (c.f 0x0C 1) x) .noResource)

/-- The bytes of an image that are read: a header at least, a full image at most (R344). -/
def imageSpan (bytes : Nat) : Nat := min (max bytes 128) 5243008

/-- The end of a SCHED_LOAD whose image has been read (R344, R345). -/
def State.endLoad (s : State) (c : Cmd) (i : Image) (x : Schedule) (reach : Bool) : State :=
  let bytes := c.f 0x18 4
  let n := BitVec.ofNat 32 bytes
  let s := s.modCmd c.id fun y => { y with progress := n, mark := n }
  match loadChecks s c i x bytes reach with
  | .error e => s.finish c.id e.1 e.2
  | .ok _ =>
    let g := c.f 0x0C 1
    ((s.setSched g x).extendP x.partition.toNat (leBytes 1 g ++ x.digest ++ leBytes 8 x.job.toNat)).finish c.id .ok

/-- An image that has been read: its length is checked, and its streams' addresses (R344, R345). -/
def State.loadImage (s : State) (c : Cmd) (b : List Byte) : State :=
  let i := imageOf b
  let x := i.load (s.sched (c.f 0x0C 1))
  if c.f 0x18 4 ≠ imageLength i.head then s.endLoad c i x true
  else match State.allReach x.streams s with
    | (.error .busy, s) => s.wait c.id
    | (.error .faulted, s) => s.cmdStop c.id .faulted
    | (.error (.fault _), s) => s.endLoad c i x false
    | (.ok _, s) => s.endLoad c i x true

/-- SCHED_LOAD (R345): the image is read and checked, and its schedule stands in state 1. -/
def execSchedLoad (fn : Fin 16) (ring : Fin 4) (index : BitVec 32) (s : State) : Out :=
  .next (s.startCmd fn ring index.toNat 0x1A (fun s c => if (s.ctx c.ctx).state = .free then s.headChecks c 16 else .ok ()) fun s c =>
    match s.vread { s.hdVia c.ctx with checked := true } (c.f 0x10 8) (imageSpan (c.f 0x18 4)) with
    | (.error x, s) => s.cmdStop c.id x
    | (.ok b, s) => s.loadImage c b)

/-! SCHED_STOP. -/

/-- Does a copy in flight send or take a stream of a schedule? -/
def State.copyOf (s : State) (g ctx : Nat) (c : Copy) : Bool :=
  let in_ (k : Nat) : Bool := (s.stream? ctx (k % 2 ^ 16)).any fun p => p.1 == g
  (dSrcKind c.raw == 2 && in_ (dSrc c.raw)) || (dDstKind c.raw == 2 && in_ (dDst c.raw))

def abortedDescriptor : CtxFault := { reason := .badDescriptor, status := Status.aborted.code }

/-- A saved core state whose descriptor has lost its stream: the fault is its context's (R385). -/
def State.faultSaved (s : State) (ctx n k : Nat) (c : Core) : State :=
  let r : FaultRec :=
    { cls := 1, cause := BitVec.ofNat 8 Reason.badDescriptor.code, status := BitVec.ofNat 8 Status.aborted.code, tagValid := true
      context := BitVec.ofNat 8 ctx, partition := c.partition, srcDevice := s.fab.device, core := BitVec.ofNat 16 n
      queue := BitVec.ofNat 8 (3 + k), die := BitVec.ofNat 8 (n / 144), detail := BitVec.ofNat 64 Status.aborted.code }
  let (i, s) := s.record (r.ofCmd (s.cmd? c.cmd))
  s.modCtx ctx fun x => if x.tear.isSome then x
    else { x with state := .tearing, tear := some { cause := .fault, cmd := some c.cmd, reason := Reason.badDescriptor.code, started := s.now, record := some i } }

/-- Every stream descriptor of a schedule in flight ends (R385). -/
def State.stopCopies (s : State) (g : Nat) : State :=
  let hit (ctx : Nat) (c : Core) : Option Nat :=
    if c.cpe0.copies.any (s.copyOf g ctx) then some 0 else if c.cpe1.copies.any (s.copyOf g ctx) then some 1 else none
  let live := s.cores.filterMap fun p => if p.2.resident && !p.2.stopped then (hit p.2.context.toNat p.2).map fun k => (p.1, k) else none
  let kept := s.saved.flatMap fun q => q.2.filterMap fun p => (hit q.1 p.2).map fun k => (q.1, p.1, k, p.2)
  let s := live.foldl (fun s p => s.faultCtx p.1 (cpeEng p.2) abortedDescriptor) s
  kept.foldl (fun s p => s.faultSaved p.1 p.2.1 p.2.2.1 p.2.2.2) s

/-- A schedule leaves service for state 1; its units and its firmware entry go (R385). -/
def State.haltSched (s : State) (g : Nat) : State :=
  let s := match (s.sched g).joining with
    | some j => s.cancel j.cmd
    | none => s
  let s := s.stopCopies g
  let x := s.sched g
  let s := s.setSched g { x with state := 1, cause := 0, queues := [], paceOut := [], ups := [], decision := none, joining := none }
  { s with
    cores := s.cores.map fun p => (p.1, { p.2 with sendq := p.2.sendq.filter fun u => u.sched != g })
    saved := s.saved.map fun q => (q.1, q.2.map fun p => (p.1, { p.2 with sendq := p.2.sendq.filter fun u => u.sched != g }))
    cal := { s.cal with entries := tabDel s.cal.entries (epochEntry g) } }

def stopParams (s : State) (c : Cmd) : Chk :=
  let x := s.sched (c.f 0x0C 1)
  s.inOrder c
    (chk (x.state == 0 || x.partition.toNat == c.fn) .denied)
    (do par (decide (c.f 0x0C 1 ≤ 3) && x.state != 0) 0x0C; par (decide (c.f 0x0D 1 ≤ 1)) 0x0D)
    (.ok ())

/-- SCHED_STOP (R385). -/
def execSchedStop (fn : Fin 16) (ring : Fin 4) (index : BitVec 32) (s : State) : Out :=
  .next (s.startCmd fn ring index.toNat 0x1B stopParams fun s c =>
    let g := c.f 0x0C 1
    let s := if (s.sched g).state.toNat < 2 then s else s.haltSched g
    let x := s.sched g
    let s := if (c.f 0x0D 1).testBit 0 then
        s.setSched g { lateCount := x.lateCount, overrun := x.overrun, fault := x.fault, t0 := x.t0, epoch := x.epoch }
      else s
    s.finish c.id .ok)

end Sys2Proof.Machine
end

