-- ==== Sys2Proof/Machine/Join.lean ====
section
/-! DEFINITION. Joining a job (R354 to R356): the command and the messages of the handshake. -/

namespace Sys2Proof.Machine

/-! Messages into join areas. -/

/-- The local offset of the join area of a partition (R480). -/
def joinArea (p : Nat) : Nat := 0x03FFC0000000 + 0x0A000000 + p * 2 ^ 21

/-- A 64-byte WRITE into the join area of a device, with the tag of a context and at its level (R355, R459), through the
export of its partition, entry p. It is not sent while the tracker has no entry. -/
def State.sendJoin (s : State) (ctx dest g : Nat) (data : List Byte) : State :=
  let v := s.hdVia ctx
  match (if s.trackerFree v.tag.part then s.freeTag else none) with
  | none => s
  | some tag =>
    let ta := dest * 2 ^ 42 + joinArea v.tag.part
    let h := hdrPut (hdrPut (s.requestHeader v 2 0 0 ta 64 tag false) 0x10 4 v.tag.part) 0x14 4 1
    let p := sealPacket h data
    let o : Outstanding := { tag := tag, hdr := p.hdr, dest := .join g, since := s.now }
    let s : State := { s with fab := { s.fab with tracker := s.fab.tracker ++ [o] } }
    s.depart dest (lineRd h 0x1E 2) p

/-- A message of the handshake; its bytes are free. -/
def State.tell (s : State) (ctx dest g : Nat) : State :=
  ({ s with free := s.free + 1 } : State).sendJoin ctx dest g (lineBytes (Config.joinMessage s.free))

/-! The digest (R354). -/

def State.joinDigest (s : State) (x : Schedule) (leader job : Nat) : BitVec 256 :=
  let f := s.fab
  BitVec.ofNat 256 (leVal (sha256 (
    leBytes 4 f.size ++ leBytes 1 f.zdim.toNat ++ leBytes 1 f.wdim.toNat ++ leBytes 4 s.sec.fwVersion.toNat ++ leBytes 1 s.hub.feature.toNat
      ++ leBytes 2 f.tau ++ leBytes 4 (4096 * f.tau) ++ x.digest ++ leBytes 8 x.job.toNat ++ leBytes 2 x.paceGroup.toNat ++ leBytes 2 x.first
      ++ leBytes 4 x.members ++ leBytes 2 x.guardNs ++ leBytes 1 x.share ++ leBytes 1 x.paceInit ++ leBytes 2 leader ++ leBytes 8 job)))

/-! The leader (R355, R356). -/

def Joining.offsets (j : Joining) : List Int := j.members.filterMap (·.offset)

/-- Largest offset minus smallest, the leader counting as 0. -/
def Joining.spread (j : Joining) : Nat :=
  (j.offsets.foldl max 0 - j.offsets.foldl min 0).toNat

/-- The lowest device whose digest differs from the leader's. -/
def Joining.differs (j : Joining) : Option Nat :=
  (j.members.filter fun m => m.digest != j.digest).foldl (fun a m => some (min (a.getD m.device) m.device)) none

/-- A JOIN ends with JOIN_MISMATCH and the lowest differing device. -/
def State.mismatch (s : State) (j : Joining) (device : Nat) : State :=
  (s.dropJoin j.cmd).finish j.cmd .joinMismatch 0 (device % 65536 * 2 ^ 32)

/-- GO reaches a member, or the leader as one (R355 step 7). -/
def State.go (s : State) (g : Nat) (j : Joining) (cause t0 spread : Nat) : State :=
  let x := s.sched g
  let s := s.setSched g { x with joining := some { j with go := some (cause, t0, spread) } }
  if cause = 0 then s.armEpoch g t0 x.paceInit 0 else s

/-- Once the last member has reported, the leader compares, chooses and sends GO. -/
def State.lead (s : State) (g : Nat) : State :=
  let x := s.sched g
  match x.joining with
  | none => s
  | some j =>
    if j.leader ≠ s.fab.device.toNat || j.go.isSome || j.members.length + 1 != x.members || j.members.any (fun m => m.offset.isNone) then s
    else
      let s := j.members.foldl (fun s m => s.tell j.context m.device g) s
      match j.differs with
      | some d => s.mismatch j d
      | none =>
        let spread := j.spread
        let cause := if 100 < spread then 1 else if s.tim.todValid && j.members.all (·.tod) then 0 else 2
        let p := x.period 0
        s.go g j cause ((s.now + 20000000 + p - 1) / p * p) spread

/-! The command. -/

/-- Ports that the entries of a schedule use. -/
def Schedule.ports (x : Schedule) : List Nat :=
  x.entries.flatMap fun e => (if 3072 ≤ e.point && e.point < 3090 then [e.point - 3072] else []) ++ (if 3200 ≤ e.source && e.source < 3218 then [e.source - 3200] else [])

def Schedule.member (x : Schedule) (d : Nat) : Bool := decide (x.first ≤ d) && decide (d < x.first + x.members)

def joinParams (s : State) (c : Cmd) : Chk :=
  let x := s.sched (c.f 0x0C 1)
  s.inOrder c
    (chk (x.state == 0 || x.partition == (s.ctx c.ctx).partition) .denied)
    (do
      par (decide (c.f 0x0C 1 ≤ 3) && x.state == 1 && x.member s.fab.device.toNat) 0x0C
      c.zero 0x0D 0x0E
      par (x.member (c.f 0x0E 2)) 0x0E
      par (decide (1 ≤ c.f 0x18 4) && decide (c.f 0x18 4 ≤ 60000)) 0x18)
    (chk (x.ports.all fun p => (s.port p).up) .noResource)

/-- JOIN (R355 steps 1 and 2). -/
def execJoin (fn : Fin 16) (ring : Fin 4) (index : BitVec 32) (s : State) : Out :=
  .next (s.startCmd fn ring index.toNat 0x1C joinParams fun s c =>
    let g := c.f 0x0C 1
    let x := s.sched g
    let leader := c.f 0x0E 2
    let j : Joining :=
      { cmd := c.id, leader := leader, context := c.ctx, deadline := s.now + c.f 0x18 4 * 10 ^ 6, digest := s.joinDigest x leader (c.f 0x10 8), t1 := s.now }
    let s := s.setSched g { x with state := 2, joining := some j, joinCtx := c.ctx }
    if leader = s.fab.device.toNat then s.lead g else s.tell c.ctx leader g)

/-! The handshake. -/

/-- A schedule that joins, with the join. -/
def State.joining (s : State) (g : Nat) : Option Joining := if (s.sched g).state = 2 && s.serving then (s.sched g).joining else none

def State.setJoining (s : State) (g : Nat) (j : Joining) : State := s.setSched g { s.sched g with joining := some j }

/-- HELLO (R355 step 3): the leader takes it now, and answers at once. -/
def execHello (g : Fin 4) (device : BitVec 16) (digest : BitVec 256) (s : State) : Out :=
  .next (match s.joining g with
    | none => s
    | some j =>
      let d := device.toNat
      if j.leader ≠ s.fab.device.toNat || d == j.leader || !(s.sched g).member d || j.members.any (fun m => m.device == d) then s
      else (s.setJoining g { j with members := j.members ++ [{ device := d, digest := digest }] }).tell j.context d g)

/-- REPLY (R355 step 4): it carries when the leader took HELLO and when it left. -/
def execReply (g : Fin 4) (t2 t3 : BitVec 64) (s : State) : Out :=
  .next (match s.joining g with
    | none => s
    | some j =>
      if j.leader = s.fab.device.toNat || j.offset.isSome then s
      else
        let o : Int := (((t2.toNat : Int) - j.t1) - ((s.now : Int) - t3.toNat)) / 2
        (s.setJoining g { j with offset := some o }).tell j.context j.leader g)

/-- TIME (R355 steps 5 and 6): a member's offset and TOD_VALID reach the leader. -/
def execTime (g : Fin 4) (device : BitVec 16) (offset : Int) (tod : Bool) (s : State) : Out :=
  .next (match s.joining g with
    | none => s
    | some j =>
      if j.leader ≠ s.fab.device.toNat then s
      else
        let ms := j.members.map fun m => if m.device = device.toNat && m.offset.isNone then { m with offset := some offset, tod := tod } else m
        (s.setJoining g { j with members := ms }).lead g)

/-- GO (R355 step 7): too late for its T0, or of a job whose digests differ, it ends the JOIN. -/
def execGo (g : Fin 4) (outcome : JoinOutcome) (s : State) : Out :=
  .next (match s.joining g with
    | none => s
    | some j =>
      if j.leader = s.fab.device.toNat || j.go.isSome then s
      else match outcome with
        | .mismatch d => s.mismatch j d
        | .run cause t0 spread => if t0 < s.now + 10 ^ 6 then s.cancel j.cmd .timeout else s.go g j cause.val t0 spread)

/-- JOIN_T0 (R355 step 7): the job runs, and the command ends with the mode and the spread. -/
def execJoinT0 (g : Fin 4) (s : State) : Out :=
  let x := s.sched g
  .next (match x.joining with
    | none => s
    | some j =>
      match j.go with
      | none => s
      | some (cause, t0, spread) =>
        if s.now < t0 || !s.serving then s
        else
          let s := if x.state = 2 then s.startRun g cause t0 else s
          let s := s.setSched g { s.sched g with joining := none }
          let s := s.modCmd j.cmd fun c => { c with info := if cause = 0 then 0 else 1 }
          s.finish j.cmd .ok 0 (satTo 0xFFFFFFFF spread))

/-- JOIN_TIMEOUT (R355 step 3): no GO within the command's timeout. -/
def execJoinTimeout (g : Fin 4) (s : State) : Out :=
  .next (match s.joining g with
    | none => s
    | some j => if j.go.isSome || decide (s.now < j.deadline) then s else s.cancel j.cmd .timeout)

end Sys2Proof.Machine
end

