-- ==== Sys2Proof/Machine/Partner.lean ====
section
/-! DEFINITION. The partner sites: admission (R266 to R269), the firewall (R274 to R279), and what takes a site out of
service (R273, R278, R279). -/

namespace Sys2Proof.Machine

/-! Firewall rules (R274). -/

/-- Are the reserved bits of a rule clear? -/
def ruleClean (r : BitVec 256) : Bool :=
  ruleFld r 9 1 < 4 && ruleFld r 0xA 1 < 32 && ruleFld r 0xC 1 < 16 && ruleFld r 0xD 3 == 0 && ruleFld r 0x18 8 == 0
    && (!(ruleFld r 9 1).testBit 1 || (ruleFld r 0xB 1 == 0 && ruleFld r 0x10 4 == 0 && ruleFld r 0x14 4 == 0))

def ruleValid (r : BitVec 256) : Bool := (ruleFld r 9 1).testBit 0

def ruleOut (r : BitVec 256) : Bool := (ruleFld r 9 1).testBit 1

/-- Is one rule in range? An entry that is not VALID need only have its reserved bits clear. -/
def ruleOk (r : BitVec 256) : Bool :=
  let z := ruleFld r 8 1
  let rate := ruleFld r 0x10 4
  let burst := ruleFld r 0x14 4
  ruleClean r && (!ruleValid r ||
    (decide (12 ≤ z) && decide (z ≤ 40) && ruleFld r 0 8 % 2 ^ z == 0 &&
      (ruleOut r || (decide (1 ≤ rate) && decide (rate ≤ 1024) && decide (1 ≤ burst) && decide (burst ≤ 16384)))))

/-- Do two valid rules of one direction overlap? -/
def rulesMeet (a b : BitVec 256) : Bool :=
  ruleValid a && ruleValid b && ruleOut a == ruleOut b &&
    decide (ruleFld a 0 8 < ruleFld b 0 8 + 2 ^ ruleFld b 8 1) && decide (ruleFld b 0 8 < ruleFld a 0 8 + 2 ^ ruleFld a 8 1)

/-- May a set of rules stand (R274)? -/
def rulesOk (t : Tab (BitVec 256)) : Bool :=
  t.all (fun r => ruleOk r.2) && t.all fun a => t.all fun b => a.1 == b.1 || !rulesMeet a.2 b.2

/-- Load rules: every inbound bucket is full (R276). -/
def Site.load (x : Site) (rules : Tab (BitVec 256)) (now : Nat) : Site :=
  { x with rules := rules, buckets := (rules.filter fun r => ruleValid r.2 && !ruleOut r.2).map fun r => (r.1, ruleFld r.2 0x14 4 * 1024, now) }

/-! Admission. -/

/-- M4 gains an admission (R481). -/
def State.extendAdmission (s : State) (k : Nat) : State :=
  let x := s.site k
  s.extendM 4 (BitVec.ofNat 8 k :: BitVec.ofNat 8 (b2n x.openMode) :: x.record)

/-- A field of the site's entry in the configuration record (R474). -/
def State.siteCfg (s : State) (k off n : Nat) : Nat := byteAt s.sec.config (0x240 + 0x910 * k + off) n

/-- The initial rules of the configuration record. -/
def State.initialRules (s : State) (k : Nat) : Tab (BitVec 256) :=
  (List.range (s.siteCfg k 0x104 1)).map fun i => (i, BitVec.ofNat 256 (s.siteCfg k (0x110 + 32 * i) 32))

/-- The mode of R269: true open; none where the partner offers no mode that is allowed. -/
def State.chooseMode (s : State) (k modes : Nat) : Option Bool :=
  let x := s.site k
  let open_ := modes.testBit 1 && s.siteCfg k 0x101 1 == 2 && decide (s.fab.size ≤ 64) && s.parts.all (fun p => !p.2.sealed) && !x.keepFenced
  if open_ then some true else if modes.testBit 0 then some false else none

/-- The checks of step 2 (R266). -/
def recordOk (r : List Byte) : Bool :=
  byteAt r 0 4 == 1 && byteAt r 4 4 == 128 && byteAt r 0x10 1 < 4 && byteAt r 0x12 2 == 0 && decide (byteAt r 0x14 4 ≤ 65536)
    && crc32 (r.take 0x7C) == byteAt r 0x7C 4

/-- Steps 2 to 6 for a site whose link is up: the reason of the step that failed, or the mode. -/
def State.judge (s : State) (k : Nat) (r : List Byte) : Except Nat Bool :=
  let digests := (List.range (s.siteCfg k 0x100 1)).map fun i => s.siteCfg k (32 * i) 32
  if !recordOk r then .error 2
  else if !digests.contains (leVal (sha256 r)) then .error 3
  else if s.siteCfg k 0x102 2 < byteAt r 0x11 1 then .error 5
  else match s.chooseMode k (byteAt r 0x10 1) with
    | none => .error 4
    | some m => .ok m

/-- PARTNER_ADMISSION (R268): the steps for a site in training, with what the training came to and the 128 bytes of the
partner record. -/
def execPartnerAdmission (site : Fin 2) (training : SiteTraining) (record : List (BitVec 8)) (s : State) : Out :=
  let x := s.site site
  let r := padTo 128 record
  let fail (s : State) (y : Site) (reason : Nat) : State := s.setSite site { y with state := .disabled, reason := BitVec.ofNat 4 reason }
  .next (if x.state != .training then s
    else match training with
      | .nothing => s.setSite site { x with state := .empty, reason := 0 }
      | .failed => fail s x 1
      | .up rate modules =>
        let s := s.setLink (8 + site.val) { state := 2 }
        let x := { x with rate := rate, modules := modules }
        match s.judge site r with
        | .error e => fail s x e
        | .ok m =>
          let rules := if x.fwRun then x.rules else s.initialRules site
          let y : Site := { x.load rules s.now with
            state := .admitted, openMode := m, reason := 0, powerW := BitVec.ofNat 8 (byteAt r 0x11 1), record := r, closing := 0 }
          (s.setSite site y).extendAdmission site)

/-! Inbound requests of a fenced partner (R275, R276). -/

def SiteOp.code : SiteOp → Nat
  | .read => 0 | .write => 1 | .atomic => 2 | .reduce => 3 | .counter => 4

def SiteOp.right : SiteOp → Right
  | .read => .read | .write => .write | .atomic => .atomic | .reduce => .reduce | .counter => .counter

/-- Bytes that a request names. -/
def SiteIn.span (q : SiteIn) : Nat := match q.op with
  | .counter => 8
  | _ => q.len

/-- What a request takes from the bucket (R276). -/
def SiteIn.cost (q : SiteIn) : Nat := match q.op with
  | .atomic | .counter => 64
  | _ => q.len

/-- An answer to the partner: bytes, or an error completion. -/
def State.answerSite (s : State) (k : Nat) (a : Option (List Byte)) : State :=
  s.setSite k { s.site k with answers := (s.site k).answers ++ [a] }

/-- A denied request (R275, R280): answered with an error completion, counted and recorded. -/
def State.denySite (s : State) (k op : Nat) (noRule : Bool) (addr : Nat) : State :=
  let x := s.site k
  (s.setSite k { x with denied := x.denied + 1, lastDenied := BitVec.ofNat 64 (pack [(3, op), (1, b2n noRule), (12, 0), (48, addr)]) }).answerSite k none

/-- The rule's context acting for the site (R275). -/
def siteVia (k : Nat) (r : BitVec 256) : Via :=
  { tag := { ctx := ruleFld r 0xB 1, part := ruleFld r 0xC 1 % 16 }, requester := 2309 + k, hd := true }

/-- Physical addresses of a range, piece by piece; every piece must lie in memory of this device. -/
def State.placesOf (v : Via) (need : Right) : List (Nat × Nat) → State → Except Stop (List (Nat × Nat × Nat)) × State
  | [], s => (.ok [], s)
  | p :: ps, s =>
    match s.translate v p.1 need with
    | (.ok (.mem pa), s) =>
      match State.placesOf v need ps s with
      | (.ok l, s) => (.ok ((p.1, pa, p.2) :: l), s)
      | (.error e, s) => (.error e, s)
    | (.ok _, s) => (.error (.fault (translationFault p.1 5)), s)
    | (.error e, s) => (.error e, s)

/-- The accesses of a request that has passed, from its places. -/
def SiteIn.reqs (q : SiteIn) (v : Via) (places : List (Nat × Nat × Nat)) : List Req :=
  let base : Req := { requester := v.requester, tag := v.tag }
  places.flatMap fun p =>
    let data := q.data.drop (p.1 - q.addr)
    match q.op with
    | .read => lineReqs { base with kind := .rdOnce } p.2.1 p.2.2 []
    | .write => lineReqs { base with kind := .wrInv } p.2.1 p.2.2 data
    | .reduce => lineReqs { base with kind := .atomic, op := q.aop } p.2.1 p.2.2 data
    | .atomic => [atomicReq base p.2.1 q.len q.aop (leVal (q.data.take q.len)) q.cmp]
    | .counter => [atomicReq base p.2.1 8 .add (leVal (q.data.take 8)) 0]

/-- The bytes in a rule's bucket now (R276). -/
def Site.bucket (x : Site) (now k : Nat) : Nat :=
  let r := tabGet 0 x.rules k
  let b := tabGet (0, now) x.buckets k
  min (ruleFld r 0x14 4 * 1024) (b.1 + ruleFld r 0x10 4 * (now - b.2))

/-- Perform a request that the rate lets pass: the answer, or none while a line is busy. -/
def State.passSite (s : State) (k : Nat) (q : SiteIn) : Option State × State :=
  let v := siteVia k (tabGet 0 (s.site k).rules q.rule)
  let spend (s : State) : State :=
    let x := s.site k
    s.setSite k { x with buckets := tabSet x.buckets q.rule (x.bucket s.now q.rule - q.cost, s.now) }
  match State.placesOf v q.op.right (cut q.addr q.span) s with
  | (.error .busy, s) => (none, s)
  | (.error .faulted, s) => (some ((spend s).answerSite k none), s)
  | (.error (.fault _), s) => (some (s.denySite k q.op.code false q.addr), s)
  | (.ok places, s) =>
    let rs := q.reqs v places
    match s.accessAll rs with
    | (.ok vs, s) =>
      (some ((spend s).answerSite k (some (match q.op with
        | .read => readBytes rs vs
        | .atomic => readBytes rs vs
        | _ => []))), s)
    | (.error .busy, s) => (none, s)
    | (.error _, s) => (some ((spend s).answerSite k none), s)

/-- Is a request well formed as a message: sizes, alignment (R152, R199, R323)? -/
def SiteIn.fits (q : SiteIn) : Bool :=
  match q.op with
  | .read => decide (1 ≤ q.len)
  | .write => decide (1 ≤ q.len)
  | .atomic => (q.len == 4 || q.len == 8) && q.addr % q.len == 0 && !q.aop.isRed
  | .reduce => q.aop.isRed && decide (1 ≤ q.len) && q.len % q.aop.element == 0 && q.addr % q.aop.element == 0
  | .counter => q.addr % 8 == 0

/-- PARTNER_INBOUND_REQUEST (R275, R457): the checks in their order; none as operation is a message of another kind. -/
def execPartnerInboundRequest (site : Fin 2) (op : Option SiteOp) (aop : AtomOp) (addr : BitVec 48) (len : Nat) (data : List (BitVec 8)) (compare : BitVec 64) (s : State) : Out :=
  let x := s.site site
  .next (if x.state != .admitted || x.openMode || !s.sup.on then s
    else if s.shut then s.answerSite site none
    else match op with
      | none =>
        s.setSite site { x with denied := x.denied + 1, lastDenied := BitVec.ofNat 64 (5 * 2 ^ 61) }
      | some o =>
        let q : SiteIn := { op := o, aop := aop, addr := addr.toNat, len := len, data := padTo len data, cmp := compare }
        if !q.fits then s
        else match x.rules.find? fun r => ruleHolds r.2 false q.addr q.span with
          | none => s.denySite site o.code true q.addr
          | some (k, r) =>
            let c := s.ctx (ruleFld r 0xB 1)
            if !(ruleFld r 0xA 1).testBit o.code then s.denySite site o.code false q.addr
            else if c.state = .free || c.partition.toNat != ruleFld r 0xC 1 then s.denySite site o.code false q.addr
            else if s.tim.idle.toNat ≥ 2 then s.rouse
            else match State.placesOf (siteVia site r) o.right (cut q.addr q.span) s with
              | (.error .busy, s) => s
              | (.error .faulted, s) => s.answerSite site none
              | (.error (.fault _), s) => s.denySite site o.code false q.addr
              | (.ok _, s) =>
                let q := { q with rule := k }
                let hold (s : State) : State := s.setSite site { s.site site with held := (s.site site).held ++ [q] }
                if !x.held.isEmpty || x.bucket s.now k < q.cost then hold s
                else match s.passSite site q with
                  | (some t, _) => t
                  | (none, t) => hold t)

/-- FIREWALL_BUCKET_PASS (R276): the oldest held request passes once its rule's bucket holds its size. -/
def execFirewallBucketPass (site : Fin 2) (s : State) : Out :=
  let x := s.site site
  .next (match x.held with
    | [] => s
    | q :: rest =>
      if x.state != .admitted || s.shut || x.bucket s.now q.rule < q.cost then s
      else match s.passSite site q with
        | (some t, _) => t.setSite site { t.site site with held := rest }
        | (none, t) => t)

/-! Out of service (R273, R278, R279). -/

/-- An outbound request that ends with PARTNER_TIMEOUT on its queue. -/
def State.expireOut (s : State) (o : SiteReq) : State :=
  match o.req.tag.core with
  | some n => s.refused n o.req.tag.queue (mkFault .partnerTimeout .timeout)
  | none => s

/-- A site that has been emptied of its lines is QUIESCED. -/
def State.quiesce (s : State) (k : Nat) : State :=
  s.setSite k { s.site k with state := .quiesced, reason := 7, held := [], closing := 0 }

/-- PARTNER_TIMEOUT (R278): the oldest outbound request has waited 20 µs. An open site first gives back its lines: it is
quiesced at a later PARTNER_TIMEOUT that finds none left. -/
def execPartnerTimeout (site : Fin 2) (s : State) : Out :=
  let x := s.site site
  .next (if x.closing = 2 then
      match s.recallAgent (580 + site.val) with
      | (true, s) => s
      | (false, s) => s.quiesce site
    else match x.outbound.find? fun o => decide (o.since + 20000 ≤ s.now) with
      | none => s
      | some o =>
        let s := (s.setSite site { x with outbound := x.outbound.filter fun y => y.id != o.id }).expireOut o
        if x.state != .admitted then s
        else if !x.openMode then s.quiesce site
        else
          let s := s.setSite site { s.site site with closing := 2 }
          match s.recallAgent (580 + site.val) with
          | (true, s) => s
          | (false, s) => s.quiesce site)

/-- PARTNER_LINK_FAILURE (R273, R279): a persistent fault of the site's link. -/
def execPartnerLinkFailure (site : Fin 2) (s : State) : Out :=
  let l := s.link (8 + site.val)
  let x := s.site site
  .next (if !l.lost && decide (l.dir0.failures < 5) && decide (l.dir1.failures < 5) && decide (l.retryMs0 ≤ 1024) && decide (l.retryMs1 ≤ 1024)
      || !(l.state == 2 || l.state == 3) then s
    else
      let s := (s.setLink (8 + site.val) { l with state := 4, inject := none, dir0 := {}, dir1 := {} }).setSite site
        { x with state := .disabled, reason := 6, outbound := [], held := [], closing := 0 }
      let s := x.outbound.foldl State.expireOut s
      if x.state = .admitted && x.openMode then s.cohDown 1 (580 + site.val) false 0 none else s)

end Sys2Proof.Machine
end

