-- ==== Sys2Proof/Machine/Time.lean ====
section
/-! DEFINITION. The rows of reference time (R281 to R290, R311), the calendar entries without a chapter of their own (R292,
R410, R449), the idle states (R298 to R300), TIME_CONFIG and TIME_SET. -/

namespace Sys2Proof.Machine

/-! Sources. -/

/-- SOURCE_REJECT (R285): an input is measured beyond a limit. -/
def execSourceReject (input : TimeInput) (cause : RejectCause) (measured : Nat) (s : State) : Out :=
  .next (if s.sup.on && s.tim.breaks input cause measured then s.modTim fun t => t.reject input cause else s)

/-- SOURCE_REQUALIFY (R285). -/
def execSourceRequalify (input : TimeInput) (s : State) : Out :=
  .next (if s.sup.on && s.tim.mayQualify input then s.modTim fun t => t.qualify input else s)

/-- TIME_LOCK (R286): the source in use is locked to, at an offset and with a frequency correction that the unit has
measured. With a time of day, the first lock steps reference time; a difference above 1 µs is slewed (R288). -/
def execTimeLock (offset : Int) (rate : Int) (s : State) : Out :=
  let t := s.tim
  .next (if !s.sup.on || t.state != .acquiring || !t.sourceOk t.src.toNat || decide (202000 < rate.natAbs) then s
    else
      let s := s.modTim fun t => { t with state := .locked, learned := rate, offset := satOffset offset }
      let tod := t.src.toNat == 2 || t.src.toNat == 3
      if tod && !t.stepped then (if 0 ≤ offset then s.step1 offset.toNat else s)
      else if 1000 < offset.natAbs then s.modTim fun t => { t with slewing := true, toSlew := offset * 10 ^ 6 }
      else s)

/-- REF_PPS_PULSE (R285, R287): the second boundary; a pulse out of place rejects the input; a TIME_SET's step is made. -/
def execRefPpsPulse (s : State) : Out :=
  let t := s.tim
  let now := s.now
  let off (a b : Nat) : Nat := ((a : Int) - b).natAbs
  .next (if !s.sup.on then s
    else
      let s := s.modTim fun t => { t with lastPps := some now }
      let bad : Option RejectCause := match t.lastPps with
        | none => none
        | some l =>
          if t.breaks .pps .stop (now - l) then some .stop
          else if t.breaks .pps .drift (off now (l + 10 ^ 9)) then some .drift
          else if t.breaks .pps .jump (off now (l + 10 ^ 9)) then some .jump
          else none
      match bad with
      | some c => s.modTim fun t => t.reject .pps c
      | none =>
        match t.setTo with
        | some (sec, _) =>
          if t.src.toNat = 1 && !t.todValid && decide (now ≤ sec * 10 ^ 9) then
            let s := (s.step1 (sec * 10 ^ 9 - now)).modTim fun t => { t with setTo := none }
            s.timeSets.foldl (fun s c => s.finish c.id .ok 0 (sec * 10 ^ 9)) s
          else s
        | none =>
          let near : Nat := roundDiv now (10 ^ 9) * 10 ^ 9
          if t.todValid then s.measure .pps (((near : Nat) : Int) - now) else s)

/-! Frames. -/

/-- REF_FRAME_EDGE (R285, R289). -/
def execRefFrameEdge (s : State) : Out :=
  let t := s.tim
  let expected := t.synFrom + t.frames (t.synCount + 1)
  .next (if !s.sup.on || t.num = 0 then s
    else if (t.input .frame).qualified then
      if t.breaks .frame .jump ((s.now : Int) - expected).natAbs then s.modTim fun t => t.reject .frame .jump
      else s.modTim fun t => t.countEdge s.now true
    else s.modTim fun t => t.tryEdge)

/-- SYNTHESISED_FRAME_EDGE (R289): while REF_FRAME is rejected, the next edge has fallen due. -/
def execSynthesisedFrameEdge (s : State) : Out :=
  let t := s.tim
  let due := t.synFrom + t.frames (t.synCount + 1)
  .next (if s.sup.on && t.frameHoldover && decide (due ≤ s.now) then s.modTim fun t => t.countEdge due false else s)

/-! IEEE 1588 over the fabric, and through the host. -/

def Tim.port (t : Tim) (p : Nat) : PtpPort := tabGet {} t.ports p
def State.setPtp (s : State) (p : Nat) (x : PtpPort) : State := s.modTim fun t => { t with ports := tabSet t.ports p x }

/-- SYNC (R284): received, or sent, on a port with its hardware timestamp. -/
def execSync (port : Fin 18) (received : Bool) (s : State) : Out :=
  let x := s.tim.port port
  .next (if !(s.port port).up then s
    else s.setPtp port (if received then { x with syncAt := some s.now } else { x with served := some s.now }))

/-- FOLLOW_UP (R284): received with the precise departure time of the Sync, or sent. The offset of the master is measured
with the port's peer delay. -/
def execFollowUp (port : Fin 18) (received : Bool) (origin : Nat) (s : State) : Out :=
  let x := s.tim.port port
  .next (if !(s.port port).up then s
    else if !received then s.setPtp port { x with served := none }
    else match x.syncAt with
      | none => s
      | some t2 =>
        (s.setPtp port { x with syncAt := none }).measure .ptpFabric ((origin : Int) + (s.port port).delayNs.toNat - t2))

/-- PDELAY_REQ (R311): sent on a port, or one received, which the port answers with its timestamps. -/
def execPdelayReq (port : Fin 18) (received : Bool) (s : State) : Out :=
  let x := s.tim.port port
  .next (if !(s.port port).up || received then s else s.setPtp port { x with t1 := some s.now })

/-- PDELAY_RESP (R311): the answer to the port's Pdelay_Req, with the peer's times of receipt and of departure. -/
def execPdelayResp (port : Fin 18) (t2 t3 : Nat) (s : State) : Out :=
  let x := s.tim.port port
  .next (match x.t1 with
    | none => s
    | some t1 =>
      if !(s.port port).up then s
      else
        let d := ((s.now - t1) - (t3 - t2)) / 2
        let l := (d :: x.delays).take 8
        let p := s.port port
        (s.setPtp port { x with t1 := none, delays := l }).setPort port
          { p with delayValid := true, delayNs := BitVec.ofNat 16 (satTo 0xFFFF (median l)) })

/-- PTM_RESPONSE (R283): the host's clock, as a response gives it for now. -/
def execPtmResponse (hostTime : Nat) (s : State) : Out :=
  .next (if s.hostUp then s.measure .ptpHost ((hostTime : Int) - s.now) else s)

/-! Calendar entries. -/

/-- DEADLINE (R410): the LAUNCH of a deadline that fires is late. -/
def execDeadline (entry : Fin 4096) (s : State) : Out :=
  .next (s.fireEntry entry 3 fun s e _ =>
    let t := s.modCmd e.cmd fun c => { c with launch := c.launch.map fun l => { l with late := true } }
    match s.cmd? e.cmd with
    | some c => if c.launch.any (!·.late) then t.modCtx c.ctx Ctx.countLate else t
    | none => t)

/-- LOW_POWER (R292). -/
def execLowPower (entry : Fin 4096) (s : State) : Out :=
  .next (s.fireEntry entry 4 fun s e _ => s.modTim fun t => { t with maxState := BitVec.ofNat 3 (e.arg.toNat % 8) })

/-- HEARTBEAT (R449): the beat. -/
def execHeartbeat (entry : Fin 4096) (s : State) : Out :=
  .next (s.fireEntry entry 6 fun s _ _ => { s with mw := { s.mw with lastBeat := s.tim.now } })

/-- WAKE (R292): nothing beyond being awake. -/
def execWake (entry : Fin 4096) (s : State) : Out :=
  .next (s.fireEntry entry 7 fun s _ _ => s)

/-! Idle states. -/

/-- IDLE_ENTRY (R299): an idle device enters the deepest state that fits, if that is deeper than its own. Before state 4 the
LLC is flushed, and its lines are gone (R298). -/
def execIdleEntry (s : State) : Out :=
  let k := s.idleChoice
  .next (if !s.isIdle || s.tim.wakeEnd.isSome || k ≤ s.tim.idle.toNat then s
    else
      let enter (s : State) : State := s.modTim fun t => { t with idle := BitVec.ofNat 3 k, entryEnd := s.now + idleEntry k }
      if k < 4 then enter s
      else match s.askOwners with
        | (true, s) => s
        | (false, s) =>
          let s := s.flushAll
          enter { s with cache := { s.cache with agents := [], slices := s.cache.slices.map fun p => (p.1, { p.2 with ways := [], plru := [] }) } })

/-- WAKE_START (R300): at next(s) - wake(s) - MARGIN. -/
def execWakeStart (s : State) : Out :=
  let t := s.tim
  let near := (s.nextCompute).any fun d => decide (d ≤ s.now + idleWake t.idle.toNat + 1000 * t.margin.toNat)
  .next (if decide (2 ≤ t.idle.toNat) && t.wakeEnd.isNone && near then
      s.modTim fun t => { t with wakeEnd := some (max s.now t.entryEnd + idleWake t.idle.toNat) }
    else s)

/-- WAKE_END (R300): the device is active once memory has left self-refresh; entries that fell due during the wake fire late (R296). -/
def execWakeEnd (s : State) : Out :=
  .next (match s.tim.wakeEnd with
    | none => s
    | some e =>
      if e ≤ s.now && !s.mem.chans.any (fun p => p.2.state == 3) then s.markLate.modTim fun t => { t with idle := 0, wakeEnd := none, held := 0 } else s)

/-! Commands. -/

def timeConfigParams (s : State) (c : Cmd) : Chk :=
  let tr := (c.f 0x10 1).testBit 0
  let src (off : Nat) : Chk := par (decide (c.f off 1 ≤ 3) && (tr || c.f off 1 != 3)) off
  s.inOrder c (.ok ())
    (do
      src 0x0C
      src 0x0D
      par (decide (c.f 0x0E 1 ≤ 127)) 0x0E
      par (decide (c.f 0x0F 1 ≤ 4)) 0x0F
      par (decide (c.f 0x10 1 ≤ 1)) 0x10
      c.zero 0x11 0x14
      par (c.f 0x16 2 != 0) 0x16)
    (.ok ())

/-- The sources and the frame rate that a record or a command names (R283, R288, R290). While NUM is 0 there is no edge to
wait for, so a rate takes effect at once. -/
def Tim.configure (t : Tim) (primary secondary domain exp : Nat) (traceable : Bool) (num den : BitVec 16) : Tim :=
  let u := { t with primary := BitVec.ofNat 4 primary, secondary := BitVec.ofNat 4 secondary, ptpDomain := BitVec.ofNat 8 domain
                    syncExp := BitVec.ofNat 4 exp, hostTraceable := traceable }
  let u := u.follow
  if num = u.num && den == u.den then { u with nextRate := none }
  else if u.num = 0 then u.setRate num den
  else { u with nextRate := some (num, den) }

/-- TIME_CONFIG (R290). -/
def execTimeConfig (fn : Fin 16) (ring : Fin 4) (index : BitVec 32) (s : State) : Out :=
  .next (s.startCmd fn ring index.toNat 0x23 timeConfigParams fun s c =>
    let s := s.modTim fun t => t.configure (c.f 0x0C 1) (c.f 0x0D 1) (c.f 0x0E 1) (c.f 0x0F 1) ((c.f 0x10 1).testBit 0)
      (BitVec.ofNat 16 (c.f 0x14 2)) (BitVec.ofNat 16 (c.f 0x16 2))
    s.finish c.id .ok)

def timeSetParams (s : State) (c : Cmd) : Chk :=
  s.inOrder c (chk (!s.tim.todValid) .denied) (par (s.tim.src == 1) 0x0C) (.ok ())

/-- TIME_SET (R287): the step is made at the next REF_PPS pulse, within 2 s. -/
def execTimeSet (fn : Fin 16) (ring : Fin 4) (index : BitVec 32) (s : State) : Out :=
  .next (s.startCmd fn ring index.toNat 0x24 timeSetParams fun s c =>
    let s := s.modCmd c.id fun x => { x with limit := s.now + 2 * 10 ^ 9 }
    s.modTim fun t => { t with setTo := some (c.f 0x0C 8, c.id) })

end Sys2Proof.Machine
end

