-- ==== Sys2Proof/Machine/Boot.lean ====
section
/-! DEFINITION. Power-up and boot: the logical core map (R26 to R38), the flash's images and records (R466 to R475), the
course of boot (R476 to R481, R491), training (R246, R262, R305). -/

namespace Sys2Proof.Machine

/-! The core map (R26 to R38). -/

/-- FACTORY_FAIL of a row. -/
def Hub.factoryMask (h : Hub) (row : Nat) : Nat := byteAt h.sparing (0x30 + 2 * row) 2 % 2 ^ 13

/-- Usable columns of a row (R27). -/
def Hub.usable (h : Hub) (row : Nat) : List Nat :=
  (List.range 13).filter fun k => !(h.factoryMask row).testBit k && !(zGet h.bist row).testBit k

/-- UNUSED_COL (R28, R39). -/
def Hub.unusedCol (h : Hub) (row : Nat) : Nat :=
  let u := h.usable row
  if u.length < 12 then 15 else ((List.range 13).find? fun k => !u.contains k).getD 12

/-- HUB_CORE_MAP_n. -/
def Hub.rowWord (h : Hub) (row : Nat) : Nat :=
  pack [(1, b2n (decide (12 ≤ (h.usable row).length))), (1, 0), (4, h.unusedCol row), (13, zGet h.bist row), (13, h.factoryMask row)]

/-- The rows are rebuilt; FIELD_SPARES_USED counts those whose spare stands in for a site that only the self-test failed
(R30). -/
def Hub.rebuild (h : Hub) (rows : List Nat) : Hub :=
  let spares := ((List.range 48).filter fun r => let u := h.unusedCol r; decide (u < 12) && !(h.factoryMask r).testBit u).length
  { h with coreMap := rows.foldl (fun t r => zSet t r (h.rowWord r)) h.coreMap, sparesUsed := BitVec.ofNat 8 spares }

/-- The first row with fewer than twelve usable sites (R29). -/
def Hub.shortRow (h : Hub) : Option Nat := (List.range 48).find? fun r => decide ((h.usable r).length < 12)

/-- HUB_SPARE_STATUS names why the device does not enter service (R29, R38). -/
def Hub.spare (h : Hub) (reason die row slice : Nat) : Hub :=
  { h with spareReason := BitVec.ofNat 4 reason, spareDie := BitVec.ofNat 3 die, spareRow := BitVec.ofNat 4 row, spareSlice := BitVec.ofNat 6 slice }

def Hub.shortOf (h : Hub) (row : Nat) : Hub := h.spare 1 (row / 12) (row % 12) 0

/-- The failures that the tests of rows have found. -/
def Hub.tested (h : Hub) (rows : List Nat) (bist : List (Fin 48 × BitVec 13)) : Hub :=
  { h with bist := rows.foldl (fun t r => zSet t r (((bist.find? fun b => b.1.val == r).map (·.2.toNat)).getD 0)) h.bist }

/-- HUB_CORE_MAP_0 to HUB_CORE_MAP_47 as 192 bytes. -/
def Hub.mapBytes (h : Hub) : List Byte := (List.range 48).flatMap fun r => leBytes 4 (zGet h.coreMap r)

/-- M2 (R481). -/
def State.extendMap (s : State) : State := s.extendM 2 (s.hub.sparing ++ s.hub.mapBytes)

/-- The ten pairs, in the order of R36. -/
def diePairs : List (Nat × Nat) := [(0, 1), (0, 2), (0, 3), (0, 4), (1, 2), (1, 3), (1, 4), (2, 3), (2, 4), (3, 4)]

/-- The cap of a pair of dies in the compatibility table (R35). -/
def MapInputs.cap (m : MapInputs) (p : Nat × Nat) : Option Nat :=
  let a := m.dies.getD p.1 {}
  let b := m.dies.getD p.2 {}
  let is (x : BitVec 8 × BitVec 8) (d : DieRev) : Bool := x.1 == d.kind && x.2 == d.stepping
  (m.compat.find? fun e => (is e.1 a && is e.2.1 b) || (is e.1 b && is e.2.1 a)).map (·.2.2.toNat)

/-- The sparing record, without its serials (R32): true if it stands. The signature is checked where a key is given. -/
def sparingOk (r : List Byte) (key : Option (List Byte)) : Bool :=
  byteAt r 0 4 == 1 && byteAt r 4 4 == 640 && ((r.drop 0x90).take 112).all (· == 0)
    && (List.range 48).all (fun k => decide (byteAt r (0x30 + 2 * k) 2 < 2 ^ 13))
    && (match key with
      | some k => rsaVerify k ((r.drop 0x100).take 384) (r.take 0x100)
      | none => true)

/-- The map-building steps (R37); where one fails, the state it leaves and BOOT_STATUS. -/
def State.buildMap (s : State) (m : MapInputs) (record : List Byte) (key : Option (List Byte)) : Except (State × Nat) State :=
  let fail (s : State) (reason die row slice : Nat) : Except (State × Nat) State := .error ({ s with hub := s.hub.spare reason die row slice }, 0x31)
  match m.unread with
  | some d => fail s 4 d 0 0
  | none =>
    let n := [0, 1, 2, 3, 4]
    let s : State := { s with hub := { s.hub with
      dieRevs := n.map fun k => let d := m.dies.getD k {}; (k, d.kind.toNat, d.stepping.toNat, d.level.toNat)
      dieSerials := n.foldl (fun t k => zSet t k (m.dies.getD k {}).serial.toNat) [] } }
    match diePairs.find? fun p => (m.cap p).isNone with
    | some p =>
      .error ({ s with hub := { s.hub with checkVersion := m.version, checkDone := true, checkFail := true, checkA := BitVec.ofNat 3 p.1
                                           checkB := BitVec.ofNat 3 p.2, checkCap := 0, feature := 0 } }, 0x41)
    | none =>
      let cap := diePairs.foldl (fun a p => min a ((m.cap p).getD 0)) 255
      let level := n.foldl (fun a k => min a (m.dies.getD k {}).level.toNat) cap
      let s : State := { s with hub := { s.hub with
        checkVersion := m.version, checkDone := true, checkFail := false, checkA := 0, checkB := 0, checkCap := BitVec.ofNat 8 cap
        feature := BitVec.ofNat 8 level } }
      if !sparingOk record key then fail s 2 0 0 0
      else match n.find? fun k => byteAt record (8 + 8 * k) 8 != (m.dies.getD k {}).serial.toNat with
        | some k => fail s 3 k 0 0
        | none =>
          if !m.hubOk then fail s 4 4 0 0
          else match m.badSlice with
            | some b => fail s 5 (b.val / 64) 0 (b.val % 64)
            | none =>
              let h := ({ s.hub with sparing := record, coreMap := [] }.tested (List.range 48) m.bist)
              let h := (h.rebuild (List.range 48)).spare 0 0 0 0
              match h.shortRow with
              | some r => .error ({ s with hub := h.shortOf r }, 0x31)
              | none =>
                let s := ({ s with hub := h } : State).extendMap
                let revs := n.flatMap fun k => leBytes 4 (h.revWord k)
                let serials := n.flatMap fun k => leBytes 8 (zGet h.dieSerials k)
                .ok (s.extendM 3 (revs ++ serials ++ [h.feature]))

/-! The end of boot. -/

/-- BOOT_STATUS leaves PENDING, and the lock is set (R477). -/
def State.endBoot (s : State) (code : Nat) : State :=
  { s with sec := { s.sec with locked := true }, hub := { s.hub with bootStatus := BitVec.ofNat 8 code } }

def State.bootFail (s : State) (reason : Nat) : State := ({ s with sec := { s.sec with reason := BitVec.ofNat 4 reason } } : State).endBoot 0x31

/-! Counters (R468). -/

def State.counter (s : State) (k : Nat) : Nat := (tabGet 0 s.sec.counters k).toNat

/-- Raise a counter, if it is lower and not at its end. -/
def State.raiseCounter (s : State) (k v : Nat) : State :=
  if v ≤ s.counter k || s.counter k == 0xFFFFFFFF then s
  else ({ s with sec := { s.sec with counters := tabSet s.sec.counters k (BitVec.ofNat 32 v) } } : State).secEvent 5 k v

/-! Images (R471, R472). -/

def imageLen (b : List Byte) : Nat := byteAt b 4 4

/-- The signed bytes of an image: all before SIGNATURE. -/
def signedBytes (b : List Byte) : List Byte := padTo (imageLen b - 384) b

/-- The first check of R472 that a slot fails; none if it is accepted. -/
def State.imageCause (s : State) (rom : List (BitVec 256)) (b : List Byte) : Option Nat :=
  let n := imageLen b
  let key := byteAt b 0x10 1
  let modulus := padTo 384 (b.drop 0x20)
  if !(byteAt b 0 4 == 1 && n % 64 == 0 && decide (800 ≤ n) && decide (n ≤ 2 ^ 24) && decide (key ≤ 3) && decide (byteAt b 0x11 1 < 2) && byteAt b 0x12 14 == 0) then some 1
  else if key < s.counter 3 || BitVec.ofNat 256 (leVal (sha256 modulus)) != rom.getD key 0 then some 2
  else if !rsaVerify modulus (padTo 384 (b.drop (n - 384))) (signedBytes b) then some 3
  else if byteAt b 8 4 < s.counter 0 then some 4
  else none

/-- The image that boots: the slot with the higher SVN first (R472). Slots that fail are logged. -/
def State.chooseImage (s : State) (b : BootInputs) : Option (Nat × List Byte) × State :=
  let img (k : Nat) : List Byte := if k = 0 then b.imageA else b.imageB
  let order := if byteAt b.imageA 8 4 < byteAt b.imageB 8 4 then [1, 0] else [0, 1]
  order.foldl (fun acc k =>
    match acc.1 with
    | some _ => acc
    | none => match acc.2.imageCause b.romKeys (img k) with
      | some c => (none, acc.2.secEvent 2 k c)
      | none => (some (k, img k), acc.2.secEvent 1 k (byteAt (img k) 8 4))) (none, s)

/-! Records (R473 to R475). -/

def hdSerial (b : BootInputs) : Nat := (b.map.dies.getD 4 {}).serial.toNat

def ownerOk (b : BootInputs) : Bool :=
  let r := b.owner
  byteAt r 0 4 == 1 && byteAt r 4 4 == 800 && byteAt r 0x18 8 == 0 && (byteAt r 0x10 8 == 0 || byteAt r 0x10 8 == hdSerial b)
    && b.ownerKeys.any fun k => rsaVerify k (padTo 384 (r.drop 0x1A0)) (padTo 0x1A0 r)

/-- Why a configuration slot is not valid (R475, R485): 4 format, 1 signature, 2 serial, 3 version. -/
def State.configCause (s : State) (b : BootInputs) (r : List Byte) : Option Nat :=
  if !(byteAt r 0 4 == 1 && byteAt r 4 4 == 5600) then some 4
  else if !rsaVerify (padTo 384 (b.owner.drop 0x20)) (padTo 384 (r.drop 0x1460)) (padTo 0x1460 r) then some 1
  else if byteAt r 0x10 8 != hdSerial b then some 2
  else if byteAt r 8 4 < s.counter 1 then some 3
  else none

/-- The configuration slot taken (R475). -/
def State.chooseConfig (s : State) (b : BootInputs) : Option (Nat × List Byte) × State :=
  let bad (s : State) (k : Nat) (r : List Byte) : State := match s.configCause b r with
    | some c => s.secEvent 4 k c
    | none => s
  let okA := (s.configCause b b.configA).isNone
  let okB := (s.configCause b b.configB).isNone
  let s := bad (bad s 0 b.configA) 1 b.configB
  let take (k : Nat) (r : List Byte) : Option (Nat × List Byte) × State := (some (k, padTo 5600 r), s.secEvent 3 k (byteAt r 8 4))
  if okA && (!okB || decide (byteAt b.configB 8 4 ≤ byteAt b.configA 8 4)) then take 0 b.configA
  else if okB then take 1 b.configB
  else (none, s)

/-- The partition of a record's entry (R474), with the SAVE_GIB of R403. -/
def partOf (r : List Byte) (p : Nat) : Part :=
  let at_ := 0x40 + 32 * p
  let ctxs := byteAt r (at_ + 2) 2
  let cores := byteAt r (at_ + 6) 2
  { ctxFirst := byteAt r at_ 1, ctxCount := ctxs, coreFirst := BitVec.ofNat 10 (byteAt r (at_ + 4) 2), coreCount := BitVec.ofNat 10 cores
    memBase := BitVec.ofNat 13 (byteAt r (at_ + 8) 2), memGib := BitVec.ofNat 13 (byteAt r (at_ + 0xA) 2), saveGib := BitVec.ofNat 10 (ceilDiv (ctxs * cores * 3) 1024)
    segFirst := byteAt r (at_ + 0xC) 4, segCount := byteAt r (at_ + 0x10) 4, calQuota := byteAt r (at_ + 0x14) 2
    trackResv := BitVec.ofNat 15 (byteAt r (at_ + 0x16) 2) }

/-- Do two ranges, first and count, meet? -/
def rangesMeet (a n b m : Nat) : Bool := n != 0 && m != 0 && decide (a < b + m) && decide (b < a + n)

/-- The ranges of one partition's entry (R390, R475). -/
def partEntryOk (r : List Byte) (p : Nat) : Bool :=
  let at_ := 0x40 + 32 * p
  let x := partOf r p
  let cores := byteAt r (at_ + 6) 2
  byteAt r (at_ + 1) 1 == 0 && byteAt r (at_ + 0x18) 8 == 0 && decide (x.ctxFirst + x.ctxCount ≤ 256)
    && decide (byteAt r (at_ + 4) 2 + cores ≤ 576) && decide (byteAt r (at_ + 8) 2 + byteAt r (at_ + 0xA) 2 ≤ 4095)
    && (x.segCount == 0 || (decide (16 ≤ x.segFirst) && decide (x.segFirst + x.segCount ≤ 2097152)))
    && (x.ctxCount == 0 || (cores != 0 && decide (ceilDiv (x.ctxCount * cores * 3) 1024 < byteAt r (at_ + 0xA) 2)))

def partsMeet (r : List Byte) (p q : Nat) : Bool :=
  let a := 0x40 + 32 * p
  let b := 0x40 + 32 * q
  let meet (o w k m : Nat) : Bool := rangesMeet (byteAt r (a + o) w) (byteAt r (a + k) m) (byteAt r (b + o) w) (byteAt r (b + k) m)
  meet 0 1 2 2 || meet 4 2 6 2 || meet 8 2 0xA 2 || meet 0xC 4 0x10 4

/-- The rules that a site's entry loads. -/
def siteRules (r : List Byte) (k : Nat) : Tab (BitVec 256) :=
  let at_ := 0x240 + 0x910 * k
  (List.range (byteAt r (at_ + 0x104) 1)).map fun i => (i, BitVec.ofNat 256 (byteAt r (at_ + 0x110 + 32 * i) 32))

def siteEntryOk (r : List Byte) (k : Nat) : Bool :=
  let at_ := 0x240 + 0x910 * k
  decide (byteAt r (at_ + 0x100) 1 ≤ 8) && decide (byteAt r (at_ + 0x101) 1 ≤ 2) && decide (byteAt r (at_ + 0x104) 1 ≤ 64)
    && byteAt r (at_ + 0x105) 11 == 0 && rulesOk (siteRules r k)

/-- Is a domain size one of R312? -/
def domainOk (size z w : Nat) : Bool :=
  if z = 0 && w == 0 then size == 1 || size == 8 || size == 64
  else decide (1 ≤ z) && decide (z ≤ 32) && decide (1 ≤ w) && decide (w ≤ 32) && size == 64 * z * w && decide (64 < size)

/-- Is an accepted record consistent (R475)? -/
def configOk (r : List Byte) : Bool :=
  let f := byteAt r 0xC 4
  let traceable := f.testBit 1
  let src (off : Nat) : Bool := decide (byteAt r off 1 ≤ 3) && (traceable || byteAt r off 1 != 3)
  let n := List.range 16
  decide (f < 16) && decide (f / 4 ≤ 2) && domainOk (byteAt r 0x18 4) (byteAt r 0x1C 1) (byteAt r 0x1D 1) && decide (byteAt r 0x1E 2 < byteAt r 0x18 4)
    && [9600, 11200, 12800, 14400].contains (byteAt r 0x20 2) && decide (byteAt r 0x22 1 ≤ 168) && decide (byteAt r 0x23 1 ≤ 64)
    && src 0x24 && src 0x25 && decide (byteAt r 0x26 1 ≤ 127) && decide (byteAt r 0x27 1 ≤ 4) && byteAt r 0x2A 2 != 0
    && decide (byteAt r 0x2C 1 ≤ 4) && byteAt r 0x2D 1 == 0 && decide (byteAt r 0x2E 2 ≤ 1000) && byteAt r 0x30 16 == 0
    && n.all (partEntryOk r) && n.all (fun p => n.all fun q => p == q || !partsMeet r p q)
    && decide (n.foldl (fun a p => a + byteAt r (0x40 + 32 * p + 0x14) 2) 0 ≤ 3840)
    && decide (n.foldl (fun a p => a + byteAt r (0x40 + 32 * p + 0x16) 2) 0 ≤ 16384)
    && siteEntryOk r 0 && siteEntryOk r 1

/-! What the record sets. -/

/-- The fabric of a record (R312, R330). -/
def fabricOf (r : List Byte) : Fabric :=
  let size := byteAt r 0x18 4
  { device := BitVec.ofNat 16 (byteAt r 0x1E 2), zdim := BitVec.ofNat 6 (byteAt r 0x1C 1), wdim := BitVec.ofNat 6 (byteAt r 0x1D 1)
    base := if size = 1 then 0 else if size = 8 then 1 else 2, size := size }

/-- The record is applied (R474). -/
def State.applyConfig (s : State) (r : List Byte) : State :=
  { s with
    parts := (List.range 16).map fun p => (p, partOf r p)
    fab := fabricOf r
    tim := { s.tim.configure (byteAt r 0x24 1) (byteAt r 0x25 1) (byteAt r 0x26 1) (byteAt r 0x27 1) ((byteAt r 0xC 4).testBit 1)
               (BitVec.ofNat 16 (byteAt r 0x28 2)) (BitVec.ofNat 16 (byteAt r 0x2A 2)) with
             maxState := BitVec.ofNat 3 (byteAt r 0x2C 1), margin := BitVec.ofNat 10 (byteAt r 0x2E 2) }
    mw := { s.mw with sampleKib := BitVec.ofNat 7 (byteAt r 0x23 1) }
    mem := { s.mem with scrubHours := BitVec.ofNat 8 (byteAt r 0x22 1) }
    sec := { s.sec with config := r } }

/-! Training. -/

/-- MC_GLOBAL.RATE of a data rate (R253). -/
def rateCode (mts : Nat) : Nat := if mts = 14400 then 4 else if mts = 12800 then 3 else if mts = 11200 then 2 else 1

/-- One attempt at a rate: every channel's state and count. -/
def Memory.attempt (m : Memory) (rate : Nat) (bad : List (Fin 256)) : Memory :=
  let fails (c : Nat) : Bool := bad.any fun b => b.val == c
  { m with
    chans := (List.range 256).map fun c => (c, { tabGet {} m.chans c with state := if fails c then 4 else 2 })
    trained := BitVec.ofNat 9 ((List.range 256).filter fun c => !fails c).length
    rate := if bad.isEmpty then BitVec.ofNat 4 rate else m.rate }

/-- Training at falling rates (R246): the memory, and whether it runs. -/
def Memory.train (m : Memory) : Nat → List (List (Fin 256)) → Memory × Bool
  | 0, _ => (m, false)
  | rate + 1, fails =>
    let bad := fails.headD []
    let m := m.attempt (rate + 1) bad
    if bad.isEmpty then ({ m with running := BitVec.ofNat 4 (rate + 1) }, true) else Memory.train m rate fails.tail

/-- Training of the die links (R262). -/
def Links.train (l : Links) (bad : List (Fin 8 × Bool × BitVec 10 × BitVec 10)) : Links :=
  { l with links := (List.range 8).map fun n =>
      (n, match bad.find? fun b => b.1.val == n with
        | some (_, dir, lanes, first) => ({ state := 4, failLanes := lanes, firstLane := first, dir := dir } : DieLink)
        | none => { state := 2 }) }

/-- Ports that the domain uses (R304, R329). -/
def Fabric.uses (f : Fabric) (p : Nat) : Bool :=
  if p < 7 then decide (8 ≤ f.size) else if p < 14 then decide (64 ≤ f.size)
  else if p < 16 then decide (1 < f.zdim.toNat) else decide (1 < f.wdim.toNat)

/-- The device and port at the other end of a port by the cabling rule (R304). -/
def Fabric.peerOf (f : Fabric) (p : Nat) : Nat × Nat :=
  let n := f.device.toNat
  let z := max 1 f.zdim.toNat
  let w := max 1 f.wdim.toNat
  let zz := n / 64 % z
  let ww := n / 64 / z
  let at_ (a b : Nat) : Nat := n % 64 + 64 * (a + z * b)
  if p < 7 then (n / 8 * 8 + (n + p + 1) % 8, 6 - p)
  else if p < 14 then (n / 64 * 64 + (n / 8 + (p - 7) + 1) % 8 * 8 + n % 8, 7 + (6 - (p - 7)))
  else if p = 14 then (at_ ((zz + 1) % z) ww, 15)
  else if p = 15 then (at_ ((zz + z - 1) % z) ww, 14)
  else if p = 16 then (at_ zz ((ww + 1) % w), 17)
  else (at_ zz ((ww + w - 1) % w), 16)

/-- Training of the fabric ports (R305). -/
def Fabric.train (f : Fabric) (ports : List (Fin 18 × PortTraining)) : Fabric :=
  { f with ports := ((List.range 18).filter f.uses).map fun p =>
      let t := ((ports.find? fun x => x.1.val == p).map (·.2)).getD {}
      let (d, q) := f.peerOf p
      let right := t.peer.toNat == d && t.peerPort.toNat == q
      (p, { state := if t.up && right then 2 else 4, failLanes := t.failLanes, peer := t.peer, peerPort := t.peerPort
            miscabled := t.up && !right, optical := t.optical }) }

/-! Memory and sites. -/

/-- The exports of the join areas, entries 0 to 15 (R355, R480). -/
def joinExports (size : Nat) : Tab Seg :=
  (List.range 16).map fun p =>
    (p, { kind := 2, sizeLog2 := 21, rights := 2, partition := p, offset := joinArea p, count := size, generation := 1 })

/-- The copy of the hub firmware image in the firmware region (R480). -/
def imageCopy : Nat := firmwareBase + 0x08800000

/-- Memory as boot leaves it (R391, R480): zero but for the copy of the image. -/
def bootMemory (image : List Byte) : Mem := memWrN [] imageCopy (padTo (imageLen image) image)

/-- Sites that the record does not turn off go into training (R268, R474). -/
def State.trainSites (s : State) : State :=
  [0, 1].foldl (fun s k =>
    if s.siteCfg k 0x101 1 = 0 then s.setSite k {}
    else (s.setLink (8 + k) { state := 1 }).setSite k { state := .training }) s

/-- The firmware's HEARTBEAT entry, from now on (R449). -/
def State.armHeartbeat (s : State) : State :=
  let e : CalEntry := { due := s.tim.now + 1000000, period := 1000000, cls := 6 }
  { s with cal := { s.cal with entries := tabSet s.cal.entries 0 e }, mw := { s.mw with lastBeat := s.tim.now } }

/-! The course of boot (R476). -/

/-- Steps 1 to 3: identity, counters, image. -/
def State.bootImage (s : State) (b : BootInputs) : Except State (State × List Byte) :=
  if !b.seed then .error (s.bootFail 1)
  else
    let s : State := { s with sec := { s.sec with identity := true, key := b.key, cert := memWrN [] 0 (b.cert.take 4096), certOk := b.certOk } }
    match b.counters with
    | none => .error (s.bootFail 2)
    | some c =>
      let s : State := { s with sec := { s.sec with counters := [0, 1, 2, 3].map fun k => (k, c.getD k 0) } }
      if !b.raise2 then .error (s.bootFail 7)
      else
        let s := s.raiseCounter 2 (s.counter 2 + 1)
        match s.chooseImage b with
        | (none, s) => .error (s.bootFail 3)
        | (some (slot, i), s) =>
          let s : State := { s with sec := { s.sec with imageSlot := slot == 1, fwVersion := BitVec.ofNat 32 (byteAt i 0xC 4)
                                                        digest := BitVec.ofNat 256 (leVal (sha256 (signedBytes i))) } }
          .ok (s.extendM 0 (signedBytes i), i)

/-- Step 5: the records. -/
def State.bootRecords (s : State) (b : BootInputs) : Except State State :=
  if !ownerOk b then .error (s.bootFail 4)
  else
    let s : State := { s with sec := { s.sec with owner := padTo 800 b.owner } }
    match s.chooseConfig b with
    | (none, s) => .error (s.bootFail 5)
    | (some (slot, r), s) =>
      let s : State := { s with sec := { s.sec with configSlot := slot == 1 } }
      if !configOk r then .error (s.bootFail 6)
      else .ok ((s.extendM 1 (padTo 800 b.owner ++ r)).applyConfig r)

/-- Step 6: memory, die links and ports. -/
def State.bootTrain (s : State) (t : TrainInputs) : Except State State :=
  let (m, ok) := s.mem.train (rateCode (byteAt s.sec.config 0x20 2)) t.channels
  let s : State := { s with mem := m, links := s.links.train t.links, fab := s.fab.train t.ports }
  if ok && t.links.isEmpty then .ok s else .error (s.endBoot 0x31)

/-- Step 9: the counters, the RWL fields and the end. -/
def State.bootEnd (s : State) (b : BootInputs) (i : List Byte) : State :=
  if !b.raise9 then s.bootFail 7
  else
    let s := (s.raiseCounter 0 (byteAt i 8 4)).raiseCounter 1 (byteAt s.sec.config 8 4)
    let s := if (byteAt i 0x11 1).testBit 0 then s.raiseCounter 3 (byteAt i 0x10 1) else s
    let mode := byteAt s.sec.config 0xC 4 / 4
    let s := if mode = 0 then s else ({ s with sec := { s.sec with debugMode := BitVec.ofNat 2 mode } } : State).secEvent 9 mode 0
    s.armHeartbeat.endBoot 0

/-- The whole of boot: the state it ends in, whatever BOOT_STATUS. -/
def State.boot (s : State) (b : BootInputs) : State :=
  match s.bootImage b with
  | .error s => s
  | .ok (s, i) =>
    match s.buildMap b.map b.sparing (some b.factory) with
    | .error (s, code) => s.endBoot code
    | .ok s =>
      match s.bootRecords b with
      | .error s => s
      | .ok s =>
        match s.bootTrain b.train with
        | .error s => s
        | .ok s =>
          let s : State := { s with mem := { s.mem with bytes := bootMemory i, errs := [] }, fab := { s.fab with segs := joinExports s.fab.size } }
          (s.trainSites).bootEnd b i

/-- BOOT (R476): the boot steps, with what they meet; the partner sites are then admitted one by one. -/
def execBoot (inputs : BootInputs) (s : State) : Out :=
  .next (if s.sup.on && s.hub.bootStatus == 1 && !s.sup.partOff then s.boot inputs else s)

/-- POWER_UP (R491 step 5, R492): the always-on domain leaves reset. While VIN_MAIN is out of range it waits, and notes that
PWR_OK is high without it. -/
def execPowerUp (s : State) : Out :=
  let u := s.sup
  .next (if u.on || !u.pwrOk || !u.resetN then s
    else if !u.mainOk then { s with sup := { u with pwrOkBad := true } }
    else { s with sup := { u with on := true }, host := { s.host with linkUp := u.refclkOk } })

end Sys2Proof.Machine
end

