-- ==== Sys2Proof/Machine/Fabric.lean ====
section
/-! DEFINITION. The fabric: its ports (R306 to R309), forwarding (R313, R314), requests from other devices (R322 to R325),
responses to this device (R323, R326), and requests without response (R327). -/

namespace Sys2Proof.Machine

/-! Ports. -/

/-- Retries of the present millisecond (R309). -/
def Port.atMs (p : Port) (ms : Nat) : Port := if p.ms = ms then p else { p with ms := ms, retryMs := 0 }

/-- The units of a flit that are not empty, with their kinds (R306). -/
def fabricUnits (f : BitVec 2144) : List (Nat × Line) :=
  ((List.range 4).map fun k => (fld f (43 + 4 * k) (40 + 4 * k), BitVec.ofNat 512 (byteFld f (8 + 64 * k) 64))).filter
    fun u => u.1 != 0 && decide (u.1 < 4)

/-- FABRIC_FLIT_RECEIVE (R306, R308): with the FEC codewords corrected in it. A flit that fails is discarded, and so is every
later one until the replay, which begins with the flit after the last in order. -/
def execFabricFlitReceive (port : Fin 18) (flit : BitVec 2144) (corrected : Nat) (s : State) : Out :=
  let p := (s.port port).atMs (s.now / 10 ^ 6)
  let d := p.rx
  let seq := fld flit 15 0
  .next (if !s.sup.on || !p.up then s
    else
      let p := { p with fec := p.fec + BitVec.ofNat 64 corrected }
      if crc32 (leBytes 264 (byteFld flit 0 264)) != byteFld flit 264 4 then
        let d := { d with discarding := true, failures := d.failures + 1 }
        s.setPort port { p with crcErr := p.crcErr + 1, retries := p.retries + 1, retryMs := p.retryMs + 1, rx := d }
      else
        let t := { p.tx with last := some (fld flit 31 16) }
        let t := if bit flit 32 then t else { t with failures := 0, replaying := false }
        let p := { p with tx := t, state := if t.replaying then 3 else 2 }
        if seq == (d.last.elim 0 fun x => (x + 1) % 65536) then
          s.setPort port { p with rx := { d with last := some seq, discarding := false, failures := 0, handed := fabricUnits flit } }
        else s.setPort port p)

/-- FABRIC_NAK (R308): this device replays every flit after the one named; a NAK that names the same flit again is a
further failure of the flit after it. -/
def execFabricNak (port : Fin 18) (ack : BitVec 16) (s : State) : Out :=
  let p := (s.port port).atMs (s.now / 10 ^ 6)
  .next (if !s.sup.on || !p.up then s
    else
      let again := p.tx.replaying && p.tx.last == some ack.toNat
      let t := { p.tx with last := some ack.toNat, replaying := true, failures := if again then p.tx.failures + 1 else 1 }
      s.setPort port { p with state := 3, retries := p.retries + 1, retryMs := p.retryMs + 1, tx := t })

/-- FABRIC_PORT_PERSISTENT_FAULT (R309): the port stops; the lane test names its failed lanes; a device fault. -/
def execFabricPortPersistentFault (port : Fin 18) (lanes : BitVec 4) (s : State) : Out :=
  let p := s.port port
  let persistent := p.lost || decide (9 ≤ p.rx.failures) || decide (9 ≤ p.tx.failures) || decide (4096 < p.retryMs)
  .next (if !p.up || !persistent then s
    else
      let p := { p with state := 4, failLanes := lanes, rx := {}, tx := {}, owed := [] }
      let s := s.setPort port p
      let s : State := { s with fab := { s.fab with departed := s.fab.departed.filter fun d => d.1 != port.val } }
      s.deviceFault 0x11 (p.word + port.val * 2 ^ 32) 4)

/-! Packets. -/

/-- A field of a header (R322). -/
def hf (h : Line) (off n : Nat) : Nat := lineRd h off n

/-- Does the CRC of a packet hold? -/
def packetOk (h : Line) (data : List Byte) : Bool := crc32 ((lineBytes h).take 60 ++ data) == hf h 0x3C 4

/-- The destination of a packet: the owner of the address for a request, the requester for a response. -/
def packetDest (h : Line) : Nat := if hf h 0 1 < 0x80 then hf h 8 8 / 2 ^ 42 % 65536 else hf h 2 2

/-- FORWARD (R313, R314): a packet for another device. -/
def execForward (port : Fin 18) (header : BitVec 512) (data : List (BitVec 8)) (s : State) : Out :=
  .next (if !s.sup.on || !(s.port port).up || packetDest header = s.fab.device.toNat then s
    else s.depart (packetDest header) (hf header 0x1E 2 % 8) { hdr := header, data := data })

def State.discard (s : State) : State := { s with fab := { s.fab with discarded := s.fab.discarded + 1 } }

/-- The response to a request (R322, R357). -/
def State.reply (s : State) (h : Line) (op flags status flags2 : Nat) (data : List Byte) : State :=
  let r := [(0, 1, op), (1, 1, flags), (6, 1, status), (7, 1, flags2), (0x18, 2, data.length), (0x1E, 2, hf h 0x1E 2 / 2 * 2 % 8 + 1),
            (0x20, 16, 0)].foldl (fun x f => hdrPut x f.1 f.2.1 f.2.2) h
  s.depart (hf h 2 2) (hf h 0x1E 2 / 2 * 2 % 8 + 1) (sealPacket r data)

/-! Requests from other devices (R323, R325). -/

/-- The rights and parameters of a request (R325 steps 3 and 4). -/
def State.judgeIn (s : State) (h : Line) : Option Status :=
  let op := hf h 0 1
  let e := tabGet {} s.fab.segs (hf h 0x10 4 % 2 ^ 21)
  let src := hf h 2 2
  let off := hf h 8 8 % 2 ^ 42
  let len := hf h 0x18 2
  let aop := hf h 6 1
  let size := 2 ^ (aop / 16 % 4)
  let fmt := aop % 4
  let within (n : Nat) : Bool := decide (e.offset ≤ off) && decide (off + n ≤ e.offset + 2 ^ e.sizeLog2)
  let block : Bool := decide (len ≤ 4096) && decide (off % 4096 + len ≤ 4096)
  if !(e.kind == 2 && e.generation.toNat == hf h 0x14 4 && decide (e.device ≤ src) && decide (src < e.device + e.count)
      && e.partition == hf h 5 1 % 16 && e.rights.getLsbD (op - 1)) then some .denied
  else
    let ok := match op with
      | 1 | 2 => len == 0 || (block && within len)
      | 3 => decide (aop % 8 ≤ 5) && (size == 4 || size == 8) && (aop % 8 != 5 || size == 4) && off % size == 0 && within size
      | 4 => len == 0 || (fmt != 3 && block && within len && len % redSize fmt == 0 && off % redSize fmt == 0)
      | _ => len == 0 && off % 8 == 0 && within 8
    if ok then none else some .badParam

/-- An atomic by its AOP code (R322). -/
def aopOf (k : Nat) : AtomOp := [AtomOp.add, .min, .max, .exch, .cas, .fadd].getD k .add

/-- The accesses of a request at the homes (R323). -/
def inboundReqs (port : Nat) (h : Line) (data : List Byte) : List Req :=
  let base : Req := { requester := 2311 + port, lastUse := (hf h 1 1).testBit 0
                      tag := { ctx := hf h 4 1, part := hf h 5 1 % 16, remote := some (hf h 2 2) } }
  let off := hf h 8 8 % 2 ^ 42
  let len := hf h 0x18 2
  let aop := hf h 6 1
  match hf h 0 1 with
  | 1 => lineReqs { base with kind := .rdOnce } off len []
  | 2 => lineReqs { base with kind := .wrInv } off len data
  | 3 => [atomicReq base off (2 ^ (aop / 16 % 4)) (aopOf (aop % 8)) (hf h 0x20 8) (BitVec.ofNat 64 (hf h 0x28 8))]
  | 4 => lineReqs { base with kind := .atomic, op := redAtom (aop % 4) } off len data
  | _ => [atomicReq base off 8 .add (hf h 0x20 8) 0]

/-- A request that the destination refuses: answered, counted and recorded (R325, R330). -/
def State.refuseIn (s : State) (h : Line) (st : Status) : State :=
  let last := BitVec.ofNat 64 (pack [(8, st.code), (16, hf h 2 2), (8, hf h 4 1), (4, hf h 5 1), (7, 0), (21, hf h 0x10 4)])
  ({ s with fab := { s.fab with inDenied := s.fab.inDenied + 1, lastDenied := last } } : State).reply h 0x8F 0 st.code 0 []

/-- A request arrives (R325, R457): CRC, OP, rights, parameters; then it is performed and answered. A COMP waits for the
invalidations. -/
def State.inbound (s : State) (port op : Nat) (h : Line) (data : List Byte) : State :=
  if !s.sup.on || !(s.port port).up || packetDest h != s.fab.device.toNat then s
  else if !packetOk h data then s.discard
  else if hf h 0 1 = 0 || (5 < hf h 0 1 && hf h 0 1 < 0x80) then s.refuseIn h .badOpcode
  else if hf h 0 1 ≠ op then s
  else match s.judgeIn h with
    | some st => s.refuseIn h st
    | none =>
      if s.shut then s.reply h 0x8F 0 Status.aborted.code 0 []
      else if s.tim.idle.toNat ≥ 2 then s.rouse
      else
        let rs := inboundReqs port h data
        match s.accessAll rs with
        | (.error .busy, s) => s
        | (.error _, s) => s.reply h 0x8F 0 Status.faulted.code 0 []
        | (.ok vs, s) =>
          let again := if vs.any (·.reread) then 2 else 0
          if op = 1 || op = 3 then s.reply h 0x81 again 0 0 (readBytes rs vs)
          else
            let ids := vs.filterMap (·.id)
            let f := allFlags vs
            if ids.isEmpty then s.reply h 0x82 again 0 f.word []
            else { s with fab := { s.fab with inbound := s.fab.inbound ++ [{ hdr := hdrPut h 1 1 again, ids := ids, flags := f }] } }

def execRead (port : Fin 18) (header : BitVec 512) (data : List (BitVec 8)) (s : State) : Out := .next (s.inbound port 1 header data)

def execWrite (port : Fin 18) (header : BitVec 512) (data : List (BitVec 8)) (s : State) : Out := .next (s.inbound port 2 header data)

def execRemoteAtomic (port : Fin 18) (header : BitVec 512) (data : List (BitVec 8)) (s : State) : Out := .next (s.inbound port 3 header data)

def execReduce (port : Fin 18) (header : BitVec 512) (data : List (BitVec 8)) (s : State) : Out := .next (s.inbound port 4 header data)

def execCounterAdd (port : Fin 18) (header : BitVec 512) (data : List (BitVec 8)) (s : State) : Out := .next (s.inbound port 5 header data)

/-- INV_DONE of a write lets the COMPs go that waited for it alone. -/
def State.compInbound (s : State) : State :=
  let waits (i : Inbound) : Bool := i.ids.any fun k => s.cache.writes.any fun w => w.id == k
  let ready := s.fab.inbound.filter fun i => !waits i
  let s : State := { s with fab := { s.fab with inbound := s.fab.inbound.filter waits } }
  ready.foldl (fun s i => s.reply i.hdr 0x82 (hf i.hdr 1 1) 0 i.flags.word []) s

/-! Responses to this device (R323, R326, R457). -/

/-- A response: CRC, and the request it answers; the rest is the handler's. -/
def State.response (s : State) (port op : Nat) (h : Line) (data : List Byte) (act : State → Outstanding → State) : State :=
  if !s.sup.on || !(s.port port).up || packetDest h != s.fab.device.toNat || hf h 0 1 != op then s
  else if !packetOk h data || s.shut then s.discard
  else match s.fab.tracker.find? fun o => o.tag == hf h 0x1C 2 % 2 ^ 14 with
    | none => s.discard
    | some o => act { s with fab := { s.fab with tracker := s.fab.tracker.filter fun x => x.tag != o.tag } } o

def execData (port : Fin 18) (header : BitVec 512) (data : List (BitVec 8)) (s : State) : Out :=
  .next (s.response port 0x81 header data fun s o =>
    s.deliver o.dest (hf o.hdr 8 8) data ((hf header 1 1).testBit 1))

/-- REMOTE_COMP; a re-read of a dead line by a reduction is the issuing queue's fault if its context asked for it (R197). -/
def execRemoteComp (port : Fin 18) (header : BitVec 512) (data : List (BitVec 8)) (s : State) : Out :=
  .next (s.response port 0x82 header data fun s o =>
    let s := s.acked o.dest (RedFlags.ofWord (hf header 7 1))
    if (hf header 1 1).testBit 1 && (s.ctx (s.core o.core).context.toNat).deadFault then s.refused o.core o.queue (mkFault .deadReread .faulted)
    else s)

/-- ERROR (R326): the context fault on the issuing queue; a request of the hub's ends the commands of the context that wait
for it with the status. -/
def execError (port : Fin 18) (header : BitVec 512) (data : List (BitVec 8)) (s : State) : Out :=
  .next (s.response port 0x8F header data fun s o =>
    let st := hf header 6 1
    if o.core < 576 then s.refused o.core o.queue { reason := .remoteRefused, status := st }
    else match o.dest with
      | .buffer owner =>
        (s.cmds.filter fun c => c.waiting && c.started && 0x10000 + c.ctx == owner).foldl (fun s c => s.finish c.id (Status.ofCode st) inStructure) s
      | _ => s)

/-- REMOTE_REQUEST_TIMEOUT (R327): 10 ms without response, a job fault that names the requesting context. -/
def execRemoteRequestTimeout (tag : BitVec 14) (s : State) : Out :=
  .next (match s.fab.tracker.find? fun o => o.tag == tag.toNat && decide (o.since + 10 ^ 7 ≤ s.now) with
    | none => s
    | some o =>
      let t : Tag := { ctx := hf o.hdr 4 1, part := hf o.hdr 5 1 % 16, core := if o.core < 576 then some o.core else none, queue := o.queue }
      let s : State := { s with fab := { s.fab with tracker := s.fab.tracker.filter fun x => x.tag != o.tag } }
      s.jobFault t 0x06 4 0 (tag.toNat + hf o.hdr 8 8 / 2 ^ 42 * 2 ^ 16))

/-- EQUINOX_CREDIT_RETURN (R358): buffer space of a channel and set comes back. Packets whose units are all credited leave the
list of those on their way. -/
def State.credit (s : State) (k i n : Nat) : State :=
  let p := s.port k
  let owed := zSet p.owed i (zGet p.owed i - n)
  let total := (owed.map (·.2)).foldl (· + ·) 0
  let mine := s.fab.departed.filter fun d => d.1 == k
  let kept := (mine.foldr (fun d (acc : Nat × Nat) => if acc.1 < total then (acc.1 + d.2.units, acc.2 + 1) else acc) (0, 0)).2
  let gone := mine.length - kept
  let rest := (s.fab.departed.foldl (fun (acc : Nat × List (Nat × Packet)) d =>
    if d.1 = k && acc.1 < gone then (acc.1 + 1, acc.2) else (acc.1, acc.2 ++ [d])) (0, [])).2
  let s := s.setPort k { p with owed := owed }
  { s with fab := { s.fab with departed := rest } }

def execEquinoxCreditReturn (port : Fin 18) (channel : Fin 8) (set : Bool) (units : Nat) (s : State) : Out :=
  .next (if s.sup.on && (s.port port).up then s.credit port (2 * channel.val + b2n set) units else s)

end Sys2Proof.Machine
end

