-- ==== Sys2Proof/Machine/Coherence.lean ====
section
/-! DEFINITION. The coherence messages as commands, one definition each (R211 to R231). A message of a line outside memory
names no home. -/

namespace Sys2Proof.Machine

/-- A command on a line of device memory (R182). -/
def onLine (line : BitVec 42) (f : Nat → State) : Out :=
  if inMemory line.toNat then .next (f line.toNat) else .fault (.noSuchAddress (64 * line.toNat))

/-! Requests (R218). -/

/-- A request that no agent number 580 or 581 outside open mode sends (R229); those of a partner whose lines are being
taken back wait at the firewall (R271). -/
def State.request (s : State) (r : Req) (take : Bool → State → Option State) : State :=
  match reqAgent r.requester with
  | some a =>
    if !(s.admits a || s.cache.coh.down) then s.violation a r.line (some r.tag)
    else if 580 ≤ a && (s.site (a - 580)).closing != 0 then s
    else s.arrive r take
  | none => s.arrive r take

/-- Lines whose data an L1 awaits (R222). -/
def State.await (s : State) (r : Req) : State :=
  if r.requester < 2304 && r.requester % 4 == 0 then
    s.modCore (r.requester / 4) fun c => { c with l1 := { c.l1 with awaited := insertNat r.line c.l1.awaited } }
  else s

def execRdOnce (requester : Fin 2329) (line : BitVec 42) (off : Fin 64) (len : Nat) (ctx : BitVec 8) (part : BitVec 4) (device : BitVec 16) (lastUse : Bool) (s : State) : Out :=
  onLine line fun a =>
    let r : Req := { kind := .rdOnce, requester := requester, line := a, off := off, len := len,
                     tag := messageTag requester ctx.toNat part.toNat device.toNat, lastUse := lastUse }
    if len = 0 || decide (64 < off.val + len) then s else s.request r fun force s => s.accept r force

def execRdShared (requester : Fin 2329) (line : BitVec 42) (ctx : BitVec 8) (part : BitVec 4) (device : BitVec 16) (lastUse : Bool) (s : State) : Out :=
  onLine line fun a =>
    let r : Req := { kind := .rdShared, requester := requester, line := a,
                     tag := messageTag requester ctx.toNat part.toNat device.toNat, lastUse := lastUse }
    if (reqAgent requester).isNone then s else s.request r fun force s => (s.accept r force).map fun s => s.await r

/-- RD_UNIQUE and UPGRADE from an L1 are protocol violations (R229). -/
def State.ownRequest (s : State) (r : Req) : State :=
  match reqAgent r.requester with
  | none => s
  | some a =>
    if a < 576 && !s.cache.coh.down then s.violation a r.line (some r.tag) else s.request r fun force s => s.accept r force

def execRdUnique (requester : Fin 2329) (line : BitVec 42) (ctx : BitVec 8) (part : BitVec 4) (device : BitVec 16) (s : State) : Out :=
  onLine line fun a => s.ownRequest { kind := .rdUnique, requester := requester, line := a,
                                        tag := messageTag requester ctx.toNat part.toNat device.toNat }

def execUpgrade (requester : Fin 2329) (line : BitVec 42) (ctx : BitVec 8) (part : BitVec 4) (device : BitVec 16) (s : State) : Out :=
  onLine line fun a => s.ownRequest { kind := .upgrade, requester := requester, line := a,
                                        tag := messageTag requester ctx.toNat part.toNat device.toNat }

/-- A write: its bytes come as WR_DATA, which the slice is owed from now on (R217, R229). -/
def State.writeRequest (s : State) (r : Req) : State :=
  s.request r fun force s =>
    if !force && 32 ≤ ((s.slice (sliceOf r.line)).entry? r.line).elim 0 (fun m => m.waiters.length) then none
    else some (s.modSlice (sliceOf r.line) fun sl => { sl with owedData := sl.owedData ++ [(r, s.now)] })

def execWrThrough (requester : Fin 2329) (line : BitVec 42) (ctx : BitVec 8) (part : BitVec 4) (device : BitVec 16) (lastUse : Bool) (s : State) : Out :=
  onLine line fun a => if (reqAgent requester).isNone then s else
    s.writeRequest { kind := .wrThrough, requester := requester, line := a,
                     tag := messageTag requester ctx.toNat part.toNat device.toNat, lastUse := lastUse }

def execWrInv (requester : Fin 2329) (line : BitVec 42) (ctx : BitVec 8) (part : BitVec 4) (device : BitVec 16) (s : State) : Out :=
  onLine line fun a => s.writeRequest { kind := .wrInv, requester := requester, line := a,
                                          tag := messageTag requester ctx.toNat part.toNat device.toNat }

/-- ATOMIC: an atomic of 4 or 8 bytes, or a reduction update of the elements of len bytes from off, whose source elements
stand in the operand from its byte 0 (R154, R178, R199). -/
def execAtomic (requester : Fin 2329) (line : BitVec 42) (op : AtomOp) (off : Fin 64) (len : Nat) (operand : BitVec 512) (compare : BitVec 64) (ctx : BitVec 8) (part : BitVec 4) (device : BitVec 16) (lastUse : Bool) (s : State) : Out :=
  onLine line fun a =>
    let size := if op.isRed then op.element else len
    let fits := len != 0 && len % size == 0 && off.val % size == 0 && decide (off.val + len ≤ 64) && (op.isRed || len == 4 || len == 8)
    let r : Req := { kind := .atomic, requester := requester, line := a, off := off, len := len,
                     data := if op.isRed then operand <<< (8 * off.val) else operand
                     mask := BitVec.ofNat 64 ((2 ^ len - 1) <<< off.val), op := op, cmp := compare
                     tag := messageTag requester ctx.toNat part.toNat device.toNat, lastUse := lastUse }
    if fits then s.request r fun force s => (s.accept r force).map fun s => if op.isRed then s else s.await r else s

/-- WR_BACK (R216, R224): an owner's line leaves it. One whose snoop is under way follows it with its data; otherwise
its data is owed from now on, and the line is busy until it comes. -/
def execWrBack (agent : Fin 582) (line : BitVec 42) (s : State) : Out :=
  onLine line fun a =>
    let n := sliceOf a
    let x := s.agentLine agent a
    let r : Req := { kind := .wrBack, requester := agentReq agent, line := a }
    let owns := match (s.slice n).find a with
      | some k => foreignOwner ((s.slice n).way k) { r with requester := 2308 } == some agent.val
      | none => false
    let snooped := x.snoop.isSome || s.travels [.snpInv, .snpShare, .snpRecall] agent a
    if s.cache.coh.down then s.answerFault r
    else if agent.val < 576 || !s.admits agent || !x.owner || !owns then s.violation agent a none
    else if x.hold then s
    else if snooped then s.setAgentLine agent a { x with owner := false, data := 0, wbSent := true }
    else if ((s.slice n).entry? a).isSome then s
    else s.arrive r fun force s =>
      match (s.slice n).find a with
      | some k =>
        if !force && s.missFull n 0 then none
        else some ((s.startTxn n a k { why := .clear, dataFrom := some agent, req := r } false []).setAgentLine agent a { wbSent := true })
      | none => some s

/-- EVICT (R216, R218): the agent has dropped its copy. -/
def execEvict (agent : Fin 582) (line : BitVec 42) (s : State) : Out :=
  onLine line fun a =>
    let n := sliceOf a
    let x := s.agentLine agent a
    let snooped := x.snoop.isSome || s.travels [.snpInv, .snpShare, .snpRecall] agent a
    let r : Req := { kind := .evict, requester := agentReq agent, line := a }
    if s.cache.coh.down then s.answerFault r
    else if !s.admits agent then s.violation agent a none
    else if x.hold || !s.sup.on || !s.serving then s
    else
      let s := if agent.val < 576 then s.modCore agent fun c => { c with l1 := c.l1.inv a } else s
      if snooped && decide (576 ≤ agent.val) then s.setAgentLine agent a { x with owner := false, data := 0, evSent := true }
      else
        match (s.slice n).find a with
        | none => if x.owner then s.violation agent a none else s.setAgentLine agent a {}
        | some k =>
          let w := (s.slice n).way k
          let owns := w.dir == .e agent || w.dir == .m agent
          if x.owner && !owns then s.violation agent a none
          else
            let sh := w.sh.drop agent
            let w := if owns then { w with dir := .i, sh := {} } else if w.dir = .s then { w with dir := if sh.empty then .i else .s, sh := sh } else w
            (s.setSlice n ((s.slice n).setWay k w)).setAgentLine agent a {}

/-! Snoops and their answers (R216 to R224). -/

/-- A snoop reaches an L1's queue, whose acknowledgement leaves at once, or an agent, which answers it after its hold. -/
def State.snoopArrives (s : State) (agent a : Nat) (kind : SnoopKind) : State :=
  match s.takeMsg kind.msg agent a with
  | none => s
  | some (m, t) =>
    if agent < 576 then
      let l1 := (s.core agent).l1
      if 64 ≤ l1.invq.length then s
      else
        let late := if l1.awaited.contains a then insertNat a l1.overtaken else l1.overtaken
        (t.modCore agent fun c => { c with l1 := { c.l1 with invq := c.l1.invq ++ [(a, m.req.id)], overtaken := late } }).send
          [{ kind := .invAck, dest := agent, line := a, req := m.req }]
    else
      let x := s.agentLine agent a
      let granted := s.travels [.dataE] agent a || s.travels [.dataS] (agentReq agent) a
        || s.cache.writes.any fun w => w.grants && !w.comp && w.line == a && w.requester == agentReq agent
      if granted || x.snoop.isSome then s
      else t.setAgentLine agent a { x with snoop := some (kind, m.req.id), since := s.now }

def execSnpInv (agent : Fin 582) (line : BitVec 42) (s : State) : Out := onLine line fun a => s.snoopArrives agent a .inv

def execSnpShare (agent : Fin 582) (line : BitVec 42) (s : State) : Out := onLine line fun a => s.snoopArrives agent a .share

def execSnpRecall (agent : Fin 582) (line : BitVec 42) (s : State) : Out := onLine line fun a => s.snoopArrives agent a .recall

/-- One agent fewer to wait for; an RD_UNIQUE needs no COMP. -/
def State.ackWrite (s : State) (agent id : Nat) : State :=
  let ws := s.cache.writes.map fun w => if w.id = id then { w with acks := w.acks.erase agent } else w
  { s with cache := { s.cache with writes := ws.filter fun w => !(w.silent && w.acks.isEmpty) } }

/-- An acknowledgement of an invalidation counts for the write that caused it, or for the transaction (R216, R220). -/
def State.ackInv (s : State) (agent a id : Nat) : State :=
  let n := sliceOf a
  match ((s.slice n).entry? a).bind fun m => m.txn.map fun t => (m, t) with
  | some (m, t) =>
    if t.id = id then
      (s.modSlice n fun sl => sl.setEntry { m with txn := some { t with owed := t.owed.filter fun o => o.1 != agent } }).settleTxn a
    else s.ackWrite agent id
  | none => s.ackWrite agent id

/-- INV_ACK arrives at the home. -/
def execInvAck (agent : Fin 582) (line : BitVec 42) (s : State) : Out :=
  onLine line fun a =>
    match s.takeMsg .invAck agent a with
    | some (m, s) => s.ackInv agent a m.req.id
    | none =>
      if s.travels [.snpInv] agent a || !s.sup.on || !s.serving then s else s.violation agent a (s.txnTag a)

/-- The answer of an agent to its snoop: with data, without, or with the word that a WR_BACK is on its way (R218, R219,
R223, R224). An answer that nothing asked for, or data that is not owed, takes the domain down (R229). -/
def State.snoopAnswer (s : State) (agent a : Nat) (data : Option Line) (wb : Bool) : State :=
  let n := sliceOf a
  let x := s.agentLine agent a
  if !s.sup.on || !s.serving then s
  else
    match x.snoop with
    | none =>
      if s.travels [.snpInv, .snpShare, .snpRecall] agent a then s else s.violation agent a (s.txnTag a)
    | some (kind, id) =>
      if x.hold then s
      else if !s.admits agent || (data.isSome && kind == .inv) then s.violation agent a (s.txnTag a)
      else
        let left : AgentLine := if wb then { wbSent := true } else if kind = .share && (x.owner || data.isSome) && !x.evSent then { data := data.getD x.data } else {}
        let s := s.setAgentLine agent a left
        match ((s.slice n).entry? a).bind fun m => m.txn.map fun t => (m, t) with
        | some (m, t) =>
          if t.id = id then
            let s := s.modSlice n fun sl =>
              let sl := if wb then sl else sl.setWay m.way ((sl.way m.way).answered agent kind (if t.why = .drop then none else data))
              sl.setEntry { m with txn := some { t with
                owed := t.owed.filter (fun o => o.1 != agent), dataFrom := if wb then some agent else t.dataFrom, since := s.now } }
            s.settleTxn a
          else s.ackWrite agent id
        | none => s.ackWrite agent id

def execSnpAck (agent : Fin 582) (line : BitVec 42) (s : State) : Out :=
  onLine line fun a => s.snoopAnswer agent a none false

def execSnpAckWb (agent : Fin 582) (line : BitVec 42) (s : State) : Out :=
  onLine line fun a => s.snoopAnswer agent a none true

def execSnpData (agent : Fin 582) (line : BitVec 42) (data : BitVec 512) (s : State) : Out :=
  onLine line fun a => s.snoopAnswer agent a (some data) false

/-- HOLD_END (R223): the owner has performed its access, which may have written the line: E becomes M or stays, as a free
choice. A snoop that waited is due from now on. -/
def execHoldEnd (agent : Fin 582) (line : BitVec 42) (s : State) : Out :=
  onLine line fun a =>
    let n := sliceOf a
    let x := s.agentLine agent a
    if !x.hold then s
    else
      let s := s.setAgentLine agent a { x with hold := false, since := s.now }
      match (s.slice n).find a with
      | none => s
      | some k =>
        let w := (s.slice n).way k
        if w.dir = .e agent && ((s.slice n).entry? a).isNone then
          let (c, s) := s.choose 2
          if c = 0 then s else s.setSlice n ((s.slice n).setWay k { w with dir := .m agent })
        else s

/-! Responses and data of the home (R217, R220, R222, R223). -/

/-- COMP of a write, an atomic, a reduction or an UPGRADE; that of a partner die for an outbound write (R278). -/
def execComp (id : Nat) (s : State) : Out :=
  .next (match s.cache.writes.find? fun w => w.id == id && w.acks.isEmpty && !w.comp && !w.silent with
    | some w =>
      let rest := s.cache.writes.filterMap fun x => if x.id = id then (if w.snooped then some { x with comp := true } else none) else some x
      let s : State := { s with cache := { s.cache with writes := rest } }
      let s := match w.core with
        | some n =>
          let s := if w.queue = 3 || w.queue == 4 then s.takeFlags n (w.queue - 3) w.flags else s
          if w.reread && (s.ctx (s.core n).context.toNat).deadFault then s.refused n w.queue (mkFault .deadReread .faulted) else s
        | none => s
      match reqAgent w.requester with
      | some a =>
        if w.grants then s.setAgentLine a w.line { s.agentLine a w.line with owner := true, hold := true }
        else if (s.agentLine a w.line).wbSent && (s.agentLine a w.line).snoop.isNone then s.setAgentLine a w.line {}
        else s
      | none => s
    | none =>
      [0, 1].foldl (fun s k =>
        let x := s.site k
        match x.outbound.find? fun o => o.id == id && o.req.writes with
        | some o => (s.setSite k { x with outbound := x.outbound.filter fun y => y.id != id }).acked o.dest {}
        | none => s) s)

/-- INV_DONE (R220): within 256 cycles of the last INV_ACK every L1 has applied its entry. -/
def execInvDone (id : Nat) (s : State) : Out :=
  .next (if s.cores.any fun p => p.2.l1.invq.any fun e => e.2 == id then s
    else
      let s : State := { s with cache := { s.cache with writes := s.cache.writes.filter fun w => !(w.id == id && w.comp && w.snooped) } }
      s.compInbound)

/-- The data of a re-read is discarded where the context asked for the fault (R197). -/
def State.takeReread (s : State) (r : Req) (ok : State) : State :=
  match r.tag.core with
  | some n => if r.reread && (s.ctx (s.core n).context.toNat).deadFault then s.refused n r.tag.queue (mkFault .deadReread .faulted) else ok
  | none => ok

/-- DATA_S (R189, R222): an L1 installs the line unless an invalidation has overtaken it; an agent keeps a shared copy. -/
def execDataS (requester : Fin 2329) (line : BitVec 42) (s : State) : Out :=
  onLine line fun a =>
    match s.takeMsg .dataS requester a with
    | none => s
    | some (m, s) =>
      if requester.val < 2304 then
        let n := requester.val / 4
        let c := s.core n
        let late := c.l1.overtaken.contains a
        let l1 := { c.l1 with awaited := c.l1.awaited.erase a, overtaken := c.l1.overtaken.erase a }
        let s := s.setCore n { c with l1 := l1 }
        s.takeReread m.req (if late || !c.running then s else s.setCore n { c with l1 := l1.fill c.l1Units.toNat a m.data })
      else match reqAgent requester with
        | some ag => s.setAgentLine ag a { s.agentLine ag a with owner := false, data := m.data }
        | none => s

/-- DATA_E (R223): the agent owns the line, and its hold begins. -/
def execDataE (agent : Fin 582) (line : BitVec 42) (s : State) : Out :=
  onLine line fun a =>
    match s.takeMsg .dataE agent a with
    | none => s
    | some (m, s) => s.setAgentLine agent a { s.agentLine agent a with owner := true, hold := true, data := m.data }

/-- RD_DATA: the home's answer, or that of a partner die to an outbound read, whose bytes are the operand's (R278). -/
def execRdData (requester : Fin 2329) (line : BitVec 42) (data : BitVec 512) (s : State) : Out :=
  .next (match s.takeMsg .rdData requester line.toNat with
    | some (m, s) => s.takeReread m.req s
    | none =>
      [0, 1].foldl (fun s k =>
        let x := s.site k
        match x.outbound.find? fun o => o.req.requester == requester.val && o.req.line == line.toNat && !(o.req.kind == .wrInv) with
        | some o =>
          (s.setSite k { x with outbound := x.outbound.filter fun y => y.id != o.id }).deliver o.dest (64 * o.req.line + o.req.off)
            (leBytes o.req.len (lineRd data o.req.off o.req.len)) false
        | none => s) s)

/-- WR_DATA (R217, R224): the bytes of a write that is owed, or the line of a WR_BACK. -/
def execWrData (requester : Fin 2329) (line : BitVec 42) (data : BitVec 512) (mask : BitVec 64) (s : State) : Out :=
  onLine line fun a =>
    let n := sliceOf a
    let sl := s.slice n
    let from_ := (reqAgent requester).getD (if requester.val < 2304 then requester.val / 4 else 0)
    let x := s.agentLine from_ a
    let back := (sl.entry? a).bind fun m => m.txn.bind fun t =>
      if t.dataFrom = some from_ && reqAgent requester == some from_ then some (m, t) else none
    match back with
    | some (m, t) =>
      let s := s.modSlice n fun sl => (sl.setWay m.way ((sl.way m.way).answered from_ .recall (some data))).setEntry
        { m with txn := some { t with dataFrom := none } }
      let s := if t.req.kind = .wrBack then s.owesComp t.req {} false else s.setAgentLine from_ a {}
      s.settleTxn a
    | none =>
      match sl.owedData.find? fun q => q.1.requester == requester.val && q.1.line == a with
      | some q =>
        let rest := sl.owedData.eraseP fun q => q.1.requester == requester.val && q.1.line == a
        let r := { q.1 with data := data, mask := mask }
        ((s.modSlice n fun sl => { sl with owedData := rest }).accept r false).getD s
      | none =>
        if x.wbSent || s.cache.coh.down || !s.sup.on || !s.serving then s else s.violation from_ a (s.txnTag a)

/-- RETRY reaches its requester (R226). -/
def execRetry (slice : Fin 256) (requester : Fin 2329) (s : State) : Out :=
  let hit (m : Msg) : Bool := m.kind == .retry && m.dest == requester.val && sliceOf m.line == slice.val
  .next { s with cache := { s.cache with msgs := s.cache.msgs.eraseP hit } }

/-- CREDIT to the head of the queue, as capacity frees (R226). -/
def execCredit (slice : Fin 256) (s : State) : Out :=
  let sl := s.slice slice
  .next (match sl.retry with
    | [] => s
    | r :: rest =>
      if !s.missFull slice r.tag.part && !s.travels [.retry] r.requester r.line then
        s.setSlice slice { sl with retry := rest, credited := sl.credited ++ [(r, s.now)] }
      else s)

/-- FAULT reaches its requester: what waits on it ends FAULTED (R230). -/
def execFault (requester : Fin 2329) (line : BitVec 42) (s : State) : Out :=
  .next (match s.takeMsg .fault requester line.toNat with
    | none => s
    | some (_, s) =>
      if requester.val < 2304 && (s.core (requester.val / 4)).running then
        s.modCore (requester.val / 4) fun c => { c with stopped := true, lastStatus := BitVec.ofNat 8 Status.faulted.code
                                                        l1 := { c.l1 with awaited := c.l1.awaited.erase line.toNat } }
      else s)

/-! The three silences that take the domain down (R229). -/

def execSnoopTimeout (agent : Fin 582) (line : BitVec 42) (s : State) : Out :=
  onLine line fun a =>
    let x := s.agentLine agent a
    if x.snoop.isSome && !x.hold && decide (x.since + 20000 ≤ s.now) then s.cohDown 1 agent false a (some ((s.txnTag a).getD {})) else s

def execDataTimeout (requester : Fin 2329) (line : BitVec 42) (s : State) : Out :=
  onLine line fun a =>
    let sl := s.slice (sliceOf a)
    let back := (sl.entry? a).bind fun m => m.txn.bind fun t =>
      if t.dataFrom.isSome && t.dataFrom == reqAgent requester && decide (t.since + 20000 ≤ s.now) then some t.req.tag else none
    let owed := (sl.owedData.find? fun q => q.1.requester == requester.val && q.1.line == a && decide (q.2 + 20000 ≤ s.now)).map fun q => q.1.tag
    match back.orElse (fun _ => owed) with
    | some t => s.cohDown 2 requester true a (some t)
    | none => s

def execCreditTimeout (slice : Fin 256) (requester : Fin 2329) (s : State) : Out :=
  .next (match (s.slice slice).credited.find? fun q => q.1.requester == requester.val && decide (q.2 + 20000 ≤ s.now) with
    | some q => s.cohDown 3 requester true q.1.line (some q.1.tag)
    | none => s)

end Sys2Proof.Machine
end

