-- ==== Sys2Proof/Machine/DramCmds.lean ====
section
/-! DEFINITION. The cache and memory events of the opcode table (R190, R195, R200, R202, R243, R245, R248 to R250). -/

namespace Sys2Proof.Machine

/-- An error pattern from a list of symbols and differing bits; a symbol named twice differs by both. -/
def errPat (l : List (Fin 72 × BitVec 8)) : ErrPat := l.foldl (fun e p => errXor e [(p.1.val, p.2)]) []

/-- The wrong symbols that both reads of an uncorrectable line met at last stand in memory (R244). -/
def State.stand (s : State) (a : Nat) (e : ErrPat) : State :=
  let x := errXor (tabGet [] s.mem.errs a) e
  { s with mem := { s.mem with errs := if x.isEmpty then tabDel s.mem.errs a else tabSet s.mem.errs a x } }

/-- The accesses that wait on a line whose read is uncorrectable end FAULTED; the first of each context raises the job
fault (R243). -/
def State.faultWaiters (s : State) (a : Nat) (rs : List Req) : State :=
  let firsts := rs.foldl (fun (acc : List Req) r =>
    if acc.any fun q => q.tag.ctx == r.tag.ctx && q.tag.remote == r.tag.remote then acc else acc ++ [r]) []
  let s := rs.foldl State.answerFault s
  firsts.foldl (fun s r => s.ueFault a r.tag) s

/-- FILL_LANDED (R190, R242, R243): the read of the line's channel, with the wrong symbols that its first read met beyond
those that stand, and those of its second. -/
def execFillLanded (line : BitVec 42) (first second : List (Fin 72 × BitVec 8)) (s : State) : Out :=
  let a := line.toNat
  let n := sliceOf a
  .next (match (s.slice n).entry? a with
    | none => s
    | some m =>
      if !m.filling || (s.chan n).state == 3 || !s.serving then s
      else
        let tag := (m.waiters.head?.map (·.tag)).getD {}
        match s.chanRead a 0 tag (errPat first) (errPat second) with
        | (some l, s) =>
          let s := (s.modSlice n fun sl => sl.delEntry a).install n m.way a l
          (s.acceptAll m.waiters).unpark n
        | (none, s) =>
          let s := (s.stand a (errPat second)).modSlice n fun sl => (sl.delEntry a).setWay m.way {}
          (s.faultWaiters a m.waiters).unpark n)

/-- PIN_RELEASE (R195, R200): after 65,536 cycles without a reduction update. -/
def execPinRelease (line : BitVec 42) (s : State) : Out :=
  let n := sliceOf line.toNat
  .next (match (s.slice n).find line.toNat with
    | none => s
    | some k =>
      let w := (s.slice n).way k
      if !w.pinned then s
      else
        let s := s.setSlice n ((s.slice n).setWay k { w with pinned := false, marked := false })
        if w.marked then s.dropLine n k else s)

/-- MEMORY_CONTROLLER_REDUCTION (R202): the oldest forwarded update of the line. After an uncorrectable read every later
update and access of the line ends FAULTED (R243). -/
def execMemoryControllerReduction (line : BitVec 42) (s : State) : Out :=
  let a := line.toNat
  let n := sliceOf a
  let sl := s.slice n
  .next (match sl.forwarded.find? fun f => f.line == a with
    | none => s
    | some r =>
      if (s.chan n).state == 3 || s.cache.coh.down || !s.serving then s
      else
        match s.redAtMemory r [] [] with
        | (.done v, s) =>
          let s := s.modSlice n fun sl => { sl with forwarded := sl.forwarded.eraseP fun f => f.line == a }
          (s.respond r v).unpark n
        | (_, s) =>
          let queued := sl.forwarded.filter fun f => f.line == a
          let parked := (sl.entry? a).elim [] (·.waiters)
          let s := s.modSlice n fun sl => { sl.delEntry a with forwarded := sl.forwarded.filter fun f => f.line != a }
          (queued ++ parked).foldl State.answerFault s)

/-- PATROL_SCRUB (R243, R245): the next line of the channel's pass. -/
def execPatrolScrub (chan : Fin 256) (first second : List (Fin 72 × BitVec 8)) (s : State) : Out :=
  let c := s.chan chan
  .next (if s.mem.scrubHours = 0 || c.state != 2 then s
    else
      let a := lineAt chan c.scrub.toNat
      let s := s.setChan chan { c with scrub := c.scrub + 1 }
      match s.chanRead a 2 {} (errPat first) (errPat second) with
      | (some _, s) => s
      | (none, s) => s.stand a (errPat second))

/-- REFRESH_REPORT (R249): 0 to 2 for the factors 1, 2 and 4; 3 above the operating limit. -/
def execRefreshReport (chan : Fin 256) (report : Fin 4) (s : State) : Out :=
  let c := s.chan chan
  .next (if c.state != 2 then s
    else s.setChan chan { c with refresh := if report.val = 3 then 2 else BitVec.ofNat 2 report.val, overTemp := report.val == 3 })

/-- DQS_TRACKING (R248): the drift in per cent of the trained eye width. -/
def execDqsTracking (chan : Fin 256) (drift : Int) (s : State) : Out :=
  let c := s.chan chan
  .next (if c.state != 2 then s
    else
      let s := s.setChan chan { c with drift := drift.natAbs }
      if 25 < drift.natAbs then s.deviceFault 0x12 chan (chan.val / 64) else s)

/-- Set the state of the channels that are in one state. -/
def State.moveChans (s : State) (old new : BitVec 4) : State :=
  (List.range 256).foldl (fun s n => if (s.chan n).state = old then s.setChan n { s.chan n with state := new } else s) s

/-- SELF_REFRESH_ENTRY (R250, R298): in idle states 3 and 4, once every forwarded reduction is done. -/
def execSelfRefreshEntry (s : State) : Out :=
  .next (if decide (3 ≤ s.tim.idle.toNat) && s.cache.slices.all (fun p => p.2.forwarded.isEmpty && p.2.miss.isEmpty) then s.moveChans 2 3
    else s)

/-- SELF_REFRESH_EXIT (R250, R300): once a wake has begun. -/
def execSelfRefreshExit (s : State) : Out :=
  .next (if s.tim.wakeEnd.isSome then s.moveChans 3 2 else s)

end Sys2Proof.Machine
end

