-- ==== Sys2Proof/Machine/Host.lean ====
section
/-! DEFINITION. The host's accesses: BAR0 reads and writes (R12 to R15), rings and packet taking (R365 to R372), the BAR2
window (R171, R243, R364, R457). -/

namespace Sys2Proof.Machine

/-! Rings. -/

/-- A TAIL write (R366). -/
def State.writeTail (s : State) (fn ring : Nat) (v : Word) : State :=
  let r := s.ring fn ring
  s.setRing fn ring (if 2 ^ r.sizeLog2.toNat < (v - r.head).toNat then { r with overflow := true } else { r with tail := v })

/-- HOST_RING_TAIL (R366): the doorbell of a ring. -/
def execHostRingTail (fn : Fin 16) (ring : Fin 4) (value : BitVec 32) (s : State) : Out :=
  .next (if s.hostWrites then (s.writeTail fn ring value).rouse else s)

/-- A write of HOST_RING_CTRL_n (R365, R368, R389). -/
def State.writeRingCtrl (s : State) (fn ring : Nat) (v : Word) : State :=
  let r := s.ring fn ring
  if r.enable then s.setRing fn ring { r with enable := bit v 31 }
  else
    let size := fld v 20 16
    let r := { r with ringVa := bit v 30, statusVa := bit v 29, sizeLog2 := BitVec.ofNat 5 size, vector := BitVec.ofNat 3 (fld v 10 8) }
    s.setRing fn ring (if !bit v 31 then r
      else if 4 ≤ size && decide (size ≤ 16) then { r with enable := true, head := 0, tail := 0 }
      else { r with cause := 1 })

/-- HOST_RING_CTRL (R365). -/
def execHostRingCtrl (fn : Fin 16) (ring : Fin 4) (value : BitVec 32) (s : State) : Out :=
  .next (if s.hostWrites then s.writeRingCtrl fn ring value else s)

/-- Where the status word of a packet index lies. -/
def Ring.statusAt (r : Ring) (index : Nat) : Nat := r.status.toNat + 16 * (index % 2 ^ r.sizeLog2.toNat)

/-- May the packet at HEAD of a ring be taken now (R367, R372, R457)? -/
def State.mayTake (s : State) (fn ring : Nat) : Bool :=
  let r := s.ring fn ring
  s.hostUp && s.hub.bootStatus != 0x01 && s.tim.idle == 0 && (s.serving || s.recov.state == 3) && r.enable && r.tail != r.head
    && s.cmds.all fun c => !(c.fn == fn && c.statusVa == r.statusVa && c.statusAt == r.statusAt r.head.toNat) || c.status.final

/-- The command of the packet at HEAD of a ring (R367, R373). -/
def State.packetCmd (s : State) (fn ring : Nat) (p : Line) : Cmd :=
  let r := s.ring fn ring
  { fn := fn, ring := ring, index := r.head, id := s.nextCmd, pkt := p, statusVa := r.statusVa, statusAt := r.statusAt r.head.toNat
    vector := r.vector.toNat }

/-- The packet at HEAD is in hand, and HEAD is past it (R367). -/
def State.holdPacket (s : State) (fn ring : Nat) (p : Line) : State :=
  let r := s.ring fn ring
  { s.setRing fn ring { r with head := r.head + 1 } with cmds := s.cmds ++ [s.packetCmd fn ring p], nextCmd := s.nextCmd + 1 }

/-- The packet has been read: its command is in hand, its status word PENDING, its CRC checked (R370). -/
def State.takePacket (s : State) (fn ring : Nat) (p : Line) (corrupt : Bool := false) : State :=
  let t := (s.holdPacket fn ring p).post s.nextCmd
  if crc32 ((lineBytes p).take 60) = byteFld p 0x3C 4 && !corrupt then t else t.finish s.nextCmd .badCrc

/-- A packet that an uncorrectable error has reached: its CRC fails, and what its other bytes read as is open (R448). -/
def State.takeCorrupt (s : State) (fn ring : Nat) : State :=
  let p : Line := Config.eccData s.free ++ Config.eccData (s.free + 1)
  { s with free := s.free + 2 }.takePacket fn ring p true

/-- The packet at HEAD is read from the addresses of the context that is mapped to the function (R365, R368, R448). -/
def State.takeMapped (s : State) (fn ring : Nat) : State :=
  let r := s.ring fn ring
  let f := s.fn fn
  if !f.mapped then s.disableRing fn ring 3
  else
    match s.vread { s.hdVia f.context.toNat with checked := true } (r.base.toNat + 64 * (r.head.toNat % 2 ^ r.sizeLog2.toNat)) 64 with
    | (.error (.fault e), s) => if e.reason = .translation then s.disableRing fn ring 3 else s.takeCorrupt fn ring
    | (.error .faulted, s) => s.disableRing fn ring 2
    | (.error .busy, s) => s
    | (.ok bs, s) => s.takePacket fn ring (bytesLine bs)

/-- PACKET_TAKE (R370): the packet at HEAD is read, from the mapped context's addresses or else as the host's memory
answers (none: completed with an error), and its command taken. -/
def execPacketTake (fn : Fin 16) (ring : Fin 4) (packet : Option Line) (s : State) : Out :=
  .next (if !s.mayTake fn ring then s
    else if (s.ring fn ring).ringVa then s.takeMapped fn ring
    else match packet with
      | none => s.disableRing fn ring 2
      | some p => s.takePacket fn ring p)

/-- PACKET_READ_TIMEOUT (R368): the read of the packet at HEAD has got no completion within 10 ms. -/
def execPacketReadTimeout (fn : Fin 16) (ring : Fin 4) (s : State) : Out :=
  .next (if s.mayTake fn ring then s.disableRing fn ring 2 else s)

/-! BAR2. -/

/-- The endpoint acting through a function's window (R364): the rights of a CPE access, apertures unreachable. -/
def State.bar2Via (s : State) (fn : Nat) : Via :=
  let v := s.hdVia (s.fn fn).context.toNat
  { v with tag := { v.tag with host := true } }

/-- The virtual address of a window offset. -/
def HostFn.va (f : HostFn) (off : Nat) : Nat := f.vaBase.toNat * 2 ^ 30 + off

/-- BAR2_WRITE (R364): bytes from an offset upward. -/
def execBar2Write (fn : Fin 16) (offset : BitVec 36) (bytes : List (BitVec 8)) (s : State) : Out :=
  let f := s.fn fn
  .next (if !s.hostUp || s.shut || !f.mapped then s
    else if s.tim.idle != 0 then s.rouse
    else
      let v := s.bar2Via fn
      let va := f.va offset.toNat
      match s.checkRange v .write (cut va bytes.length) with
      | (.error _, s) => s
      | (.ok _, s) => (s.vwrite v va bytes).2)

/-- BAR2_READ (R364): the answer stands in the function's bar2Data: bytes, or none for Unsupported Request and, with
bar2Abort, Completer Abort. -/
def execBar2Read (fn : Fin 16) (offset : BitVec 36) (len : Fin 4097) (s : State) : Out :=
  let f := s.fn fn
  let answer (s : State) (d : Option (List Byte)) (abort : Bool) : State :=
    s.modFn fn fun x => { x with bar2Data := d, bar2Abort := abort }
  .next (if !s.hostUp then s
    else if s.shut then answer s none true
    else if !f.mapped then answer s none false
    else if s.tim.idle != 0 then s.rouse
    else
      match s.vread (s.bar2Via fn) (f.va offset.toNat) len with
      | (.error (.fault _), s) => answer s none false
      | (.error .faulted, s) => answer s none true
      | (.error .busy, s) => s
      | (.ok bs, s) => answer s (some bs) false)

/-! BAR0. -/

/-- A 32-bit read with the latches of R15 and R486: the latched word if one is held, which the read consumes; a read of a
register's lowest word latches the others. -/
def State.bar0Read (s : State) (fn off : Nat) : Nat × State :=
  let off := off / 4 * 4
  let f := s.fn fn
  match tabGet? f.latches off with
  | some w => (w.toNat, s.setFn fn { f with latches := tabDel f.latches off })
  | none =>
    let r := s.regView fn off
    let rest := if off = r.base then (List.range r.words).drop 1 else []
    let l := rest.foldl (fun t i => tabSet t (off + 4 * i) (BitVec.ofNat 32 (r.word (off + 4 * i)))) f.latches
    (r.word off, s.setFn fn { f with latches := l })

/-- LATCHED_READ (R15): a BAR0 read of 32 bits, or of 64 at once. -/
def execLatchedRead (fn : Fin 16) (offset : BitVec 24) (wide : Bool) (s : State) : Out :=
  let off := offset.toNat / 4 * 4
  .next (if !s.hostUp then s
    else
      let (lo, s) := s.bar0Read fn off
      if wide then
        let (hi, s) := s.bar0Read fn (off + 4)
        s.modFn fn fun x => { x with bar0Data := BitVec.ofNat 64 (lo + hi * 2 ^ 32) }
      else s.modFn fn fun x => { x with bar0Data := BitVec.ofNat 64 lo })

/-- A 64-bit register of a ring once both its halves are written (R15, R389). -/
def State.writeRingBase (s : State) (fn ring b : Nat) (v : Nat) : State :=
  let r := s.ring fn ring
  if r.enable then s
  else s.setRing fn ring (if b = 0 then { r with base := BitVec.ofNat 64 (v / 64 * 64) } else { r with status := BitVec.ofNat 64 (v / 16 * 16) })

/-- A 32-bit write to BAR0 (R12 to R15): every register that a write changes. -/
def State.bar0Write (s : State) (fn off : Nat) (v : Word) : State :=
  let off := off / 4 * 4
  let pf := fn == 0
  match slotOf off 0x600000 0x40 4 with
  | some (n, b) =>
    let r := s.ring fn n
    if b = 0x00 || b = 0x08 then s.modFn fn fun f => { f with lows := tabSet f.lows off v }
    else if b = 0x04 || b = 0x0C then
      let f := s.fn fn
      let cur := if b = 0x04 then r.base.toNat else r.status.toNat
      let lo := ((tabGet? f.lows (off - 4)).map BitVec.toNat).getD (cur % 2 ^ 32)
      (s.setFn fn { f with lows := tabDel f.lows (off - 4) }).writeRingBase fn n (b - 4) (lo + v.toNat * 2 ^ 32)
    else if b = 0x10 then s.writeRingCtrl fn n v
    else if b = 0x14 then s.writeTail fn n v
    else if b = 0x1C && bit v 31 then s.setRing fn n { r with overflow := false }
    else s
  | none => match slotOf off 0x520000 0x100 256 with
  | some (n, b) =>
    let c := s.chan n
    if b = 0xC && pf then s.setChan n { c with ueValid := c.ueValid && !bit v 31, ueOverflow := c.ueOverflow && !bit v 30 } else s
  | none =>
    if off = 0x540400 then s.writeInject fn v
    else if off = 0x640008 && pf then
      { s with mw := { s.mw with hang := s.mw.hang && !bit v 31, overrun := s.mw.overrun && !bit v 30 } }
    else if off = 0x64000C then s.writeMwCtrl fn v
    else if off = 0x640010 && pf then
      if fld v 9 0 ≤ 612 then { s with mw := { s.mw with crashPage := BitVec.ofNat 10 (fld v 9 0) } } else s
    else if off = 0x6200C0 && pf then { s with sup := { s.sup with pwrOkBad := s.sup.pwrOkBad && !bit v 25 } }
    else if off = 0x680004 then
      if s.sec.locked then s.secEvent 6 fn off else { s with sec := { s.sec with debugMode := BitVec.ofNat 2 (fld v 1 0) } }
    else s

/-- REGISTER_WRITE (R12): a BAR0 write of 32 bits, or of 64 at once. -/
def execRegisterWrite (fn : Fin 16) (offset : BitVec 24) (value : BitVec 64) (wide : Bool) (s : State) : Out :=
  let off := offset.toNat / 4 * 4
  .next (if !s.hostWrites then s
    else
      let s := s.bar0Write fn off (BitVec.ofNat 32 value.toNat)
      if wide then s.bar0Write fn (off + 4) (BitVec.ofNat 32 (value.toNat / 2 ^ 32)) else s)

end Sys2Proof.Machine
end

