-- ==== Sys2Proof/Machine/Links.lean ====
section
/-! DEFINITION. The die links and the links of the partner sites (R254 to R263, R280). -/

namespace Sys2Proof.Machine

def DieLink.side (l : DieLink) (dir : Bool) : LinkDir := if dir then l.dir1 else l.dir0

def DieLink.setSide (l : DieLink) (dir : Bool) (d : LinkDir) : DieLink := if dir then { l with dir1 := d } else { l with dir0 := d }

/-- Retries of a direction in the present millisecond; a new one starts from 0 (R261). -/
def DieLink.atMs (l : DieLink) (ms : Nat) : DieLink := if l.ms = ms then l else { l with ms := ms, retryMs0 := 0, retryMs1 := 0 }

/-- A flit has failed: counted; a NAK goes out unless the receiver already waits for the replay (R260, R261). -/
def DieLink.failed (l : DieLink) (dir : Bool) : DieLink :=
  let d := l.side dir
  let l := { l with crcErr := l.crcErr + 1 }
  if d.discarding && !d.replaying then l
  else
    let l := l.setSide dir { d with discarding := true, replaying := false, failures := d.failures + 1 }
    { l with retries := l.retries + 1
             retryMs0 := if dir then l.retryMs0 else l.retryMs0 + 1, retryMs1 := if dir then l.retryMs1 + 1 else l.retryMs1 }

/-- Does a persistent condition of R261 hold? -/
def DieLink.persistent (l : DieLink) : Bool :=
  l.lost || decide (5 ≤ l.dir0.failures) || decide (5 ≤ l.dir1.failures) || decide (1024 < l.retryMs0) || decide (1024 < l.retryMs1)

/-- The units of a flit that are not empty, with their kinds (R257). -/
def dieUnits (f : BitVec 1088) : List (Nat × Line) :=
  [(fld f 27 24, BitVec.ofNat 512 (byteFld f 4 64)), (fld f 31 28, BitVec.ofNat 512 (byteFld f 68 64))].filter
    fun u => u.1 != 0 && decide (u.1 < 7)

/-- DIE_LINK_FLIT_RECEIVE (R257, R260, R263): a flit arrives at the end that a direction runs to. -/
def execDieLinkFlitReceive (link : Fin 10) (dir : Bool) (flit : BitVec 1088) (s : State) : Out :=
  let l := (s.link link).atMs (s.now / 10 ^ 6)
  let d := l.side dir
  let seq := fld flit 9 0
  .next (if !s.sup.on || !(l.state == 2 || l.state == 3) then s
    else
      let inHand := !d.discarding || d.replaying
      let corrupt := inHand && l.inject.any (·.1 == dir)
      let l := if corrupt then { l with inject := l.inject.bind fun i => if i.2 ≤ 1 then none else some (i.1, i.2 - 1) } else l
      let d := if d.replaying then d else { d with next := (d.next + 1) % 1024, buffer := (d.buffer ++ [d.next]).drop (d.buffer.length - 511) }
      let l := l.setSide dir d
      if corrupt || crc32 (leBytes 132 (byteFld flit 0 132)) != byteFld flit 132 4 then s.setLink link (l.failed dir)
      else
        let o := l.side (!dir)
        let ack := fld flit 19 10
        let l := l.setSide (!dir) { o with buffer := if o.buffer.contains ack then (o.buffer.dropWhile (· != ack)).drop 1 else o.buffer }
        if inHand && seq == (d.last.elim 0 fun x => (x + 1) % 1024) then
          let done := (seq + 1) % 1024 == d.next
          let l := l.setSide dir { d with last := some seq, discarding := false, replaying := d.replaying && !done, failures := 0, handed := dieUnits flit }
          s.setLink link { l with state := if (l.side (!dir)).replaying || (d.replaying && !done) then 3 else 2 }
        else s.setLink link l)

/-- DIE_LINK_NAK (R260): the sender replays every flit after the one named. -/
def execDieLinkNak (link : Fin 10) (dir : Bool) (ack : BitVec 10) (s : State) : Out :=
  let l := s.link link
  let d := l.side dir
  .next (if (l.state == 2 || l.state == 3) && d.discarding && !d.replaying && ack.toNat == d.last.getD 1023 then
      s.setLink link { (l.setSide dir { d with replaying := true, buffer := if d.buffer.contains ack.toNat then (d.buffer.dropWhile (· != ack.toNat)).drop 1 else d.buffer }) with state := 3 }
    else s)

/-- DIE_LINK_PERSISTENT_FAULT (R261): the link stops; the lane test names the failed lanes; a device fault. -/
def execDieLinkPersistentFault (link : Fin 8) (dir : Bool) (failed first : BitVec 10) (s : State) : Out :=
  let l := s.link link
  .next (if !(l.state == 2 || l.state == 3) || !l.persistent then s
    else
      let l := { l with state := 4, failLanes := failed, firstLane := if failed = 0 then 0 else first, dir := failed != 0 && dir
                        inject := none, dir0 := {}, dir1 := {} }
      (s.setLink link l).deviceFault 0x10 (l.word + link.val * 2 ^ 32) 7)

/-- D2D_INJECT (R263). -/
def execD2dInject (fn : Fin 16) (value : BitVec 32) (s : State) : Out :=
  .next (if s.hostWrites then s.writeInject fn value else s)

/-- LANE_LOCK_LOSS (R261, R309): of links 0 to 7, 8 and 9 for the sites, and fabric port p as 10 + p. -/
def execLaneLockLoss (link : Fin 28) (s : State) : Out :=
  .next (if link.val < 10 then
      let l := s.link link
      if l.state = 2 || l.state == 3 then s.setLink link { l with lost := true } else s
    else
      let p := s.port (link.val - 10)
      if p.up then s.setPort (link.val - 10) { p with lost := true } else s)

end Sys2Proof.Machine
end

