-- ==== Sys2Proof/Machine/RecovOps.lean ====
section
/-! DEFINITION. What the recoveries share (R455 to R464, R493): the stop with its fault notices, the crash region, what each
reset domain loses, how contexts and commands are settled. -/

namespace Sys2Proof.Machine

/-! The governing record. -/

def State.governing (s : State) : FaultRec := tabGet {} s.log.recs s.recov.record

/-- The records that the recovery covers, as far as the log still holds them. -/
def State.covered (s : State) : List FaultRec := s.recov.covers.filterMap (tabGet? s.log.recs)

/-! Step 1: the stop. -/

/-- A fault notice for one schedule (R459). -/
def State.notice (s : State) (x : Schedule) : List Byte :=
  let r := s.governing
  let b := [0x10, r.cls, r.cause, 0] ++ leBytes 2 s.fab.device.toNat ++ [0, 0] ++ leBytes 8 x.job.toNat ++ padTo 4 (x.digest.drop 16)
    ++ leBytes 4 s.recov.record ++ leBytes 8 s.recov.detected ++ List.replicate 28 0
  b ++ leBytes 4 (crc32 b)

/-- The notices of a schedule leave, to every member but this device. -/
def State.giveNotice (s : State) (g : Nat) : State :=
  let x := s.sched g
  if x.state.toNat < 2 || 4 < x.state.toNat then s
  else
    let others := ((List.range x.members).map (x.first + ·)).filter (· != s.fab.device.toNat)
    others.foldl (fun s d => s.sendJoin x.joinCtx d g (s.notice x)) s

/-- Requests of other devices that wait for their COMP are answered with ERROR and FAULTED (R457). -/
def State.errorInbound (s : State) : State :=
  let w := s.fab.inbound
  w.foldl (fun s i => s.reply i.hdr 0x8F 0 Status.faulted.code 0 []) { s with fab := { s.fab with inbound := [] } }

/-- Requests that the firewall holds are answered with an error completion (R457). -/
def State.errorHeld (s : State) (k : Nat) : State :=
  let x := s.site k
  s.setSite k { x with held := [], answers := x.answers ++ x.held.map fun _ => none }

/-- Step 1 of both recoveries: cores stop, slices refuse, notices leave, schedules that run stop (R349, R455, R457, R459).
An idle device is awake from here on. -/
def State.halt (s : State) : State :=
  let s := if s.cache.coh.down then s else s.cache.slices.foldl (fun s p => s.refuseAll p.1) s
  let s : State := { s with
    cores := s.cores.map fun p => (p.1, { p.2 with stopped := true })
    cache := { s.cache with coh := { s.cache.coh with down := true } }
    tim := { s.tim with idle := 0, wakeEnd := none, held := 0 } }
  let s := [0, 1, 2, 3].foldl State.giveNotice (s.moveChans 3 2)
  let s : State := { s with sol := { s.sol with sched := s.sol.sched.map fun p =>
    (p.1, if p.2.state = 3 || p.2.state == 4 then { p.2 with state := 5 } else p.2) } }
  (s.errorInbound.errorHeld 0).errorHeld 1

/-! Step 2: the crash region (R452, R453). -/

/-- Whole lines written at a physical address. -/
def State.storeLines (s : State) (pa : Nat) (bs : List Byte) : State :=
  (List.range (bs.length / 64)).foldl (fun s i => s.chanWrite (pa / 64 + i) (bytesLine ((bs.drop (64 * i)).take 64))) s

/-- Address of the next instruction of a queue. -/
def Queue.pc (q : Queue) : Nat := q.base + 16 * q.pos

/-- The core status block of R453: copied, stopped. -/
def Core.crashBlock (c : Core) : List Byte :=
  leBytes 4 c.statusWord ++ leBytes 4 c.qstateWord ++ leBytes 4 c.splitWord ++ leBytes 4 c.mxeWord ++ leBytes 4 c.vxeWord ++ leBytes 4 c.lenWord
    ++ leBytes 4 c.tgeWord ++ leBytes 4 c.tge.faultLanes.toNat ++ leBytes 8 c.faultPcWord ++ leBytes 4 c.redStatus.toNat ++ leBytes 4 3
    ++ (List.range 8).flatMap (fun t => leBytes 4 (c.mxe.statWord t)) ++ (List.range 32).flatMap (fun k => leBytes 4 (zGet c.sems k))
    ++ Eng.all.flatMap (fun e => leBytes 8 (c.queue e).pc) ++ leBytes 8 0

/-- The crash header of R453 over its 4 KiB. -/
def State.crashHeader (s : State) : List Byte :=
  padTo 4096 (leBytes 4 1 ++ leBytes 4 1 ++ leBytes 4 s.recov.record ++ [BitVec.ofNat 8 s.mw.sampleKib.toNat, 0] ++ leBytes 2 576 ++ leBytes 8 s.recov.detected)

def State.fillCrash (s : State) : State :=
  let kib := s.mw.sampleKib.toNat
  let s := (List.range 576).foldl (fun s n =>
    let c := s.core n
    let at_ := crashBase + 4096 + 69632 * n
    (s.storeLines at_ c.crashBlock).storeLines (at_ + 4096) (memRdN c.sp 0 (1024 * kib))) s
  s.storeLines crashBase s.crashHeader

/-! What the resets take away (R454). -/

/-- The compute part is reset: cores but for the levels that the loop holds, slices, networks, hub control cores, the
requests that they had made. -/
def State.resetCompute (s : State) : State :=
  let keep := s.cores.filter fun p => p.2.nextLevel != 0
  let quiet (d : LinkDir) : LinkDir := { d with handed := [] }
  { s with
    cores := keep.map fun p => (p.1, { nextLevel := p.2.nextLevel })
    cache := { s.cache with slices := [], agents := [], msgs := [], writes := [], coh := {} }
    links := { links := s.links.links.map fun p => (p.1, { p.2 with dir0 := quiet p.2.dir0, dir1 := quiet p.2.dir1 })
               sites := s.links.sites.map fun p => (p.1, { p.2 with outbound := [] }) }
    fab := { s.fab with tracker := [], arrived := [], unmaps := [] }
    sol := { s.sol with wires := s.sol.wires.filter fun w => decide (3072 ≤ w.1) }
    saved := [], hdTlb := [], scheds := []
    ctxs := s.ctxs.map fun p => (p.1, { p.2 with durations := [] }) }

/-- Lines read from their channels with their checks; none after an uncorrectable error. -/
def State.readLines : Nat → Nat → State → Option (List Byte) × State
  | _, 0, s => (some [], s)
  | a, n + 1, s =>
    match s.chanRead a 0 {} [] [] with
    | (none, s) => (none, s)
    | (some l, s) =>
      match State.readLines (a + 1) n s with
      | (some r, s) => (some (lineBytes l ++ r), s)
      | (none, s) => (none, s)

/-- The image copied into the firmware region. -/
def State.readCopy (s : State) : Option (List Byte) × State :=
  State.readLines (imageCopy / 64) (min (2 ^ 18) (imageLen (memRdN s.mem.bytes imageCopy 8) / 64)) s

/-- Does an image match the one measured at boot? -/
def State.matchesBoot (s : State) (image : List Byte) : Bool :=
  BitVec.ofNat 256 (leVal (sha256 (signedBytes image))) == s.sec.digest

/-- Links, sites, ports and Solstice state are reset; what the configuration record sets stands, segments and their
generations stay (R454, R463). -/
def State.resetLinks (s : State) : State :=
  { s with
    links := {}, sol := {}
    fab := { fabricOf s.sec.config with segs := s.fab.segs, gens := s.fab.gens, floor := s.fab.floor }
    cal := { s.cal with entries := [0, 1, 2, 3].foldl (fun t g => tabDel t (epochEntry g)) s.cal.entries } }

/-- The memory controllers are reset; contents stay with the symbols that are wrong in them. Partitions are unsealed (R463). -/
def State.resetMemory (s : State) : State :=
  { s with
    mem := { bytes := s.mem.bytes, errs := s.mem.errs, running := s.mem.running, scrubHours := BitVec.ofNat 8 (byteAt s.sec.config 0x22 1) }
    cache := { s.cache with parts := [] }
    parts := s.parts.map fun p => (p.1, { p.2 with sealed := false, solShare := 0, powerW := 0 })
    sec := { s.sec with pmeas := [] } }

/-- Out of service, until power is removed (R458). -/
def State.outOfService (s : State) (code : Nat := 0x31) : State :=
  { s with recov := { s.recov with state := 3, step := 0, due := 0 }, hub := { s.hub with bootStatus := BitVec.ofNat 8 code } }

/-! Settling (R456). -/

/-- Contexts of this device that a record of class 2 or 3 names. -/
def State.namedCtxs (s : State) : List Nat :=
  (s.covered.filter fun r => r.tagValid && !r.remote && (r.cls == 2 || r.cls == 3)).map fun r => r.context.toNat

/-- The rest of a context's teardown but for its statuses: what it holds is freed, and its state is that in which the
teardown ends (R411). -/
def State.settleTear (s : State) (ctx : Nat) (t : Teardown) : State :=
  (s.release ctx t).modCtx ctx fun x =>
    let y : Ctx := match t.cause with
      | .destroy | .flr => x.freed
      | _ => { x with state := .faulted, reason := t.reason }
    { y with tear := some { t with step := 4 } }

/-- Settle one context. -/
def State.settleCtx (s : State) (full : Bool) (named : List Nat) (c : Nat) : State :=
  let x := s.ctx c
  match x.tear with
  | some t =>
    if t.cause = .fault && named.contains c && t.record.any s.recov.covers.contains then s.setCtx c { x with state := .created, tear := none }
    else s.settleTear c t
  | none => if named.contains c && x.state != .free && !(full && x.state == .faulted) then s.setCtx c { x with state := .created } else s

def State.settleCtxs (s : State) (full : Bool) : State := (s.ctxs.map (·.1)).foldl (fun s c => s.settleCtx full s.namedCtxs c) s

/-- The LAUNCH that a record names by SEQ, RING and FUNCTION ends with FAULTED and the cause. -/
def State.endNamed (s : State) (r : FaultRec) : State :=
  if !(r.tagValid && !r.remote && (r.cls == 2 || r.cls == 3)) || r.seq == 0 then s
  else match s.cmds.find? fun c => c.launch.isSome && c.fn == r.function.toNat && c.ring == r.ring.toNat && c.seq == r.seq.toNat && c.ctx == r.context.toNat with
    | none => s
    | some c => s.finish c.id .faulted r.cause.toNat

/-- The statuses and the end of a teardown that the recovery finishes; one that a Function Level Reset has asked for
meanwhile runs now (R457). -/
def State.closeTear (s : State) (ctx : Nat) : State :=
  match (s.ctx ctx).tear with
  | none => s
  | some t =>
    let s := if t.step = 4 then s else s.settleTear ctx t
    (s.tearStatuses ctx t).tearEnd ctx t

/-- The final statuses of every command in hand (R386, R456). -/
def State.endCommands (s : State) : State :=
  let s := s.covered.foldl State.endNamed s
  let s := (s.ctxs.map (·.1)).foldl State.closeTear s
  let s := (s.cmds.filter fun c => c.op == 0x28 && c.started).foldl (fun s c => s.finish c.id .ok) s
  s.cmds.foldl (fun s c => s.cancel c.id) s

/-- The last step of a recovery: M5, entries that fall due now are late, beats count from here (R296, R449,
R481). -/
def State.endRecovery (s : State) (memLost : Bool) : State :=
  let s := s.extendM 5 (s.governing.bytes s.recov.record)
  let r := s.recov
  let s : State := { s with
    recov := { memLost := memLost, computeResets := r.computeResets, fullRecoveries := r.fullRecoveries }
    mw := { s.mw with lastBeat := s.tim.now } }
  s.markLate

end Sys2Proof.Machine
end

