-- ==== Sys2Proof/Machine/Recovery.lean ====
section
/-! DEFINITION. Midwinter, the compute-part reset, the full recovery and fault notices (R449 to R464). A recovery runs one
step of its table with each of its rows. -/

namespace Sys2Proof.Machine

/-! Midwinter (R449, R451). -/

/-- MIDWINTER_HANG (R449): 50 ms without a beat. -/
def execMidwinterHang (s : State) : Out :=
  .next (if !s.sup.on || s.hub.bootStatus != 0 || decide (s.now < s.mw.lastBeat.toNat + 5 * 10 ^ 7) then s else s.declareHang)

/-- FORCE_HANG (R451): a write of MW_CTRL. -/
def execForceHang (fn : Fin 16) (value : BitVec 32) (s : State) : Out :=
  .next (if s.hostWrites then s.writeMwCtrl fn value else s)

/-! The compute-part reset (R455). -/

/-- The rows of the core map that hold a core named in a covered record (R26). -/
def State.namedRows (s : State) : List Nat :=
  (s.covered.filter fun r => decide (r.core.toNat < 576)).map fun r => r.core.toNat / 12

/-- A site readmitted from admission step 6 (R271, R272, R278). -/
def State.readmit (s : State) (k : Nat) : State :=
  let x := s.site k
  if x.state != .admitted then s
  else if x.closing = 2 then s.setSite k { x with state := .disabled, reason := 7, closing := 0 }
  else
    let y := { x.load x.rules s.now with openMode := x.openMode && x.closing != 1, keepFenced := x.keepFenced || x.closing == 1, closing := 0 }
    (s.setSite k y).extendAdmission k

/-- Step 7: the map, the sites, the contexts. -/
def State.resettle (s : State) : State :=
  match s.hub.shortRow with
  | some r => ({ s with hub := s.hub.shortOf r } : State).settleCtxs false
  | none =>
    let s := if s.namedRows.isEmpty then s else ({ s with hub := s.hub.rebuild s.namedRows } : State).extendMap
    ((s.readmit 0).readmit 1).settleCtxs false

/-- One step of the table Compute-part reset, with what the retest of rows finds. -/
def State.computeStep (s : State) (k : Nat) (bist : List (Fin 48 × BitVec 13)) : State :=
  match k with
  | 1 => s.halt
  | 2 => s.fillCrash
  | 3 => s.flushAll
  | 4 => { s with cache := { s.cache with agents := tabDel (tabDel s.cache.agents 580) 581 } }
  | 5 =>
    match s.resetCompute.readCopy with
    | (some i, s) => if s.matchesBoot i then s else s.deviceFault 0x17 0 7
    | (none, s) => s.deviceFault 0x17 0 7
  | 6 => { s with hub := s.hub.tested s.namedRows bist }
  | 7 => s.resettle
  | _ =>
    let s := s.endCommands.endRecovery s.recov.memLost
    if s.hub.shortRow.isSome then s.outOfService else s

/-- COMPUTE_PART_RESET (R455): its first or its next step, unless a device fault has taken over (R458). -/
def execComputePartReset (bist : List (Fin 48 × BitVec 13)) (s : State) : Out :=
  let r := s.recov
  .next (if !s.sup.on || s.sup.partOff then s
    else if r.state = 0 && r.due == 2 then
      ({ s with recov := { r with state := 1, step := 1, due := 0, computeResets := BitVec.ofNat 8 (min 255 (r.computeResets.toNat + 1)) } } : State).computeStep 1 bist
    else if r.state = 1 && r.due != 3 then
      ({ s with recov := { r with step := r.step + 1 } } : State).computeStep (r.step.toNat + 1) bist
    else s)

/-- RESET_OVERRUN (R450): 250 ms after detection the reset has not ended. -/
def execResetOverrun (s : State) : Out :=
  .next (if s.recov.state = 1 && s.recov.due != 3 && decide (s.recov.detected + 25 * 10 ^ 7 ≤ s.now) then
      ({ s with mw := { s.mw with overrun := true } } : State).deviceFault 0x15 s.recov.step.toNat 7
    else s)

/-! The full recovery (R462 to R464). -/

/-- The step that a full recovery runs next: step 2 or 3 where it takes over a compute-part reset (R458), steps 2 and 3 not
at all without power (R462). -/
def State.fullNext (s : State) : Option Nat :=
  let r := s.recov
  let next (k : Nat) : Nat := if r.noPower && (k == 2 || k == 3) then 4 else k
  if r.state = 2 then some (next (r.step.toNat + 1))
  else if r.due ≠ 3 then none
  else if r.state = 0 then some 1
  else if r.state = 1 then some (next (if r.step.toNat < 2 then 2 else 3))
  else none

/-- A full recovery begins (R438, R450). -/
def State.beginFull (s : State) : State :=
  let r := s.recov
  { s with
    recov := { r with state := 2, due := 0, started := s.now, refreshed := false, fullRecoveries := BitVec.ofNat 8 (min 255 (r.fullRecoveries.toNat + 1)) }
    pwr := { s.pwr with therm := false } }

/-- Every channel enters self-refresh (R250). -/
def State.refreshAll (s : State) : State :=
  let s := s.moveChans 2 3
  { s with recov := { s.recov with refreshed := (List.range 256).all fun n => (s.chan n).state == 3 } }

/-- Memory contents are lost (R464): they are free; contexts and what they held are gone; the generation floor rises. -/
def State.loseMemory (s : State) (image : List Byte) : State :=
  let bytes := memWrN (memWrL [] (Config.lostMemory s.free)) imageCopy (padTo (imageLen image) image)
  let s : State := { s with
    free := s.free + 1
    mem := { s.mem with bytes := bytes, errs := [] }
    ctxs := s.ctxs.map fun p => (p.1, p.2.freed)
    cal := { s.cal with entries := s.cal.entries.filter fun p => decide (p.1 < 256) }
    fab := { s.fab with segs := s.fab.segs.filter (fun p => decide (p.1 < 16)), gens := [], floor := s.fab.floor + 2 ^ 24 }
    fns := s.fns.map fun p => (p.1, { p.2 with mapped := false, vaBase := 0, context := 0 }) }
  (Config.lostSymbols (s.free - 1)).foldl (fun s e => s.stand e.1 [(e.2.1 % 72, e.2.2)]) s

/-- One step of the table Full recovery. -/
def State.fullStep (s : State) (k : Nat) (x : RecoveryInputs) : State :=
  match k with
  | 1 => s.halt
  | 2 => s.fillCrash.flushAll
  | 3 => s.refreshAll
  | 4 =>
    let s := s.resetCompute.resetLinks.resetMemory
    if s.matchesBoot x.image then s
    else (({ s with sec := { s.sec with reason := 8 } } : State).secEvent 8 0 0).outOfService
  | 5 =>
    match s.buildMap x.map s.hub.sparing none with
    | .ok s => s
    | .error (s, code) => s.outOfService code
  | 6 =>
    let bad := x.train.channels.headD []
    let s : State := { s with mem := s.mem.attempt s.mem.running.toNat bad, links := s.links.train x.train.links, fab := s.fab.train x.train.ports }
    if bad.isEmpty && x.train.links.isEmpty then s else s.outOfService
  | 7 => s.trainSites
  | _ =>
    let lost := !s.recov.refreshed
    let s := if lost then s.loseMemory x.image else s.settleCtxs true
    s.endCommands.endRecovery lost

/-- FULL_RECOVERY (R462): its first or its next step, once there is power, and once the sensors read below 85 °C after a
thermal trip (R438). -/
def execFullRecovery (inputs : RecoveryInputs) (s : State) : Out :=
  .next (if !s.sup.on || s.sup.partOff || (s.pwr.therm && !inputs.cool) then s
    else match s.fullNext with
      | none => s
      | some k =>
        let s := if s.recov.state = 2 then s else s.beginFull
        ({ s with recov := { s.recov with step := BitVec.ofNat 4 k } } : State).fullStep k inputs)

/-- RECOVERY_OVERRUN (R450): 6 s after its start the recovery has not ended. -/
def execRecoveryOverrun (s : State) : Out :=
  .next (if s.recov.state = 2 && !s.sup.partOff && decide (s.recov.started + 6 * 10 ^ 9 ≤ s.now) then s.outOfService else s)

/-! Fault notices (R460). -/

/-- The schedule that a notice matches. -/
def State.noticed (s : State) (n : Line) : Option Nat :=
  [0, 1, 2, 3].find? fun g =>
    let x := s.sched g
    decide (2 ≤ x.state.toNat) && decide (x.state.toNat ≤ 4) && x.job.toNat == lineRd n 8 8 && byteAt x.digest 16 4 == lineRd n 0x10 4

/-- Contexts that own a stream of a schedule on this device. -/
def State.streamCtxs (s : State) (g : Nat) : List Nat :=
  ((s.sched g).streams.map (·.context)).foldl (fun l c => insertNat c l) []

/-- FAULT_NOTICE (R460): the 64 bytes written into a join area. -/
def execFaultNotice (notice : BitVec 512) (s : State) : Out :=
  .next (if !s.sup.on || s.shut || lineRd notice 0 1 != 0x10 || crc32 ((lineBytes notice).take 60) != lineRd notice 0x3C 4 then s
    else match s.noticed notice with
      | none => s
      | some g =>
        let x := s.sched g
        let s := match x.joining with
          | some j => s.cancel j.cmd
          | none => s
        let mine := s.streamCtxs g
        let s := (s.cmds.filter fun c => c.launch.isSome && mine.contains c.ctx).foldl (fun s c => s.cancel c.id) s
        let s := s.setSched g { s.sched g with state := 5 }
        (s.record { cls := 4, cause := BitVec.ofNat 8 (lineRd notice 2 1), status := BitVec.ofNat 8 Status.faulted.code, tagValid := true
                    context := BitVec.ofNat 8 x.joinCtx, partition := (s.ctx x.joinCtx).partition, srcDevice := BitVec.ofNat 16 (lineRd notice 4 2) }).2)

end Sys2Proof.Machine
end

