-- ==== Sys2Proof/Machine/Resources.lean ====
section
/-! DEFINITION. Commands of the host about segments (R316 to R320), partitions (R206, R207, R271, R383), partner sites (R274,
R384), attestation (R482, R483) and resets (R386). -/

namespace Sys2Proof.Machine

/-! Segments. -/

/-- A segment entry from the bytes of a packet (R316). -/
def segOf (b : Nat → Nat → Nat) : Seg :=
  { kind := b 0 1, sizeLog2 := b 1 1, rights := BitVec.ofNat 8 (b 2 1), context := b 3 1, partition := b 4 1 % 16, device := b 6 2
    offset := b 8 8, peer := b 0x10 4, count := b 0x14 4, generation := BitVec.ofNat 32 (b 0x18 4) }

/-- Does the range of a segment lie in the memory of its partition (R318, R390)? -/
def State.segOwned (s : State) (g : Seg) : Bool :=
  let p := s.part g.partition
  decide (p.memBase.toNat * gib ≤ g.offset) && decide (g.offset + 2 ^ g.sizeLog2 ≤ (p.memBase.toNat + p.memGib.toNat) * gib)

def segMapParams (s : State) (c : Cmd) : Chk :=
  let idx := c.f 0x0C 4
  let b (off n : Nat) : Nat := c.f (0x10 + off) n
  let g := segOf b
  let p := s.part g.partition
  let mine := (s.fab.segs.filter fun e => e.2.partition == g.partition && decide (16 ≤ e.1)).length
  s.inOrder c
    (chk (s.mayName c.fn g.context && s.partOfCtx g.context == some g.partition && decide (p.segFirst ≤ idx) && decide (idx < p.segFirst + p.segCount)
        && (g.kind != 2 || s.segOwned g)) .denied)
    (do
      par (decide (16 ≤ idx) && decide (idx < 2097152) && (tabGet? s.fab.segs idx).isNone) 0x0C
      par (g.kind == 1 || g.kind == 2) 0x10
      par (decide (21 ≤ g.sizeLog2) && decide (g.sizeLog2 ≤ 40)) 0x11
      par (decide (b 2 1 < 32)) 0x12
      par (decide (b 4 1 < 16)) 0x14
      par (b 5 1 == 0) 0x15
      par (if g.kind = 1 then decide (g.device < s.fab.size) && g.device != s.fab.device.toNat else decide (g.device + g.count ≤ s.fab.size)) 0x16
      par (g.offset % 2 ^ g.sizeLog2 == 0 && decide (g.offset + 2 ^ g.sizeLog2 ≤ 2 ^ 42)) 0x18
      par (if g.kind = 1 then decide (g.peer < 2 ^ 21) else g.peer == 0) 0x20
      par (if g.kind = 1 then g.count == 0 else decide (1 ≤ g.count) && decide (g.count ≤ 65536)) 0x24
      par (g.kind == 1 || g.generation == 0) 0x28
      par (b 0x1C 4 == 0) 0x2C)
    (chk (decide (mine < p.segCount)) .noResource)

/-- The GENERATION that an index last held (R319, R464). -/
def Fabric.lastGen (f : Fabric) (idx : Nat) : BitVec 32 := (tabGet? f.gens idx).getD f.floor

/-- SEG_MAP (R318, R319). -/
def execSegMap (fn : Fin 16) (ring : Fin 4) (index : BitVec 32) (s : State) : Out :=
  .next (s.startCmd fn ring index.toNat 0x18 segMapParams fun s c =>
    let idx := c.f 0x0C 4
    let g := segOf fun off n => c.f (0x10 + off) n
    if g.kind = 2 then
      let gen := s.fab.lastGen idx + 1
      let s : State := { s with fab := { s.fab with segs := tabSet s.fab.segs idx { g with generation := gen }, gens := tabSet s.fab.gens idx gen } }
      s.finish c.id .ok 0 gen.toNat
    else
      ({ s with fab := { s.fab with segs := tabSet s.fab.segs idx g } } : State).finish c.id .ok)

/-- Is a SEG_UNMAP taken up again that has freed its entry already? -/
def State.unmapping (s : State) (c : Cmd) : Option Nat := (s.fab.unmaps.find? fun u => u.2 == c.id).map (·.1)

def segUnmapParams (s : State) (c : Cmd) : Chk :=
  let g := tabGet ({} : Seg) s.fab.segs (c.f 0x0C 4)
  if (s.unmapping c).isSome then .ok ()
  else s.inOrder c (chk (g.kind == 0 || (g.context == c.ctx && decide (16 ≤ c.f 0x0C 4))) .denied) (par (g.kind != 0) 0x0C) (.ok ())

/-- SEG_UNMAP (R320): the entry is freed at once; the command is final once the requests checked against it are answered. -/
def execSegUnmap (fn : Fin 16) (ring : Fin 4) (index : BitVec 32) (s : State) : Out :=
  .next (s.startCmd fn ring index.toNat 0x19 segUnmapParams fun s c =>
    let idx := c.f 0x0C 4
    let s : State := if (s.unmapping c).isSome then s else
      { s with fab := { s.fab with segs := tabDel s.fab.segs idx, unmaps := s.fab.unmaps ++ [(idx, c.id)] } }
    if (s.fab.inbound.any fun i => hf i.hdr 0x10 4 % 2 ^ 21 == idx) || (s.fab.tracker.any fun o => o.imp == some idx) then s.wait c.id
    else
      ({ s with fab := { s.fab with unmaps := s.fab.unmaps.filter fun u => u.2 != c.id } } : State).finish c.id .ok)

/-! Partitions. -/

/-- Partitions other than one that are sealed. -/
def State.otherSealed (s : State) (p : Nat) : List Nat := (List.range 16).filter fun q => q != p && (s.llcPart q).sealed

/-- How many bits of the first n are set. -/
def bitsSet (n v : Nat) : Nat := ((List.range n).filter fun k => v.testBit k).length

def partParams (s : State) (c : Cmd) : Chk :=
  let p := c.f 0x0C 1
  let seal_ := (c.f 0x0D 1).testBit 0
  let ways := c.f 0x0E 2
  let cycles := c.f 0x10 2
  let windows := c.f 0x12 2
  let resv := c.f 0x14 1
  let share := c.f 0x15 1
  let watts := c.f 0x16 2
  let others := s.otherSealed p
  let sum (f : Nat → Nat) : Nat := others.foldl (fun a q => a + f q) 0
  let shares := (s.sol.sched.filter fun x => x.2.state != 0 && x.2.partition.toNat != p).foldl (fun a x => a + x.2.share) 0
  let free := (List.range 16).all fun q => q == p || (s.llcPart q).ways.toNat &&& ways == 0 || !(seal_ || (s.llcPart q).sealed)
  let apart (f : LlcPart → Nat) (v : Nat) : Bool := others.all fun q => f (s.llcPart q) &&& v == 0
  let count (f : LlcPart → Nat) (v : Nat) : Bool := decide (sum (fun q => bitsSet 16 (f (s.llcPart q))) + bitsSet 16 v ≤ 12)
  let zeroOrNot (v off : Nat) (must : Bool) : Chk := par (if seal_ then !must || v != 0 else v == 0) off
  s.inOrder c (.ok ())
    (do
      par (decide (p < 16)) 0x0C
      par (decide (c.f 0x0D 1 < 2)) 0x0D
      par (ways != 0 && decide (ways < 4096)) 0x0E
      zeroOrNot cycles 0x10 true
      zeroOrNot windows 0x12 true
      par (decide (resv ≤ 6)) 0x14
      zeroOrNot resv 0x14 false
      par (decide (share ≤ 16)) 0x15
      zeroOrNot share 0x15 false
      zeroOrNot watts 0x16 true)
    (chk (free && apart (·.cycles.toNat) cycles && count (·.cycles.toNat) cycles && apart (·.windows.toNat) windows && count (·.windows.toNat) windows
        && decide (sum (fun q => 4 * (s.llcPart q).missResv.toNat) + 4 * resv ≤ 64) && decide (shares ≤ 16 - share)
        && decide (1000 * (sum (fun q => (s.part q).powerW) + watts) + s.partnerReserve ≤ 3000000)) .noResource)

/-- The move of the open sites to fenced mode (R271): is it complete? -/
def State.fenceSites (s : State) : Bool × State :=
  [0, 1].foldl (fun (acc : Bool × State) k =>
    let s := acc.2
    let x := s.site k
    if !(x.state == .admitted && x.openMode) then acc
    else
      let s := s.setSite k { x with closing := 1 }
      match s.recallAgent (580 + k) with
      | (true, s) => (false, s)
      | (false, s) => (acc.1, s.setSite k { s.site k with openMode := false, closing := 0, keepFenced := true })) (true, s)

/-- Write back and invalidate a way in a flush of R207; copies of its line are first taken back. The answer says whether it
is done. -/
def State.purgeWay (s : State) (n k : Nat) : Bool × State :=
  let sl := s.slice n
  let w := sl.way k
  if w.st = .filling || (w.present && (sl.entry? w.line).isSome) then (false, s)
  else if w.st = .dead || w.marked then (true, s.setSlice n (sl.setWay k {}))
  else if !w.present then (true, s)
  else
    let owed := evictSnoops w .evict
    if owed.isEmpty then (true, s.writeBack n k) else (false, s.startTxn n w.line k { why := .evict, owed := owed, req := { line := w.line } } false [])

/-- The flush of the affected ways in every slice (R207, R209): is it complete? Accesses are held until it is. -/
def State.purge (s : State) (ways : Nat) : Bool × State :=
  let r := s.cache.slices.foldl (fun (acc : Bool × State) p =>
    let acc := (p.2.ways.filter fun w => ways.testBit (w.1 % 12)).foldl (fun (acc : Bool × State) w =>
      let (ok, s) := acc.2.purgeWay p.1 w.1
      (acc.1 && ok, s)) acc
    (acc.1, acc.2.drainForwarded p.1)) (true, s)
  (r.1, { r.2 with cache := { r.2.cache with slices := r.2.cache.slices.map fun p => (p.1, { p.2 with flushing := !r.1 }) } })

/-- The ways that a PART_CONFIG affects (R207): those that leave the mask, those that join a sealed one. -/
def affectedWays (old new : LlcPart) : Nat :=
  let o := old.ways.toNat
  let n := new.ways.toNat
  (o &&& (4095 - n)) ||| (if new.sealed then (if old.sealed then n &&& (4095 - o) else n) else 0)

/-- PART_CONFIG (R383). -/
def execPartConfig (fn : Fin 16) (ring : Fin 4) (index : BitVec 32) (s : State) : Out :=
  .next (s.startCmd fn ring index.toNat 0x20 partParams fun s c =>
    let p := c.f 0x0C 1
    let seal_ := (c.f 0x0D 1).testBit 0
    let old := s.llcPart p
    let new : LlcPart :=
      { sealed := seal_, missResv := BitVec.ofNat 3 (c.f 0x14 1), ways := BitVec.ofNat 12 (c.f 0x0E 2)
        cycles := BitVec.ofNat 16 (c.f 0x10 2), windows := BitVec.ofNat 16 (c.f 0x12 2) }
    match if seal_ then s.fenceSites else (true, s) with
    | (false, s) => s.wait c.id
    | (true, s) =>
      match s.purge (affectedWays old new) with
      | (false, s) => s.wait c.id
      | (true, s) =>
        let s : State := { s with cache := { s.cache with parts := tabSet s.cache.parts p new } }
        let s := s.setPart p { s.part p with sealed := seal_, solShare := c.f 0x15 1, powerW := c.f 0x16 2 }
        let frozen := if seal_ && !old.sealed then [0, 1, 2, 3].foldl (fun t d => tabSet t (8 * p + d) (tabGet 0x8000 s.pwr.ratios d)) s.pwr.frozen else s.pwr.frozen
        let s : State := { s with pwr := { s.pwr with frozen := frozen } }
        (s.extendP p (leBytes 12 (c.f 0x0C 12))).finish c.id .ok)

/-! Partner sites. -/

def fwParams (s : State) (c : Cmd) : Chk :=
  s.inOrder c (.ok ())
    (do
      par (decide (c.f 0x0C 1 ≤ 1)) 0x0C
      par (decide (c.f 0x0D 1 ≤ 1)) 0x0D
      par (decide (c.f 0x0E 1 ≤ 63)) 0x0E
      par (decide (c.f 0x0F 1 ≤ 64) && decide (c.f 0x0E 1 + c.f 0x0F 1 ≤ 64)) 0x0F)
    (.ok ())

/-- FW_RULES (R274): rules FIRST onward; with KINDS bit 0 clear, the bytes are those that host memory returns. -/
def execFwRules (fn : Fin 16) (ring : Fin 4) (index : BitVec 32) (host : List (BitVec 8)) (s : State) : Out :=
  .next (s.startCmd fn ring index.toNat 0x21 fwParams fun s c =>
    let k := c.f 0x0C 1
    let first := c.f 0x0E 1
    let n := c.f 0x0F 1
    let got := if c.f 0x0D 1 = 1 then s.vread (s.hdVia c.ctx) (c.f 0x10 8) (32 * n) else (.ok (padTo (32 * n) host), s)
    match got with
    | (.error x, s) => s.cmdStop c.id x
    | (.ok bs, s) =>
      let x := s.site k
      let rules := (List.range n).foldl (fun t i => tabSet t (first + i) (BitVec.ofNat 256 (byteAt bs (32 * i) 32))) x.rules
      if !rulesOk rules then s.finish c.id .badParam inStructure
      else
        let y := { x.load rules s.now with fwRun := true }
        (s.setSite k y).finish c.id .ok 0 y.validRules)

def siteResetParams (s : State) (c : Cmd) : Chk :=
  let x := s.site (c.f 0x0C 1)
  s.inOrder c (.ok ())
    (par (decide (c.f 0x0C 1 ≤ 1) && (x.resetBy == c.id || ((x.state == .empty || x.state == .disabled || x.state == .quiesced)
      && s.siteCfg (c.f 0x0C 1) 0x101 1 != 0))) 0x0C) (.ok ())

/-- SITE_RESET (R384): the site is in training until PARTNER_ADMISSION; then the command is final. -/
def execSiteReset (fn : Fin 16) (ring : Fin 4) (index : BitVec 32) (s : State) : Out :=
  .next (s.startCmd fn ring index.toNat 0x22 siteResetParams fun s c =>
    let k := c.f 0x0C 1
    let x := s.site k
    if x.resetBy = c.id then
      if x.state = .training then s.wait c.id
      else (s.setSite k { x with resetBy := 0 }).finish c.id .ok 0 x.word
    else
      let s := s.setSite k { x with outbound := [], held := [], closing := 0, state := .training, reason := 0, rate := 0, modules := 0, powerW := 0, resetBy := c.id }
      let s := (x.outbound.foldl State.expireOut s).setLink (8 + k) { state := 1 }
      s.wait c.id)

/-! Attestation. -/

/-- x^e mod n over the k low bits of e, most significant first. -/
def powMod (n x e : Nat) : Nat → Nat
  | 0 => 1
  | k + 1 =>
    let r := powMod n x (e / 2) k
    let q := r * r % n
    if e % 2 = 1 then q * x % n else q

/-- A signature under the identity key (R470): the key is held as the modulus and the private exponent, 384 bytes each,
most significant byte first. -/
def rsaSign (key msg : List Byte) : List Byte :=
  let n := beVal (key.take 384)
  let d := beVal ((key.drop 384).take 384)
  (leBytes 384 (powMod n (beVal (pkcsEncode msg)) d 3072)).reverse

/-- The certificate in SEC_CERT: its DER length, where it names one in two bytes, bounds it. -/
def State.certBytes (s : State) : List Byte :=
  let b := memRdN s.sec.cert 0 4096
  if byteAt b 1 1 = 0x82 then b.take (4 + 256 * byteAt b 2 1 + byteAt b 3 1) else b

/-- The report of R482 but for its signature. -/
def State.report (s : State) (c : Cmd) : List Byte :=
  let p := (s.ctx c.ctx).partition.toNat
  let flags := b2n s.tim.todValid + 2 * b2n (s.llcPart p).sealed + 4 * b2n s.partnerOpen + 8 * s.sec.debugMode.toNat + 32 * b2n s.recov.memLost + 64 * b2n s.sec.certOk
  leBytes 4 1 ++ leBytes 4 768 ++ [0xA4, s.hub.feature] ++ leBytes 2 flags ++ [BitVec.ofNat 8 c.ctx, BitVec.ofNat 8 p, BitVec.ofNat 8 c.fn, 0]
    ++ leBytes 16 (c.f 0x10 16) ++ leBytes 8 s.now ++ (List.range 4).flatMap (fun k => leBytes 4 (tabGet 0 s.sec.counters k).toNat)
    ++ leBytes 4 s.sec.fwVersion.toNat ++ leBytes 4 s.log.next.toNat ++ (List.range 5).flatMap (fun k => leBytes 8 (zGet s.hub.dieSerials k))
    ++ List.replicate 24 0 ++ (List.range 6).flatMap (fun k => leBytes 32 (tabGet 0 s.sec.meas k).toNat)
    ++ leBytes 32 (tabGet 0 s.sec.pmeas p).toNat ++ sha256 s.certBytes

def attestParams (s : State) (c : Cmd) : Chk :=
  let held := (s.cmds.filter fun d => d.op == 0x05 && d.started && d.id != c.id && !d.status.final).length
  s.inOrder c (.ok ())
    (do
      par (decide (c.f 0x0C 1 ≤ 1)) 0x0C
      c.zero 0x0D 0x10
      par (decide (768 ≤ c.f 0x28 4)) 0x28)
    (chk (decide (held < 4)) .noResource)

/-- ATTEST (R482, R483). -/
def execAttest (fn : Fin 16) (ring : Fin 4) (index : BitVec 32) (s : State) : Out :=
  .next (s.startCmd fn ring index.toNat 0x05 attestParams fun s c =>
    let body := padTo 384 (s.report c)
    match s.resultTo c (c.f 0x0C 1) (c.f 0x20 8) (body ++ rsaSign s.sec.key body) with
    | (.error x, s) => s.cmdStop c.id x
    | (.ok _, s) => (s.secEvent 7 fn c.ctx).finish c.id .ok 0 768)

/-! Resets. -/

def resetParams (s : State) (c : Cmd) : Chk := s.inOrder c (.ok ()) (par (decide (c.f 0x0C 1 ≤ 1)) 0x0C) (.ok ())

/-- RESET (R386, R446, R448): the recovery becomes due; the command is final when it ends. -/
def execReset (fn : Fin 16) (ring : Fin 4) (index : BitVec 32) (s : State) : Out :=
  .next (s.startCmd fn ring index.toNat 0x28 resetParams fun s c =>
    let kind := c.f 0x0C 1
    let part := (s.partOfCtx c.ctx).getD (s.ctx c.ctx).partition.toNat
    let r : FaultRec := { FaultRec.untagged s (if kind = 0 then 0x08 else 0x16) 0 with
      tagValid := true, context := BitVec.ofNat 8 c.ctx, partition := BitVec.ofNat 4 part }
    s.arise (if kind = 0 then 2 else 3) (r.ofCmd (some c)))

end Sys2Proof.Machine
end

