-- ==== Sys2Proof/Machine/Supplies.lean ====
section
/-! DEFINITION. Supplies, pins and the sideband (R487 to R501). Voltages are in units of 50 mV, as PWR_SUPPLY gives them. -/

namespace Sys2Proof.Machine

/-! Supplies. -/

def State.modSup (s : State) (f : Supplies → Supplies) : State := { s with sup := f s.sup }

def satByte (b : BitVec 8) : BitVec 8 := if b = 0xFF then b else b + 1

/-- The operating range, 11.4 V to 12.6 V. -/
def inRange (v : BitVec 8) : Bool := decide (228 ≤ v.toNat) && decide (v.toNat ≤ 252)

/-- The always-on domain has lost power (R490): the device is as before power-on; the pins, and what the host has been sent,
stand. -/
def State.powerLost (s : State) : State :=
  { State.reset with
    pending := s.pending, free := s.free, host := { s.host with linkUp := false }
    sup := { mainOk := s.sup.mainOk, auxOk := s.sup.auxOk, pwrOk := s.sup.pwrOk, resetN := s.sup.resetN, refclkOk := s.sup.refclkOk
             vinMain := s.sup.vinMain, vinAux := s.sup.vinAux } }

/-- What the always-on domain draws from after a change of a supply (R488, R490): below 10.8 V it goes over to VIN_AUX; at or
above 11.2 V it is back on VIN_MAIN; with neither it loses power. -/
def State.feed (s : State) : State :=
  let u := s.sup
  if 224 ≤ u.vinMain.toNat then s.modSup fun u => { u with onAux := false }
  else if u.onAux then (if u.auxOk then s else s.powerLost)
  else if 216 ≤ u.vinMain.toNat then s
  else if u.auxOk then s.modSup fun u => { u with onAux := true, switchovers := if u.on then satByte u.switchovers else u.switchovers }
  else s.powerLost

/-- PWR_OK is high while VIN_MAIN is out of range: since when (R492). -/
def State.watchPwrOk (s : State) : State :=
  s.modSup fun u => { u with badSince := if u.on && u.pwrOk && !u.mainOk then some (u.badSince.getD s.now) else none }

/-- A measured level of VIN_MAIN. -/
def State.setMain (s : State) (v : BitVec 8) : State := s.modSup fun u => { u with vinMain := v, mainOk := inRange v }

/-- Power is back at the compute part once PWR_OK is high and VIN_MAIN in its range (R489, R492, R494). -/
def State.powerBack (s : State) : State :=
  if s.sup.partOff && s.sup.pwrOk && s.sup.mainOk then
    let s := s.modSup fun u => { u with partOff := false }
    { s with recov := { s.recov with started := s.now } }
  else s

/-- Power leaves the compute dies, the links and the memory controllers, and without VIN_MAIN the memory too. -/
def State.powerOff (s : State) (memory : Bool) : State :=
  let s : State := { s with
    links := { s.links with links := [] }
    fab := { s.fab with ports := s.fab.ports.map fun p => (p.1, { p.2 with state := 4 }) }
    recov := { s.recov with noPower := true, refreshed := s.recov.refreshed && memory }
    cores := s.cores.map fun p => (p.1, { p.2 with stopped := true }) }
  s.modSup fun u => { u with partOff := true }

/-- VIN_MAIN_SAG (R488): the level after its filter. -/
def execVinMainSag (level : BitVec 8) (s : State) : Out := .next (s.setMain level).feed.watchPwrOk

/-- VIN_MAIN_RETURN (R488, R489, R494): the level has stood for 10 ms. -/
def execVinMainReturn (level : BitVec 8) (s : State) : Out := .next (s.setMain level).feed.powerBack.watchPwrOk

/-- VIN_MAIN_LOSS (R489, R492, R494): below 10.0 V for 2 µs. In boot, boot stops; within a power-down, memory is lost with
it. -/
def execVinMainLoss (level : BitVec 8) (s : State) : Out :=
  .next (if 200 ≤ level.toNat then s
    else
      let s := (s.setMain level).feed.watchPwrOk
      if !s.sup.on then s
      else if s.sup.partOff then { s with recov := { s.recov with refreshed := false } }
      else if s.hub.bootStatus = 1 then s.modSup fun u => { u with partOff := true }
      else (s.powerOff false).deviceFault 0x14 0 7)

/-- VIN_AUX_CHANGE (R490, R497): the level after its filter of 10 µs. -/
def execVinAuxChange (level : BitVec 8) (s : State) : Out :=
  .next (s.modSup fun u => { u with vinAux := level, auxOk := inRange level }).feed

/-! PWR_OK. -/

/-- The power-down of R493, whose steps stand in for steps 1 to 3 of a full recovery. -/
def State.powerDown (s : State) : State :=
  let r := s.recov
  let s : State := { s with recov := { r with
    state := 2, step := 1, due := 0, started := s.now, refreshed := false, powerDown := true
    fullRecoveries := BitVec.ofNat 8 (min 255 (r.fullRecoveries.toNat + 1)) } }
  let s := s.halt.flushAll.moveChans 2 3
  let s : State := { s with recov := { s.recov with step := 3, refreshed := (List.range 256).all fun n => (s.chan n).state == 3 } }
  s.powerOff true

/-- PWR_OK_FALL (R493, R497): low for some ns. Levels of less than 1 µs are ignored and counted. -/
def execPwrOkFall (held : Nat) (s : State) : Out :=
  .next (if !s.sup.pwrOk then s
    else if held < 1000 then s.modSup fun u => { u with glitches := satByte u.glitches }
    else
      let s := (s.modSup fun u => { u with pwrOk := false }).watchPwrOk
      if !s.sup.on || s.hub.bootStatus == 1 || s.sup.partOff then s
      else if s.serving then (s.deviceFault 0x14 0 7).powerDown
      else s.deviceFault 0x14 0 7)

/-- PWR_OK_RISE (R494). -/
def execPwrOkRise (s : State) : Out := .next (s.modSup fun u => { u with pwrOk := true }).powerBack.watchPwrOk

/-! RESET_N and PCIE_REFCLK. -/

/-- Is the endpoint free to train its link? Its training time is left out. -/
def State.retrain (s : State) : State := { s with host := { s.host with linkUp := s.sup.on && s.sup.resetN && s.sup.refclkOk } }

/-- RESET_N_LOW (R495): low for some ns. At power-up it holds the device in reset; in service at least 100 µs reset the
endpoint and every function. -/
def execResetNLow (held : Nat) (s : State) : Out :=
  .next (if !s.sup.resetN then s
    else if !s.sup.on then s.modSup fun u => { u with resetN := false }
    else if held < 100000 then s.modSup fun u => { u with resetPulses := satByte u.resetPulses }
    else (List.range 16).foldl State.resetFn (s.modSup fun u => { u with resetN := false }).retrain)

/-- RESET_N_RISE (R491, R495). -/
def execResetNRise (s : State) : Out := .next (s.modSup fun u => { u with resetN := true }).retrain

/-- REFCLK_LOSS (R497): no edge for 10 µs. -/
def execRefclkLoss (s : State) : Out := .next (s.modSup fun u => { u with refclkOk := false }).retrain

/-- REFCLK_RETURN (R497). -/
def execRefclkReturn (s : State) : Out := .next (s.modSup fun u => { u with refclkOk := true }).retrain

/-! The sideband (R500). -/

/-- Does an address name the device: its dynamic one, or the static one? -/
def Supplies.answers (u : Supplies) (address : BitVec 7) : Bool := u.on && (address == 0x4C || u.i3cAddr == some address)

/-- The registers that answer: HUB_DEVICE_INFO, HUB_RECOVERY_STATUS, the PWR_ registers, TIM_STATUS. -/
def sidebandReg (off : Nat) : Bool :=
  off % 4 == 0 && (off == 0 || off == 0x640000 || (decide (0x620000 ≤ off) && decide (off < 0x6200C8)) || off == 0x560000)

/-- ENTDAA: the device takes the dynamic address given, if it has none. -/
def execEntdaa (address : BitVec 7) (s : State) : Out :=
  .next (if s.sup.on && s.sup.i3cAddr.isNone then s.modSup fun u => { u with i3cAddr := some address } else s)

/-- I3C_PRIVATE_WRITE: a 3-byte BAR0 offset. -/
def execI3cPrivateWrite (address : BitVec 7) (offset : BitVec 24) (s : State) : Out :=
  .next (if s.sup.answers address then s.modSup fun u => { u with i3cSelect := offset } else s)

/-- I3C_PRIVATE_READ: the four bytes stand in i3cData. -/
def execI3cPrivateRead (address : BitVec 7) (s : State) : Out :=
  let off := s.sup.i3cSelect.toNat
  .next (if s.sup.answers address then
      s.modSup fun u => { u with i3cData := if sidebandReg off then BitVec.ofNat 32 (s.reg32 0 off) else 0 }
    else s)

/-- I3C_SCL_TIMEOUT (R497): the target interface is reset. -/
def execI3cSclTimeout (s : State) : Out := .next (s.modSup fun u => { u with i3cAddr := none, i3cSelect := 0 })

end Sys2Proof.Machine
end

