-- ==== Sys2Proof/Machine/Dispatch.lean ====
section
/-! DEFINITION. One arm for each command. -/

namespace Sys2Proof.Machine

def exec (i : Instr) (s : State) : Host.Outcome State Fault Refusal :=
  match i with
  | .nop core q => Sys2Proof.Machine.execNop core q s
  | .endQueue core q => Sys2Proof.Machine.execEndQueue core q s
  | .signal core q => Sys2Proof.Machine.execSignal core q s
  | .signalPerform core qs => Sys2Proof.Machine.execSignalPerform core qs s
  | .wait core q => Sys2Proof.Machine.execWait core q s
  | .waitmem core q => Sys2Proof.Machine.execWaitmem core q s
  | .waitmemNotice core q => Sys2Proof.Machine.execWaitmemNotice core q s
  | .waitTimeout core q => Sys2Proof.Machine.execWaitTimeout core q s
  | .queueDeadlock core => Sys2Proof.Machine.execQueueDeadlock core s
  | .fence core q => Sys2Proof.Machine.execFence core q s
  | .loop core q => Sys2Proof.Machine.execLoop core q s
  | .granuleFetch core q => Sys2Proof.Machine.execGranuleFetch core q s
  | .issue core cpe => Sys2Proof.Machine.execIssue core cpe s
  | .descriptorStart core cpe => Sys2Proof.Machine.execDescriptorStart core cpe s
  | .descriptorComplete core cpe index => Sys2Proof.Machine.execDescriptorComplete core cpe index s
  | .coreStart core => Sys2Proof.Machine.execCoreStart core s
  | .coreEnd core => Sys2Proof.Machine.execCoreEnd core s
  | .ldb core => Sys2Proof.Machine.execLdb core s
  | .mma core => Sys2Proof.Machine.execMma core s
  | .accmode core => Sys2Proof.Machine.execAccmode core s
  | .acczero core => Sys2Proof.Machine.execAcczero core s
  | .accst core => Sys2Proof.Machine.execAccst core s
  | .accld core => Sys2Proof.Machine.execAccld core s
  | .ststat core => Sys2Proof.Machine.execStstat core s
  | .setlen core => Sys2Proof.Machine.execSetlen core s
  | .vxeLd core => Sys2Proof.Machine.execVxeLd core s
  | .vxeSt core => Sys2Proof.Machine.execVxeSt core s
  | .stslab core => Sys2Proof.Machine.execStslab core s
  | .alu core => Sys2Proof.Machine.execAlu core s
  | .fma core => Sys2Proof.Machine.execFma core s
  | .vxeSel core => Sys2Proof.Machine.execVxeSel core s
  | .vxeFunc core => Sys2Proof.Machine.execVxeFunc core s
  | .vxeCvt core => Sys2Proof.Machine.execVxeCvt core s
  | .red core => Sys2Proof.Machine.execRed core s
  | .vstat core => Sys2Proof.Machine.execVstat core s
  | .tstart core => Sys2Proof.Machine.execTstart core s
  | .tstartGroupsStart core => Sys2Proof.Machine.execTstartGroupsStart core s
  | .tstartComplete core index => Sys2Proof.Machine.execTstartComplete core index s
  | .threadNop core slot => Sys2Proof.Machine.execThreadNop core slot s
  | .exit core slot => Sys2Proof.Machine.execExit core slot s
  | .brnz core slot => Sys2Proof.Machine.execBrnz core slot s
  | .brz core slot => Sys2Proof.Machine.execBrz core slot s
  | .pathRotation core slot => Sys2Proof.Machine.execPathRotation core slot s
  | .add core slot => Sys2Proof.Machine.execAdd core slot s
  | .sub core slot => Sys2Proof.Machine.execSub core slot s
  | .mul core slot => Sys2Proof.Machine.execMul core slot s
  | .mulhi core slot => Sys2Proof.Machine.execMulhi core slot s
  | .and core slot => Sys2Proof.Machine.execAnd core slot s
  | .or core slot => Sys2Proof.Machine.execOr core slot s
  | .xor core slot => Sys2Proof.Machine.execXor core slot s
  | .shl core slot => Sys2Proof.Machine.execShl core slot s
  | .shr core slot => Sys2Proof.Machine.execShr core slot s
  | .sra core slot => Sys2Proof.Machine.execSra core slot s
  | .slt core slot => Sys2Proof.Machine.execSlt core slot s
  | .sltu core slot => Sys2Proof.Machine.execSltu core slot s
  | .add64 core slot => Sys2Proof.Machine.execAdd64 core slot s
  | .addi core slot => Sys2Proof.Machine.execAddi core slot s
  | .movi core slot => Sys2Proof.Machine.execMovi core slot s
  | .threadSel core slot => Sys2Proof.Machine.execThreadSel core slot s
  | .fadd core slot => Sys2Proof.Machine.execFadd core slot s
  | .fsub core slot => Sys2Proof.Machine.execFsub core slot s
  | .fmul core slot => Sys2Proof.Machine.execFmul core slot s
  | .ffma core slot => Sys2Proof.Machine.execFfma core slot s
  | .fmin core slot => Sys2Proof.Machine.execFmin core slot s
  | .fmax core slot => Sys2Proof.Machine.execFmax core slot s
  | .fslt core slot => Sys2Proof.Machine.execFslt core slot s
  | .fseq core slot => Sys2Proof.Machine.execFseq core slot s
  | .threadCvt core slot => Sys2Proof.Machine.execThreadCvt core slot s
  | .threadFunc core slot => Sys2Proof.Machine.execThreadFunc core slot s
  | .threadLd core slot => Sys2Proof.Machine.execThreadLd core slot s
  | .threadSt core slot => Sys2Proof.Machine.execThreadSt core slot s
  | .aadd core slot => Sys2Proof.Machine.execAadd core slot s
  | .amin core slot => Sys2Proof.Machine.execAmin core slot s
  | .amax core slot => Sys2Proof.Machine.execAmax core slot s
  | .aexch core slot => Sys2Proof.Machine.execAexch core slot s
  | .acas core slot => Sys2Proof.Machine.execAcas core slot s
  | .afadd core slot => Sys2Proof.Machine.execAfadd core slot s
  | .threadFence core slot => Sys2Proof.Machine.execThreadFence core slot s
  | .vote core slot => Sys2Proof.Machine.execVote core slot s
  | .shfl core slot => Sys2Proof.Machine.execShfl core slot s
  | .bar core slot => Sys2Proof.Machine.execBar core slot s
  | .barRelease core index => Sys2Proof.Machine.execBarRelease core index s
  | .grpmul core slot => Sys2Proof.Machine.execGrpmul core slot s
  | .storeBufferDrain core index => Sys2Proof.Machine.execStoreBufferDrain core index s
  | .invalidationApply core => Sys2Proof.Machine.execInvalidationApply core s
  | .rdOnce requester line off len ctx part device lastUse => Sys2Proof.Machine.execRdOnce requester line off len ctx part device lastUse s
  | .rdShared requester line ctx part device lastUse => Sys2Proof.Machine.execRdShared requester line ctx part device lastUse s
  | .rdUnique requester line ctx part device => Sys2Proof.Machine.execRdUnique requester line ctx part device s
  | .upgrade requester line ctx part device => Sys2Proof.Machine.execUpgrade requester line ctx part device s
  | .wrThrough requester line ctx part device lastUse => Sys2Proof.Machine.execWrThrough requester line ctx part device lastUse s
  | .wrInv requester line ctx part device => Sys2Proof.Machine.execWrInv requester line ctx part device s
  | .atomic requester line op off len operand compare ctx part device lastUse => Sys2Proof.Machine.execAtomic requester line op off len operand compare ctx part device lastUse s
  | .wrBack agent line => Sys2Proof.Machine.execWrBack agent line s
  | .evict agent line => Sys2Proof.Machine.execEvict agent line s
  | .snpInv agent line => Sys2Proof.Machine.execSnpInv agent line s
  | .snpShare agent line => Sys2Proof.Machine.execSnpShare agent line s
  | .snpRecall agent line => Sys2Proof.Machine.execSnpRecall agent line s
  | .comp id => Sys2Proof.Machine.execComp id s
  | .invDone id => Sys2Proof.Machine.execInvDone id s
  | .retry slice requester => Sys2Proof.Machine.execRetry slice requester s
  | .credit slice => Sys2Proof.Machine.execCredit slice s
  | .invAck agent line => Sys2Proof.Machine.execInvAck agent line s
  | .snpAck agent line => Sys2Proof.Machine.execSnpAck agent line s
  | .snpAckWb agent line => Sys2Proof.Machine.execSnpAckWb agent line s
  | .fault requester line => Sys2Proof.Machine.execFault requester line s
  | .dataS requester line => Sys2Proof.Machine.execDataS requester line s
  | .dataE agent line => Sys2Proof.Machine.execDataE agent line s
  | .snpData agent line data => Sys2Proof.Machine.execSnpData agent line data s
  | .wrData requester line data mask => Sys2Proof.Machine.execWrData requester line data mask s
  | .rdData requester line data => Sys2Proof.Machine.execRdData requester line data s
  | .holdEnd agent line => Sys2Proof.Machine.execHoldEnd agent line s
  | .fillLanded line first second => Sys2Proof.Machine.execFillLanded line first second s
  | .pinRelease line => Sys2Proof.Machine.execPinRelease line s
  | .memoryControllerReduction line => Sys2Proof.Machine.execMemoryControllerReduction line s
  | .snoopTimeout agent line => Sys2Proof.Machine.execSnoopTimeout agent line s
  | .dataTimeout requester line => Sys2Proof.Machine.execDataTimeout requester line s
  | .creditTimeout slice requester => Sys2Proof.Machine.execCreditTimeout slice requester s
  | .patrolScrub chan first second => Sys2Proof.Machine.execPatrolScrub chan first second s
  | .refreshReport chan report => Sys2Proof.Machine.execRefreshReport chan report s
  | .dqsTracking chan drift => Sys2Proof.Machine.execDqsTracking chan drift s
  | .selfRefreshEntry => Sys2Proof.Machine.execSelfRefreshEntry s
  | .selfRefreshExit => Sys2Proof.Machine.execSelfRefreshExit s
  | .dieLinkFlitReceive link dir flit => Sys2Proof.Machine.execDieLinkFlitReceive link dir flit s
  | .dieLinkNak link dir ack => Sys2Proof.Machine.execDieLinkNak link dir ack s
  | .dieLinkPersistentFault link dir failed first => Sys2Proof.Machine.execDieLinkPersistentFault link dir failed first s
  | .d2dInject fn value => Sys2Proof.Machine.execD2dInject fn value s
  | .partnerAdmission site training record => Sys2Proof.Machine.execPartnerAdmission site training record s
  | .partnerInboundRequest site op aop addr len data compare => Sys2Proof.Machine.execPartnerInboundRequest site op aop addr len data compare s
  | .firewallBucketPass site => Sys2Proof.Machine.execFirewallBucketPass site s
  | .partnerTimeout site => Sys2Proof.Machine.execPartnerTimeout site s
  | .partnerLinkFailure site => Sys2Proof.Machine.execPartnerLinkFailure site s
  | .sourceReject input cause measured => Sys2Proof.Machine.execSourceReject input cause measured s
  | .sourceRequalify input => Sys2Proof.Machine.execSourceRequalify input s
  | .timeLock offset rate => Sys2Proof.Machine.execTimeLock offset rate s
  | .refPpsPulse => Sys2Proof.Machine.execRefPpsPulse s
  | .refFrameEdge => Sys2Proof.Machine.execRefFrameEdge s
  | .synthesisedFrameEdge => Sys2Proof.Machine.execSynthesisedFrameEdge s
  | .sync port received => Sys2Proof.Machine.execSync port received s
  | .followUp port received origin => Sys2Proof.Machine.execFollowUp port received origin s
  | .pdelayReq port received => Sys2Proof.Machine.execPdelayReq port received s
  | .pdelayResp port t2 t3 => Sys2Proof.Machine.execPdelayResp port t2 t3 s
  | .epoch entry => Sys2Proof.Machine.execEpoch entry s
  | .phaseFire entry => Sys2Proof.Machine.execPhaseFire entry s
  | .deadline entry => Sys2Proof.Machine.execDeadline entry s
  | .lowPower entry => Sys2Proof.Machine.execLowPower entry s
  | .telemetry entry => Sys2Proof.Machine.execTelemetry entry s
  | .heartbeat entry => Sys2Proof.Machine.execHeartbeat entry s
  | .wake entry => Sys2Proof.Machine.execWake entry s
  | .idleEntry => Sys2Proof.Machine.execIdleEntry s
  | .wakeStart => Sys2Proof.Machine.execWakeStart s
  | .fabricFlitReceive port flit corrected => Sys2Proof.Machine.execFabricFlitReceive port flit corrected s
  | .fabricNak port ack => Sys2Proof.Machine.execFabricNak port ack s
  | .fabricPortPersistentFault port lanes => Sys2Proof.Machine.execFabricPortPersistentFault port lanes s
  | .laneLockLoss link => Sys2Proof.Machine.execLaneLockLoss link s
  | .forward port header data => Sys2Proof.Machine.execForward port header data s
  | .read port header data => Sys2Proof.Machine.execRead port header data s
  | .write port header data => Sys2Proof.Machine.execWrite port header data s
  | .remoteAtomic port header data => Sys2Proof.Machine.execRemoteAtomic port header data s
  | .reduce port header data => Sys2Proof.Machine.execReduce port header data s
  | .counterAdd port header data => Sys2Proof.Machine.execCounterAdd port header data s
  | .data port header data => Sys2Proof.Machine.execData port header data s
  | .remoteComp port header data => Sys2Proof.Machine.execRemoteComp port header data s
  | .error port header data => Sys2Proof.Machine.execError port header data s
  | .remoteRequestTimeout tag => Sys2Proof.Machine.execRemoteRequestTimeout tag s
  | .slotSend point => Sys2Proof.Machine.execSlotSend point s
  | .slotHeaderReceive source header units => Sys2Proof.Machine.execSlotHeaderReceive source header units s
  | .unitLand core g stream => Sys2Proof.Machine.execUnitLand core g stream s
  | .unitOverdue g point stream => Sys2Proof.Machine.execUnitOverdue g point stream s
  | .paceRecord g => Sys2Proof.Machine.execPaceRecord g s
  | .paceDecisionMissing g => Sys2Proof.Machine.execPaceDecisionMissing g s
  | .hello g device digest => Sys2Proof.Machine.execHello g device digest s
  | .reply g t2 t3 => Sys2Proof.Machine.execReply g t2 t3 s
  | .time g device offset tod => Sys2Proof.Machine.execTime g device offset tod s
  | .go g outcome => Sys2Proof.Machine.execGo g outcome s
  | .joinT0 g => Sys2Proof.Machine.execJoinT0 g s
  | .joinTimeout g => Sys2Proof.Machine.execJoinTimeout g s
  | .equinoxCreditReturn port channel set units => Sys2Proof.Machine.execEquinoxCreditReturn port channel set units s
  | .hostRingTail fn ring value => Sys2Proof.Machine.execHostRingTail fn ring value s
  | .hostRingCtrl fn ring value => Sys2Proof.Machine.execHostRingCtrl fn ring value s
  | .packetTake fn ring packet => Sys2Proof.Machine.execPacketTake fn ring packet s
  | .cmdNop fn ring index => Sys2Proof.Machine.execCmdNop fn ring index s
  | .query fn ring index => Sys2Proof.Machine.execQuery fn ring index s
  | .phase fn ring index => Sys2Proof.Machine.execPhase fn ring index s
  | .calArm fn ring index => Sys2Proof.Machine.execCalArm fn ring index s
  | .calCancel fn ring index => Sys2Proof.Machine.execCalCancel fn ring index s
  | .attest fn ring index => Sys2Proof.Machine.execAttest fn ring index s
  | .ctxCreate fn ring index => Sys2Proof.Machine.execCtxCreate fn ring index s
  | .ctxAttr fn ring index => Sys2Proof.Machine.execCtxAttr fn ring index s
  | .ctxDestroy fn ring index => Sys2Proof.Machine.execCtxDestroy fn ring index s
  | .aperture fn ring index => Sys2Proof.Machine.execAperture fn ring index s
  | .launch fn ring index => Sys2Proof.Machine.execLaunch fn ring index s
  | .abort fn ring index => Sys2Proof.Machine.execAbort fn ring index s
  | .segMap fn ring index => Sys2Proof.Machine.execSegMap fn ring index s
  | .segUnmap fn ring index => Sys2Proof.Machine.execSegUnmap fn ring index s
  | .schedLoad fn ring index => Sys2Proof.Machine.execSchedLoad fn ring index s
  | .schedStop fn ring index => Sys2Proof.Machine.execSchedStop fn ring index s
  | .join fn ring index => Sys2Proof.Machine.execJoin fn ring index s
  | .partConfig fn ring index => Sys2Proof.Machine.execPartConfig fn ring index s
  | .fwRules fn ring index host => Sys2Proof.Machine.execFwRules fn ring index host s
  | .siteReset fn ring index => Sys2Proof.Machine.execSiteReset fn ring index s
  | .timeConfig fn ring index => Sys2Proof.Machine.execTimeConfig fn ring index s
  | .timeSet fn ring index => Sys2Proof.Machine.execTimeSet fn ring index s
  | .idleConfig fn ring index => Sys2Proof.Machine.execIdleConfig fn ring index s
  | .reset fn ring index => Sys2Proof.Machine.execReset fn ring index s
  | .schedulerDecision core => Sys2Proof.Machine.execSchedulerDecision core s
  | .preemption core => Sys2Proof.Machine.execPreemption core s
  | .deadlineEvaluation fn ring index => Sys2Proof.Machine.execDeadlineEvaluation fn ring index s
  | .runLimitExpiry fn ring index => Sys2Proof.Machine.execRunLimitExpiry fn ring index s
  | .teardown ctx => Sys2Proof.Machine.execTeardown ctx s
  | .estimateWindow temps millivolts => Sys2Proof.Machine.execEstimateWindow temps millivolts s
  | .calibration die measured => Sys2Proof.Machine.execCalibration die measured s
  | .droopDetect die => Sys2Proof.Machine.execDroopDetect die s
  | .cappingLoopStep power tj die => Sys2Proof.Machine.execCappingLoopStep power tj die s
  | .hot => Sys2Proof.Machine.execHot s
  | .hotClear => Sys2Proof.Machine.execHotClear s
  | .thermalTrip sensor reading => Sys2Proof.Machine.execThermalTrip sensor reading s
  | .coolantRead reading => Sys2Proof.Machine.execCoolantRead reading s
  | .sealBreachClear => Sys2Proof.Machine.execSealBreachClear s
  | .midwinterHang => Sys2Proof.Machine.execMidwinterHang s
  | .forceHang fn value => Sys2Proof.Machine.execForceHang fn value s
  | .computePartReset bist => Sys2Proof.Machine.execComputePartReset bist s
  | .resetOverrun => Sys2Proof.Machine.execResetOverrun s
  | .fullRecovery inputs => Sys2Proof.Machine.execFullRecovery inputs s
  | .recoveryOverrun => Sys2Proof.Machine.execRecoveryOverrun s
  | .faultNotice notice => Sys2Proof.Machine.execFaultNotice notice s
  | .powerUp => Sys2Proof.Machine.execPowerUp s
  | .boot inputs => Sys2Proof.Machine.execBoot inputs s
  | .vinMainSag level => Sys2Proof.Machine.execVinMainSag level s
  | .vinMainReturn level => Sys2Proof.Machine.execVinMainReturn level s
  | .vinMainLoss level => Sys2Proof.Machine.execVinMainLoss level s
  | .pwrOkFall held => Sys2Proof.Machine.execPwrOkFall held s
  | .pwrOkRise => Sys2Proof.Machine.execPwrOkRise s
  | .resetNLow held => Sys2Proof.Machine.execResetNLow held s
  | .refclkLoss => Sys2Proof.Machine.execRefclkLoss s
  | .functionLevelReset fn => Sys2Proof.Machine.execFunctionLevelReset fn s
  | .bar2Write fn offset bytes => Sys2Proof.Machine.execBar2Write fn offset bytes s
  | .bar2Read fn offset len => Sys2Proof.Machine.execBar2Read fn offset len s
  | .latchedRead fn offset wide => Sys2Proof.Machine.execLatchedRead fn offset wide s
  | .registerWrite fn offset value wide => Sys2Proof.Machine.execRegisterWrite fn offset value wide s
  | .i3cPrivateWrite address offset => Sys2Proof.Machine.execI3cPrivateWrite address offset s
  | .i3cPrivateRead address => Sys2Proof.Machine.execI3cPrivateRead address s
  | .instructionCompletion core q index => Sys2Proof.Machine.execInstructionCompletion core q index s
  | .phaseExpiry => Sys2Proof.Machine.execPhaseExpiry s
  | .wakeEnd => Sys2Proof.Machine.execWakeEnd s
  | .refclkReturn => Sys2Proof.Machine.execRefclkReturn s
  | .resetNRise => Sys2Proof.Machine.execResetNRise s
  | .vinAuxChange level => Sys2Proof.Machine.execVinAuxChange level s
  | .ptmResponse hostTime => Sys2Proof.Machine.execPtmResponse hostTime s
  | .entdaa address => Sys2Proof.Machine.execEntdaa address s
  | .i3cSclTimeout => Sys2Proof.Machine.execI3cSclTimeout s
  | .packetReadTimeout fn ring => Sys2Proof.Machine.execPacketReadTimeout fn ring s

end Sys2Proof.Machine
end

