-- ==== Sys2Proof/WellFormed.lean ====
section
/-! DEFINITION. Which commands are well formed: the operands that no type of their own keeps in range. A command without a
case here is well formed by the types of its operands. -/

namespace Sys2Proof

/-- Bytes of a packet (R322): the header names at most 4,096. -/
def packetFits (data : List Byte) : Bool := decide (data.length ≤ 4096)

/-- Wrong symbols of a line (R239): each of the 72 at most once, and none without a differing bit. -/
def symbolsFit (l : List (Fin 72 × BitVec 8)) : Bool := l.all (fun p => p.2 != 0) && (l.map (·.1)).Nodup

/-- Rows of a retest (R26): each of the 48 at most once. -/
def rowsFit (l : List (Fin 48 × BitVec 13)) : Bool := (l.map (·.1)).Nodup

/-- Is a command well formed? -/
def wellFormed : Instr → Bool
  | .signalPerform _ qs => !qs.isEmpty && qs.Nodup
  | .rdOnce _ _ off len _ _ _ _ => decide (1 ≤ len) && decide (off.val + len ≤ 64)
  | .atomic _ _ _ off len _ _ _ _ _ _ => decide (1 ≤ len) && decide (off.val + len ≤ 64)
  | .fillLanded _ first second | .patrolScrub _ first second => symbolsFit first && symbolsFit second
  | .partnerAdmission _ _ record => record.length == 128
  | .partnerInboundRequest _ _ _ _ len data _ => decide (data.length ≤ len) && decide (len ≤ 4096)
  | .forward _ _ data | .read _ _ data | .write _ _ data | .remoteAtomic _ _ data | .reduce _ _ data | .counterAdd _ _ data
  | .data _ _ data | .remoteComp _ _ data | .error _ _ data => packetFits data
  | .slotHeaderReceive _ _ units => decide (units.length ≤ 64)
  | .equinoxCreditReturn _ _ _ units => decide (units ≤ 64)
  | .fwRules _ _ _ host => decide (host.length ≤ 2048)
  | .estimateWindow temps millivolts => temps.length == 48 && millivolts.length == 4
  | .computePartReset bist => rowsFit bist
  | .fullRecovery inputs => rowsFit inputs.map.bist
  | .boot inputs => rowsFit inputs.map.bist && inputs.map.dies.length == 5
  | .bar2Write _ offset bytes => !bytes.isEmpty && decide (offset.toNat + bytes.length ≤ 2 ^ 36)
  | _ => true

end Sys2Proof
end

