-- ==== Sys2Proof/Safety.lean ====
section
/-! DEFINITION. What the statements call a state in service, a canonical memory, an instruction ready to issue, a command
ready to start. -/

namespace Sys2Proof.Machine

/-- The device is in service (R16, R458, R477): out of reset, booted, no recovery due or running. -/
def State.inService (s : State) : Prop :=
  s.sup.on = true ∧ s.hub.bootStatus = 0 ∧ s.serving = true ∧ s.recov.due = 0 ∧ s.cache.coh.down = false

/-- Device memory is in its canonical form: addresses strictly rising, no byte listed that an unlisted address holds. -/
def State.memoryCanonical (s : State) : Prop := memWf s.mem.bytes = true

/-- A queue of a core may issue the instruction w now (R40, R43). -/
def State.heads (s : State) (n : Nat) (e : Eng) (w : QWord) : Prop :=
  s.issues n = true ∧ (s.queue n e).head = some w

/-- A resident group may issue the thread instruction w, of a form, now (R139, R142); fetching it leaves the state s'. -/
def State.threadReady (s s' : State) (n slot : Nat) (g : Group) (w : DWord) (f : TForm) : Prop :=
  s.issues n = true ∧ tabGet? (s.core n).tge.groups slot = some g ∧ g.bar = false ∧ g.due = none
    ∧ s.threadWord n g.run.pc = (.ok w, s') ∧ tCheck (s'.core n).tge.regs.toNat w = .ok f ∧ tHeld g f w = false

/-- The group once every active lane has written the value of f to its register D, at its next instruction (R132, R140). -/
def Group.wrote (g : Group) (d : Nat) (f : Nat → Nat) : Group := (g.active.foldl (fun h l => h.setReg l d (f l)) g).step

/-- A request finds its line in its slice at way k with nothing in its way (R190, R218, R226): no transaction, no forwarded update, no
owner but the requester, no RETRY or CREDIT of the requester, and a requester that the device admits. -/
def State.homeHit (s : State) (r : Req) (k : Nat) : Prop :=
  let sl := s.slice (sliceOf r.line)
  s.cache.coh.down = false ∧ s.sup.on = true ∧ s.serving = true ∧ sl.flushing = false
    ∧ (∀ q ∈ sl.retry, q.requester ≠ r.requester) ∧ (∀ q ∈ sl.credited, q.1.requester ≠ r.requester)
    ∧ sl.entry? r.line = none ∧ (∀ f ∈ sl.forwarded, f.line ≠ r.line) ∧ sl.find r.line = some k
    ∧ foreignOwner (sl.way k) r = none
    ∧ ∀ a, reqAgent r.requester = some a → s.admits a = true ∧ (580 ≤ a → (s.site (a - 580)).closing = 0)

/-- What the home does with such a request: the hit is counted, the request is performed and answered. -/
def State.servedAt (s : State) (r : Req) (k : Nat) : State :=
  let p := (s.count (sliceOf r.line) 0 1).performAt (sliceOf r.line) k r false
  p.2.respond r p.1

/-- A command in hand that its opcode's checks let start (R18, R363, R370, R371, R377): the command, and the state in which its
own effect follows. -/
def State.starts (s : State) (fn ring index op : Nat) (params : State → Cmd → Chk) (c : Cmd) (s' : State) : Prop :=
  ∀ run : State → Cmd → State, s.startCmd fn ring index op params run = run s' c

end Sys2Proof.Machine
end

