-- ==== Sys2Proof/Certificates/Slice0/Obligations.lean ====
section
/-! DEFINITION. The statements for the provers. Each says which rules it formalises; a hypothesis is on the state and the
operands alone. -/

open Sys2Proof Sys2Proof.Machine

/-! The queue of commands, reset, memory. -/

/-- A step with a command at the front of the queue is that command's effect on the state with the queue's rest. -/
def Obligations.StepRunsFront : Prop :=
  ∀ (s : State) (c : Instr) (rest : List Instr), s.pending = c :: rest → step s = exec c { s with pending := rest }

/-- The values that the specification gives for reset: BOOT_STATUS PENDING (R477), no power supply drawn on and nothing booted
(R491), FAULT_QUEUE 7 and no core resident (R70), every context Free (R392), a boost credit of 6 J (R423), a thermal target of 3,600 W (R436),
an empty fault log (R444), every measurement register 0 (R481), and no command in hand or in the queue. That memory lists nothing is the
model's choice (assumption 1). -/
def Obligations.ResetState : Prop :=
  State.reset.pending = [] ∧ State.reset.hub.bootStatus = 0x01 ∧ State.reset.sup.on = false ∧
    (∀ n, (State.reset.core n).resident = false ∧ (State.reset.core n).faultQueue = 7 ∧ (State.reset.core n).faultReason = 0) ∧
    State.reset.cmds = [] ∧ State.reset.log.next = 0 ∧ (∀ k, tabGet 0 State.reset.sec.meas k = 0) ∧
    (∀ x, (State.reset.ctx x).state = .free) ∧ State.reset.pwr.credit = 6000000000 ∧ State.reset.pwr.thermal = 3600000 ∧ State.reset.memoryCanonical

/-! The sequencer (R40 to R57). -/

/-- R42, R45: NOP issues and does nothing else; END ends its queue, also inside a loop body; SIGNAL issues and leaves its add
to be performed once every earlier instruction of its queue has completed. Nothing but the queue changes. -/
def Obligations.QueueInstructionsIssue : Prop :=
  ∀ (s : State) (n : Fin 576) (e : Eng) (w : QWord), s.heads n e w →
    (opcode w = 0x00 → onlyBits w [(7, 0)] = true → exec (.nop n e) s = .next (s.modQueue n e Queue.advance)) ∧
    (opcode w = 0x01 → onlyBits w [(7, 0)] = true →
      exec (.endQueue n e) s
        = .next (s.modQueue n e fun q => { q with ended := true, loops := [], hold := .none, seq := q.seq + 1 })) ∧
    (opcode w = 0x02 → onlyBits w [(7, 0), (12, 8), (47, 16)] = true →
      exec (.signal n e) s = .next (s.modQueue n e fun q =>
        { q.advance with sigs := q.sigs ++ [{ seq := q.seq, sem := fld w 12 8, amount := fld w 47 16 }] }))

/-- R45: LOOP with COUNT 0 skips its body; otherwise the body is entered with index 0. R45: an instruction inside the innermost
body is followed by the next one; the last one of a body is followed by the first, with the next index, while an iteration is
left, and otherwise the loop is left. -/
def Obligations.LoopRunsItsBody : Prop :=
  (∀ (s : State) (n : Fin 576) (e : Eng) (w : QWord), s.heads n e w → opcode w = 0x06 →
    onlyBits w [(19, 0), (47, 24)] = true → fld w 19 8 ≠ 0 →
    let q := s.queue n e
    let last := q.pos + 1 + fld w 19 8
    q.loops.length < 4 → last ≤ q.len → (∀ l ∈ q.loops.head?, last ≤ l.start + l.body) →
    exec (.loop n e) s = .next (s.setQueue n e
      (if fld w 47 24 = 0 then { q.goto last q.loops with seq := q.seq + 1 }
       else { q with
        pos := q.pos + 1, hold := .none, watch := none, notice := false, asked := false, seq := q.seq + 1
        loops := { start := q.pos + 1, body := fld w 19 8, count := fld w 47 24, idx := 0 } :: q.loops }))) ∧
  (∀ (q : Queue) (l : Loop) (ls : List Loop), q.loops = l :: ls →
    (q.pos + 1 < l.start + l.body → q.advance.pos = q.pos + 1 ∧ q.advance.loops = q.loops) ∧
    (q.pos + 1 = l.start + l.body → l.idx + 1 < l.count →
      q.advance.pos = l.start ∧ q.advance.loops = { l with idx := l.idx + 1 } :: ls) ∧
    (q.pos + 1 = l.start + l.body → l.count ≤ l.idx + 1 → ls = [] → q.advance.pos = q.pos + 1 ∧ q.advance.loops = []) ∧
    (q.pos + 1 = l.start + l.body → l.count ≤ l.idx + 1 → ∀ m ms, ls = m :: ms → q.pos + 1 < m.start + m.body →
      q.advance.pos = q.pos + 1 ∧ q.advance.loops = ls))

/-- R47: the ready SIGNAL of a queue adds its AMOUNT to its semaphore, and the waits on it are then tested; with no queue held in
a WAIT, nothing but that semaphore and that queue's SIGNALs changes. -/
def Obligations.SignalAddsToItsSemaphore : Prop :=
  ∀ (s : State) (n : Fin 576) (e : Eng) (x : Sig), s.issues n = true → (s.queue n e).readySignal = some x →
    (s.core n).sem x.sem + x.amount < 2 ^ 32 →
    let c := ({ s.core n with sems := zSet (s.core n).sems x.sem ((s.core n).sem x.sem + x.amount) }.setQueue e
      { s.queue n e with sigs := (s.queue n e).sigs.drop 1 })
    exec (.signalPerform n [e]) s = .next ((s.setCore n c).modCore n fun c => c.grant x.sem) ∧
      ((∀ d, ((s.core n).queue d).hold ≠ .wait) → exec (.signalPerform n [e]) s = .next (s.setCore n c) ∧
        c.sem x.sem = (s.core n).sem x.sem + x.amount ∧ ∀ k, k ≠ x.sem → c.sem k = (s.core n).sem k)

/-- R48: a SIGNAL past 0xFFFF_FFFF raises a context fault with reason SYNC_OVERFLOW, and every semaphore keeps its value. -/
def Obligations.SignalOverflowFaults : Prop :=
  ∀ (s : State) (n : Fin 576) (e : Eng) (x : Sig), s.issues n = true → (s.queue n e).readySignal = some x →
    2 ^ 32 ≤ (s.core n).sem x.sem + x.amount →
    ∃ t, exec (.signalPerform n [e]) s = .next t ∧ t = s.faultCtx n e (mkFault .syncOverflow .faulted) ∧
      (t.core n).faultReason = 0x04 ∧ (t.core n).faultQueue = BitVec.ofNat 3 e.num ∧ (t.core n).sems = (s.core n).sems

/-- R42, R47: a WAIT on a semaphore that holds VALUE releases its queue at once, and takes VALUE if TAKE is set; otherwise it
holds the queue and the semaphore stays (here with no other queue held in a WAIT). -/
def Obligations.WaitTestsItsSemaphore : Prop :=
  ∀ (s : State) (n : Fin 576) (e : Eng) (w : QWord), s.heads n e w → opcode w = 0x03 →
    onlyBits w [(7, 0), (13, 8), (53, 16)] = true → fld w 53 48 ≤ 24 → (∀ d, d ≠ e → ((s.core n).queue d).hold ≠ .wait) →
    ∃ t, exec (.wait n e) s = .next t ∧
      (if fld w 47 16 ≤ (s.core n).sem (fld w 12 8) then
        (t.queue n e).hold = .none ∧ (t.queue n e).pos = (s.queue n e).advance.pos ∧
          (t.queue n e).loops = (s.queue n e).advance.loops ∧
          (t.core n).sem (fld w 12 8) = (s.core n).sem (fld w 12 8) - (if bit w 13 then fld w 47 16 else 0)
      else
        (t.queue n e).hold = .wait ∧ (t.queue n e).pos = (s.queue n e).pos ∧
          (t.queue n e).deadline = s.now + 2 ^ fld w 53 48 * 1000 ∧ (t.core n).sems = (s.core n).sems) ∧
      (∀ k, k ≠ fld w 12 8 → (t.core n).sem k = (s.core n).sem k) ∧ (∀ m, m ≠ n.val → t.core m = s.core m)

/-- R42, R503: WAITMEM on scratchpad is released when the cell holds the threshold, and holds its queue otherwise; on a virtual
address the cell is read at its home, and a line of this device is watched. R503: after the notice of the home, a held WAITMEM
reads its cell again, and is released when it holds the threshold. -/
def Obligations.WaitmemWaitsForItsCell : Prop :=
  (∀ (s : State) (n : Fin 576) (e : Eng) (w : QWord), s.heads n e w → opcode w = 0x04 →
    onlyBits w [(8, 0), (15, 10), (127, 16)] = true → fld w 15 10 ≤ 24 → fld w 63 16 % 8 = 0 →
    let q := s.queue n e
    (bit w 8 = false → spOk (s.core n).l1Units.toNat (fld w 63 16) 8 = true →
      exec (.waitmem n e) s =
        if waitmemThreshold q w ≤ memRdLE (s.core n).sp (fld w 63 16) 8 then .next (s.modCore n fun c => c.release e)
        else .next (s.setQueue n e { q with
          hold := .waitmem, deadline := timeoutAt s.now (fld w 15 10), watch := none, notice := false, asked := false })) ∧
    (bit w 8 = true → ∀ pa s1 b s2, s.translate (s.seqVia n e) (fld w 63 16) .read = (.ok (.mem pa), s1) →
      s1.vread (s1.seqVia n e) (fld w 63 16) 8 = (.ok b, s2) →
      ∃ t, exec (.waitmem n e) s = .next t ∧
        (if waitmemThreshold q w ≤ leVal b then t = s2.modCore n fun c => c.release e
         else (t.queue n e).hold = .waitmem ∧ (t.queue n e).watch = some (pa / 64) ∧ (t.queue n e).notice = false ∧
          (t.queue n e).deadline = timeoutAt s2.now (fld w 15 10)))) ∧
  (∀ (s : State) (n : Fin 576) (e : Eng) (w : QWord) (t : Target) (s1 : State) (b : List Byte) (s2 : State),
    s.issues n = true → (s.queue n e).hold = .waitmem → ((s.queue n e).notice || (s.queue n e).asked) = true →
    tabGet? (s.queue n e).buf (s.queue n e).pos = some w → bit w 8 = true →
    s.translate (s.seqVia n e) (fld w 63 16) .read = (.ok t, s1) →
    s1.vread (s1.seqVia n e) (fld w 63 16) 8 = (.ok b, s2) → waitmemThreshold (s.queue n e) w ≤ leVal b →
    exec (.waitmemNotice n e) s = .next (s2.modCore n fun c => c.release e))

/-- R42, R165, R221: a FENCE whose queue's earlier instructions have completed and whose writes are performed at its scope lets
the queue go on, and the invalidations that stand in the core's own queue are applied; otherwise it holds the queue. -/
def Obligations.FenceHoldsUntilPerformed : Prop :=
  ∀ (s : State) (n : Fin 576) (e : Eng) (w : QWord), s.heads n e w → opcode w = 0x05 →
    onlyBits w [(9, 0)] = true → fld w 9 8 ≤ 2 →
    let q := s.queue n e
    exec (.fence n e) s =
      if q.clearBefore q.seq = true ∧ s.fenceClear n e (fld w 9 8) = true then
        .next (s.modCore n fun c => ({ c with l1 := c.l1.applyAll }).setQueue e q.advance)
      else .next (s.setQueue n e { q with hold := .fence })

/-- R52: the granule that holds the queue's next missing instruction enters the queue; a queue past the end of its stream without
END takes the context fault STREAM_OVERRUN. R49: a WAIT or WAITMEM whose time has come is a context fault WAIT_TIMEOUT, whose record
carries TIMEOUT. -/
def Obligations.QueuesAreFedAndTimed : Prop :=
  (∀ (s : State) (n : Fin 576) (e : Eng), s.issues n = true → (s.queue n e).ended = false →
    let q := s.queue n e
    (∀ p b s', q.pos < q.len → q.missing 64 q.pos = some p →
      s.vread (s.seqVia n e) ((q.base + 16 * p) / 64 * 64) 64 = (.ok b, s') →
      exec (.granuleFetch n e) s = .next (s'.modQueue n e fun x => x.addGranule p (bytesLine b))) ∧
    (q.len ≤ q.pos → exec (.granuleFetch n e) s = .next (s.faultCtx n e (mkFault .streamOverrun .faulted)))) ∧
  (∀ (s : State) (n : Fin 576) (e : Eng), s.issues n = true →
    ((s.queue n e).hold = .wait ∨ (s.queue n e).hold = .waitmem) → (s.queue n e).deadline ≤ s.now →
    exec (.waitTimeout n e) s = .next (s.faultCtx n e (mkFault .waitTimeout .timeout)))

/-- R50: with every queue that has not ended held in a WAIT, and no instruction incomplete, the fault QUEUE_DEADLOCK names the
lowest-numbered waiting queue; a core with a queue held in WAITMEM or FENCE is not deadlocked. -/
def Obligations.QueueDeadlockFaults : Prop :=
  (∀ (s : State) (n : Fin 576) (e : Eng), s.issues n = true → (s.queue n e).ended = false →
    (∀ d, (s.queue n d).ended = false → (s.queue n d).hold = .wait) →
    (∀ d, (s.queue n d).flights = [] ∧ (s.queue n d).sigs = []) →
    (∀ d, d.num < e.num → (s.queue n d).ended = true) →
    exec (.queueDeadlock n) s = .next (s.faultCtx n e (mkFault .queueDeadlock .faulted))) ∧
  (∀ (s : State) (n : Fin 576) (e : Eng), (s.queue n e).ended = false →
    ((s.queue n e).hold = .waitmem ∨ (s.queue n e).hold = .fence) → exec (.queueDeadlock n) s = .next s)

/-- R43: an opcode that is not defined in its queue is the context fault ILLEGAL_INSTRUCTION with BAD_OPCODE, and a reserved bit
that is not zero, SCOPE 3, TIMEOUT_EXP above 24, BODY of zero or a WAITMEM address that is not aligned is BAD_PARAM. -/
def Obligations.IllegalInstructionsFault : Prop :=
  ∀ (s : State) (n : Fin 576) (e : Eng) (w : QWord), s.heads n e w →
    (definedOp e (opcode w) = false → exec (.nop n e) s = .next (s.faultCtx n e illegalOp)) ∧
    (opcode w = 0x00 → onlyBits w [(7, 0)] = false → exec (.nop n e) s = .next (s.faultCtx n e illegalParam)) ∧
    (opcode w = 0x01 → onlyBits w [(7, 0)] = false → exec (.endQueue n e) s = .next (s.faultCtx n e illegalParam)) ∧
    (opcode w = 0x03 → 24 < fld w 53 48 → exec (.wait n e) s = .next (s.faultCtx n e illegalParam)) ∧
    (opcode w = 0x04 → fld w 63 16 % 8 ≠ 0 → exec (.waitmem n e) s = .next (s.faultCtx n e illegalParam)) ∧
    (opcode w = 0x05 → fld w 9 8 = 3 → exec (.fence n e) s = .next (s.faultCtx n e illegalParam)) ∧
    (opcode w = 0x06 → fld w 19 8 = 0 → exec (.loop n e) s = .next (s.faultCtx n e illegalParam))

/-- R19, R21, R70, R411, R445, R502: a context fault of a queue is recorded with its reason and its status, its core, its queue
and its context; CORE_STATUS names it; the core stops; its context is torn down. Memory and every other core stay. -/
def Obligations.ContextFaultIsRecorded : Prop :=
  ∀ (s : State) (n : Nat) (e : Eng) (f : CtxFault),
    let t := s.faultCtx n e f
    let c := s.core n
    ((t.core n).faulted = true ∧ (t.core n).faultQueue = BitVec.ofNat 3 e.num ∧ (t.core n).stopped = true ∧
      (t.core n).faultReason = BitVec.ofNat 6 f.reason.code ∧ (t.core n).lastStatus = 0x31) ∧
    (∃ r, tabGet? t.log.recs s.log.next.toNat = some r ∧ r.cls = 1 ∧ r.cause = BitVec.ofNat 8 f.reason.code ∧
      r.status = BitVec.ofNat 8 f.status ∧ r.context = c.context ∧ r.partition = c.partition ∧ r.core = BitVec.ofNat 16 n ∧
      r.queue = BitVec.ofNat 8 e.num ∧ r.tagValid = true ∧ r.time = s.tim.now) ∧
    t.log.next = s.log.next + 1 ∧
    ((s.ctx c.context.toNat).tear = none → (t.ctx c.context.toNat).state = .tearing) ∧
    t.mem = s.mem ∧ ∀ m, m ≠ n → t.core m = s.core m

/-! Kernels, the copy engines, the matrix and the vector engine. -/

/-- R46, R55, R56, R59, R70, R101: at core start the semaphores read 0, LEN is 32 rows of 16 columns, the flags are clear, the
launch header and the arguments stand in scratchpad from byte 0, and the five queues stand at the start of their streams. R57:
when every queue has ended, every instruction has completed and every write is performed, the core adds 1 to DONE_CTR at its
home and reports its end: it holds no kernel, LAST_STATUS is OK, and its LAUNCH counts it. -/
def Obligations.KernelStartsAndEnds : Prop :=
  (∀ (s : State) (n : Fin 576) (d : Cmd) (args : List Byte) (s1 : State),
    (s.core n).assigned = true → (s.core n).stopped = false → s.serving = true → s.cmd? (s.core n).cmd = some d →
    (s.modCore n fun c => { c with tlb := [] }).vread (s.coreVia n) (s.core n).kernel.argAddr (s.core n).kernel.argLen
      = (.ok args, s1) →
    ∃ t, exec (.coreStart n) s = .next t ∧ t.core n = (s1.core n).begin_ n d.seq args ∧
      (t.core n).running = true ∧ (t.core n).faulted = false ∧ (t.core n).faultQueue = 7 ∧ (t.core n).faultReason = 0 ∧
      (∀ k, (t.core n).sem k = 0) ∧ (t.core n).vxe.rows = 32 ∧ (t.core n).vxe.cols = 16 ∧ (t.core n).vxe.flags = {} ∧
      (t.core n).sp = memWrN (s1.core n).startScratch 0 (launchHeader n (s1.core n) d.seq ++ args) ∧
      (t.core n).l1 = {} ∧ t.mem = s1.mem ∧ ∀ m, m ≠ n.val → t.core m = s1.core m) ∧
  (∀ (s : State) (n : Fin 576) (s1 : State), s.live n = true → s.quiet n = true → s.addDone n = (.ok (), s1) →
    let c := { (s1.core n).vacant with
      lastStatus := 0x00, prev := some ((s.core n).context.toNat, (s.core n).l1Units.toNat) }
    let t := (s1.setCore n c).setPlan n { s1.plan n with next := none }
    exec (.coreEnd n) s = .next (t.coreEnded (s.core n).cmd (s.core n).model (s.core n).index) ∧
      c.running = false ∧ c.resident = false ∧ ((s.core n).kernel.doneCtr = 0 → s1 = s))

/-- R63, R66, R68: ISSUE with COUNT 0 is a no-op, and otherwise its descriptors are reached from DESC_ADDR + STEP × I; a
descriptor that passes its checks starts once the CPE has fewer than 16 in flight and none that it overlaps. R66, R502: a
descriptor that fails its check is the context fault BAD_DESCRIPTOR with the code of the check. R68: once every byte of a descriptor has
been performed at its destination, its scratchpad counter gains LENGTH, or 1 with CTR_UNIT, in one add, the waits on it are tested, and
the descriptor is in flight no more. -/
def Obligations.DescriptorsStartAndCount : Prop :=
  (((∀ (s : State) (n : Fin 576) (k : Fin 2) (w : QWord), s.heads n (cpeEng k) w → opcode w = 0x10 →
    onlyBits w [(8, 0), (95, 16)] = true → fld w 63 16 % 64 = 0 → fld w 95 72 % 64 = 0 →
    let q := s.queue n (cpeEng k)
    (fld w 71 64 = 0 → exec (.issue n k) s = .next (s.modQueue n (cpeEng k) Queue.advance)) ∧
    (fld w 71 64 ≠ 0 → q.issuing = none → exec (.issue n k) s = .next (s.setQueue n (cpeEng k) { q with
      flights := q.flights ++ [{ seq := q.seq, op := 0x10, va := bit w 8, addr := fld w 63 16 + fld w 95 72 * q.iter,
                                 left := fld w 71 64 }] }))) ∧
  (∀ (s : State) (n : Fin 576) (k : Fin 2) (f : Flight) (d : Line) (s1 s2 : State),
    (s.queue n (cpeEng k)).issuing = some f → s.issues n = true → s.fetchDesc n k f.va f.addr = (.ok d, s1) →
    s1.checkDesc n k d = (.ok, s2) →
    (dLen d = 0 →
      exec (.descriptorStart n k) s = .next (s2.modQueue n (cpeEng k) fun q => q.nextDesc.settleIssue ((s2.core n).cpeOf k))) ∧
    (dLen d ≠ 0 → ((s2.core n).cpeOf k).copies.length < 16 → (∀ c ∈ ((s2.core n).cpeOf k).copies, c.holds d = false) →
      exec (.descriptorStart n k) s = .next (s2.startCopy n k f d)))) ∧
  (∀ (s : State) (n : Fin 576) (k : Fin 2) (f : Flight) (d : Line) (s1 : State),
    (s.queue n (cpeEng k)).issuing = some f → s.issues n = true → s.fetchDesc n k f.va f.addr = (.ok d, s1) →
    (byteFld d 0x3C 4 ≠ crc32 ((lineBytes d).take 60) →
      exec (.descriptorStart n k) s = .next (s1.faultCtx n (cpeEng k) (mkFault .badDescriptor .badCrc))) ∧
    (byteFld d 0x3C 4 = crc32 ((lineBytes d).take 60) → (dOp d = 0 ∨ 3 < dOp d) →
      exec (.descriptorStart n k) s = .next (s1.faultCtx n (cpeEng k) (mkFault .badDescriptor .badOpcode))))) ∧
  (∀ (s : State) (n : Fin 576) (k : Fin 2) (i : Fin 16) (c : Copy), s.issues n = true →
    ((s.core n).cpeOf k).copies[i.val]? = some c → s.copy? n k c.id = some c → 0 < dLen c.raw → c.rd = dLen c.raw →
    c.wr = dLen c.raw → c.owed = 0 → s.copyComp c = true → dDstKind c.raw ≠ 2 → dCtrKind c.raw = 1 →
    let add := if dUnit c.raw then 1 else dLen c.raw
    exec (.descriptorComplete n k i) s = .next ((s.modCore n fun x =>
      x.spWrite (dCtr c.raw) (leBytes 8 (memRdLE x.sp (dCtr c.raw) 8 + add))).endCopy n k c))

/-- R40, R44, R81, R103: each instruction of the MXE and the VXE starts when it stands at the head of its queue, passes its
checks and waits for no instruction in progress: it is then in progress with the effect that its operands give, and the queue
goes on. Only its own core changes. R83, R85, R118, R127: a check of an engine instruction that fails is its context fault, and
an instruction that must wait for one in progress leaves its queue held by its engine. -/
def Obligations.EngineInstructionsIssue : Prop :=
  (∀ (s : State) (n : Fin 576),
    let starts (i : Instr) (e : Eng) (op : Nat) (start : Core → QWord → Except CtxFault Started) : Prop :=
      ∀ w st, s.heads n e w → opcode w = op → start ((s.core n).view e) w = .ok st → st.fault = none →
        (∀ f ∈ (s.queue n e).flights, st.waitsFor e w f = false) → exec i s = .next (s.setCore n ((s.core n).launch e w st))
    (starts (.ldb n) .mxe 0x10 ldbStart ∧ starts (.mma n) .mxe 0x11 (mmaStart (s.ctx (s.core n).context.toNat).exactFault) ∧
      starts (.accmode n) .mxe 0x12 accmodeStart ∧ starts (.acczero n) .mxe 0x13 acczeroStart ∧
      starts (.accst n) .mxe 0x14 accstStart ∧ starts (.accld n) .mxe 0x15 accldStart ∧
      starts (.ststat n) .mxe 0x16 ststatStart) ∧
    (starts (.setlen n) .vxe 0x10 (fun _ w => setlenStart (s.queue n .vxe).loops w) ∧
      starts (.vxeLd n) .vxe 0x11 (vldStart (s.queue n .vxe).loops) ∧
      starts (.vxeSt n) .vxe 0x12 (vstStart (s.queue n .vxe).loops) ∧
      starts (.stslab n) .vxe 0x13 (stslabStart (s.queue n .vxe).loops) ∧ starts (.alu n) .vxe 0x14 aluStart ∧
      starts (.fma n) .vxe 0x15 fmaStart ∧ starts (.vxeSel n) .vxe 0x16 selStart ∧
      starts (.vxeFunc n) .vxe 0x17 (funcStart s.hub.feature.toNat) ∧ starts (.vxeCvt n) .vxe 0x18 cvtStart ∧
      starts (.red n) .vxe 0x19 redStart ∧ starts (.vstat n) .vxe 0x1A vstatStart)) ∧
  (∀ (s : State) (n : Nat) (e : Eng) (op : Nat) (start : Core → QWord → Except CtxFault Started) (w : QWord),
    s.heads n e w → opcode w = op → definedOp e op = true →
    (∀ f, start ((s.core n).view e) w = .error f → s.startEngine n e op start = s.faultCtx n e f) ∧
    (∀ st, start ((s.core n).view e) w = .ok st → (∃ f ∈ (s.queue n e).flights, st.waitsFor e w f = true) →
      s.startEngine n e op start = s.modQueue n e fun q => { q with hold := .full }))

/-- R44, R51, R97: when an instruction in progress that no earlier one stands in the way of completes, its results are made: the
tiles, stage slots, registers and scratchpad bytes it writes hold them, its flags are added to the sticky flags, and it is in
progress no more. R81, R97: ACCMODE selects the mode and leaves every tile empty with its flags clear; ACCZERO does so for the tiles of
MASK and leaves the others. R106: SETLEN sets ROWS to min(ROW_STEP, ROW_TOTAL − ROW_STEP × ir) and COLS to min(COL_STEP, COL_TOTAL −
COL_STEP × ic), none below 0, with the indices of the loop levels that it names, for every later instruction. -/
def Obligations.EngineResultsAreMade : Prop :=
  (∀ (s : State) (n : Fin 576) (e : Eng) (i : Fin 64) (f : Flight), e = .mxe ∨ e = .vxe → s.serving = true →
    (s.core n).stopped = false → (s.core n).resident = true → (s.queue n e).flights[i.val]? = some f →
    (∀ g ∈ (s.queue n e).flights.take i, hazard f.reads f.writes g = false) →
    let c := (s.core n).complete e i f
    exec (.instructionCompletion n e i) s = .next (s.setCore n c.wakeSp) ∧
      c.sp = memWrL (s.core n).sp f.eff.sp ∧ c.vxe.flags = (s.core n).vxe.flags.or f.eff.vflags ∧
      (c.queue e).flights = (s.queue n e).flights.eraseIdx i ∧ c.tge = (s.core n).tge ∧
      (∀ t x, f.eff.tiles = [(t, x)] → c.mxe.tile t = x ∧ ∀ u, u ≠ t → c.mxe.tile u = (s.core n).mxe.tile u) ∧
      (∀ v m, f.eff.vregs = [(v, m)] → c.vxe.reg v = m ∧ ∀ u, u ≠ v → c.vxe.reg u = (s.core n).vxe.reg u)) ∧
  ((∀ (c : Core) (w : QWord),
    (onlyBits w [(7, 0), (8, 8)] = true → ∃ st, accmodeStart c w = .ok st ∧ (st.flight.eff.apply c).mxe.exact = bit w 8 ∧
      ∀ t, t < 8 → (st.flight.eff.apply c).mxe.tile t = {}) ∧
    (onlyBits w [(7, 0), (15, 8)] = true → (∀ t, t < 8 → bit w (8 + t) = true → t < c.mxe.tileCount) →
      ∃ st, acczeroStart c w = .ok st ∧ (st.flight.eff.apply c).mxe.exact = c.mxe.exact ∧
        ∀ t, t < 8 → (st.flight.eff.apply c).mxe.tile t = if bit w (8 + t) then {} else c.mxe.tile t)) ∧
  (∀ (s : State) (n : Fin 576) (w : QWord), s.heads n .vxe w → opcode w = 0x10 →
    onlyBits w [(7, 0), (53, 16), (62, 56), (69, 64)] = true → 1 ≤ fld w 53 48 → fld w 53 48 ≤ 32 → 1 ≤ fld w 62 56 →
    fld w 62 56 ≤ 64 → (s.queue n .vxe).flights = [] →
    let ir := if bit w 68 then loopIdx (s.queue n .vxe).loops (fld w 65 64) else 0
    let ic := if bit w 69 then loopIdx (s.queue n .vxe).loops (fld w 67 66) else 0
    ∃ t, exec (.setlen n) s = .next t ∧
      (t.core n).vxe.rowsN = min (fld w 53 48) (fld w 31 16 - fld w 53 48 * ir) ∧
      (t.core n).vxe.colsN = min (fld w 62 56) (fld w 47 32 - fld w 62 56 * ic) ∧
      (t.core n).vxe.flags = (s.core n).vxe.flags ∧ (t.core n).vxe.regs = (s.core n).vxe.regs))

/-- R113: INT32 arithmetic saturates: a result above 2^31 − 1 gives 0x7FFF_FFFF, one below −2^31 gives 0x8000_0000, and either sets
INT_SAT; any other result is exact. MUL keeps the saturated full product. The operations are ADD, SUB, MUL and FMA. -/
def Obligations.Int32Saturates : Prop :=
  ∀ (a b d : Nat),
    let holds (r : Nat × VFlags) (v : Int) : Prop :=
      (2 ^ 31 - 1 < v → r.1 = 0x7FFFFFFF ∧ r.2 = { intSat := true }) ∧
        (v < -2 ^ 31 → r.1 = 0x80000000 ∧ r.2 = { intSat := true }) ∧
        (-2 ^ 31 ≤ v → v ≤ 2 ^ 31 - 1 → signed 32 r.1 = v ∧ r.1 < 2 ^ 32 ∧ r.2 = {})
    holds (aluOp .int32 0 a b) (signed 32 a + signed 32 b) ∧ holds (aluOp .int32 1 a b) (signed 32 a - signed 32 b) ∧
      holds (aluOp .int32 2 a b) (signed 32 a * signed 32 b) ∧
      holds (fmaOp .int32 a b d) (signed 32 a * signed 32 b + signed 32 d)

/-! Thread groups (R131 to R159). -/

/-- R138, R140: each integer instruction of a thread writes its result, wrapped to 32 bits, to D of every active lane and the group
goes on; ADD64 wraps at 64 bits; NOP does nothing else. -/
def Obligations.ThreadIntegerResults : Prop :=
  ∀ (s s' : State) (n : Fin 576) (k : Fin 64) (g : Group) (w : DWord) (f : TForm), s.threadReady s' n k g w f →
    let a (l : Nat) := g.reg l (tA w)
    let b (l : Nat) := g.reg l (tB w)
    let gives (op : Nat) (i : Instr) (r : Nat → Nat) : Prop :=
      tOp w = op → exec i s = .next (s'.threadDone n k (g.wrote (tD w) r))
    gives 0x10 (.add n k) (fun l => (a l + b l) % 2 ^ 32) ∧
      gives 0x11 (.sub n k) (fun l => (2 ^ 32 - b l + a l) % 2 ^ 32) ∧
      gives 0x12 (.mul n k) (fun l => a l * b l % 2 ^ 32) ∧ gives 0x13 (.mulhi n k) (fun l => a l * b l / 2 ^ 32) ∧
      gives 0x14 (.and n k) (fun l => a l &&& b l) ∧ gives 0x15 (.or n k) (fun l => a l ||| b l) ∧
      gives 0x16 (.xor n k) (fun l => a l ^^^ b l) ∧
      gives 0x17 (.shl n k) (fun l => a l * 2 ^ (b l % 32) % 2 ^ 32) ∧ gives 0x18 (.shr n k) (fun l => a l / 2 ^ (b l % 32)) ∧
      gives 0x19 (.sra n k) (fun l => (signed 32 (a l) / 2 ^ (b l % 32) % 2 ^ 32).toNat) ∧
      gives 0x1A (.slt n k) (fun l => if signed 32 (a l) < signed 32 (b l) then 1 else 0) ∧
      gives 0x1B (.sltu n k) (fun l => if a l < b l then 1 else 0) ∧
      (tOp w = 0x1C → exec (.add64 n k) s = .next (s'.threadDone n k (g.active.foldl (fun h l =>
        h.setPair l (tD w) ((g.pair l (tA w) + g.pair l (tB w)) % 2 ^ 64)) g).step)) ∧
      gives 0x1D (.addi n k) (fun l => (a l + tImm w) % 2 ^ 32) ∧ gives 0x1E (.movi n k) (fun _ => tImm w) ∧
      gives 0x1F (.threadSel n k) (fun l => if a l ≠ 0 then b l else g.reg l (tC w)) ∧
      (tOp w = 0x00 → exec (.threadNop n k) s = .next (s'.threadDone n k g.step))

/-- R112, R138, R140: FP32 instructions of a thread round their exact result once; compares give 0 on a NaN; CVT converts as the VXE
does without scaling, and FUNC gives the bits that the VXE gives for FP32. -/
def Obligations.ThreadFloatResults : Prop :=
  ∀ (s s' : State) (n : Fin 576) (k : Fin 64) (g : Group) (w : DWord) (f : TForm), s.threadReady s' n k g w f →
    let a (l : Nat) := ofFp32 (g.reg l (tA w))
    let b (l : Nat) := ofFp32 (g.reg l (tB w))
    let gives (op : Nat) (i : Instr) (r : Nat → Nat) : Prop :=
      tOp w = op → exec i s = .next (s'.threadDone n k (g.wrote (tD w) r))
    gives 0x20 (.fadd n k) (fun l => toFp32 ((a l).add (b l))) ∧ gives 0x21 (.fsub n k) (fun l => toFp32 ((a l).add (b l).neg)) ∧
      gives 0x22 (.fmul n k) (fun l => toFp32 ((a l).mul (b l))) ∧
      gives 0x23 (.ffma n k) (fun l => toFp32 (((a l).mul (b l)).add (ofFp32 (g.reg l (tC w))))) ∧
      gives 0x24 (.fmin n k) (fun l => toFp32 (numMin (a l) (b l))) ∧
      gives 0x25 (.fmax n k) (fun l => toFp32 (numMax (a l) (b l))) ∧
      gives 0x26 (.fslt n k) (fun l => if a l = .nan ∨ b l = .nan then 0 else b2n (Num.lt (a l) (b l))) ∧
      gives 0x27 (.fseq n k) (fun l => if a l = .nan ∨ b l = .nan then 0 else b2n (Num.eq (a l) (b l))) ∧
      (∀ x y, Format.ofCode (fld w 35 32) = some x → Format.ofCode (fld w 39 36) = some y →
        gives 0x28 (.threadCvt n k) (fun l => (cvtNum y (bit w 40) (decodeNum x (g.reg l (tA w)))).1)) ∧
      gives 0x29 (.threadFunc n k) (fun l => (funcOp s.hub.feature.toNat .fp32 (fld w 35 32) (g.reg l (tA w))).1)

/-- R132, R133: the frame of a thread instruction that writes D. A lane that is not active, and every register but D, keeps its value;
s0 reads 0 and discards what is written to it; the lanes' registers hold 32 bits. The group keeps its TSTART, its index, its age and its
exited lanes, and no other group and no other part of the core but the two counts of instructions changes. -/
def Obligations.ThreadWritesOnlyItsRegister : Prop :=
  (∀ (g : Group) (d : Nat) (v : Nat → Nat) (l r : Nat), d < 256 → r < 256 →
    let h := g.wrote d v
    h.reg l r = (if l ∈ g.active ∧ r = d ∧ d ≠ 0 then v l % 2 ^ 32 else g.reg l r) ∧
      h.ts = g.ts ∧ h.idx = g.idx ∧ h.age = g.age ∧ h.exited = g.exited ∧ h.reg l 0 = 0) ∧
  (∀ (s : State) (n k : Nat) (g : Group), g.paths ≠ [] →
    let t := s.threadDone n k g
    tabGet? (t.core n).tge.groups k = some g ∧ (t.core n).tge.issued = (s.core n).tge.issued + 1 ∧
      (∀ j, j ≠ k → tabGet? (t.core n).tge.groups j = tabGet? (s.core n).tge.groups j) ∧
      (t.core n).tge.stores = (s.core n).tge.stores ∧ (t.core n).sp = (s.core n).sp ∧ (t.core n).queues = (s.core n).queues ∧
      (t.core n).mxe = (s.core n).mxe ∧ (t.core n).vxe = (s.core n).vxe ∧ (t.core n).l1 = (s.core n).l1 ∧
      (∀ m, m ≠ n → t.core m = s.core m) ∧ t.mem = s.mem ∧ t.cache = s.cache ∧ t.log = s.log)

/-- R145, R146, R147: a branch that every active lane takes goes to its target and counts if it goes backward; one that none takes goes
on; one on which lanes disagree leaves the not-taken lanes on the parent's path and the taken lanes on a younger one, both with the JOIN
address on their join stack, unless it is there already; a seventeenth entry is the fault DIVERGENCE_DEPTH. EXIT ends the active lanes. A
path whose count reaches 64 yields and its group becomes the youngest. -/
def Obligations.ThreadPathsFollowBranches : Prop :=
  (∀ (s s' : State) (n : Fin 576) (k : Fin 64) (g : Group) (w : DWord) (f : TForm), s.threadReady s' n k g w f →
    let taken (zero : Bool) : BitVec 32 := takenLanes g w zero
    let runs (i : Instr) (zero : Bool) : Prop :=
      (∀ h, g.branch (taken zero) w = some h → exec i s = .next (s'.threadDone n k h)) ∧
        (g.branch (taken zero) w = none →
          exec i s = .next (s'.threadFault n k g.run.pc g.run.mask (mkFault .divergenceDepth .faulted)))
    (tOp w = 0x02 → runs (.brnz n k) false) ∧ (tOp w = 0x03 → runs (.brz n k) true) ∧
      (tOp w = 0x01 → (∀ p ∈ g.pend, g.run.mask.getLsbD p.1 = false) → exec (.exit n k) s = .next (s'.threadDone n k g.exit)) ∧
      (∀ l, l < 32 → ((taken false).getLsbD l = true ↔ l ∈ g.active ∧ g.reg l (tA w) ≠ 0) ∧
        ((taken true).getLsbD l = true ↔ l ∈ g.active ∧ g.reg l (tA w) = 0))) ∧
  (∀ (g : Group) (taken : BitVec 32) (w : DWord) (p : Path) (rest : List Path), g.paths = p :: rest →
    let t := branchTo p.pc (tTarget w)
    let j := branchTo p.pc (tJoin w)
    let joins := if p.joins.head? = some j then p.joins else j :: p.joins
    let more := if t ≤ p.pc then 1 else 0
    (taken = 0 → g.branch taken w = some g.step) ∧
      (taken ≠ 0 → p.mask &&& ~~~taken = 0 →
        g.branch taken w = some (settle 40 { g with paths := { p with pc := t, back := p.back + more } :: rest })) ∧
      (taken ≠ 0 → p.mask &&& ~~~taken ≠ 0 → 16 < joins.length → g.branch taken w = none) ∧
      (taken ≠ 0 → p.mask &&& ~~~taken ≠ 0 → joins.length ≤ 16 →
        g.branch taken w = some (settle 40 (runOldest { g with
          nextPathAge := g.nextPathAge + 1
          paths := { p with pc := (p.pc + 8) % 2 ^ 48, mask := p.mask &&& ~~~taken, joins := joins } ::
            (rest ++ [{ p with pc := t, mask := taken, joins := joins, back := p.back + more, age := g.nextPathAge }]) })))) ∧
  (∀ (s : State) (n : Fin 576) (k : Fin 64) (g : Group) (p : Path), s.issues n = true →
    tabGet? (s.core n).tge.groups k = some g → g.due = some p →
    ∃ t, exec (.pathRotation n k) s = .next t ∧
      tabGet? (t.core n).tge.groups k = some { g.rotate p with age := (s.core n).tge.nextAge } ∧
      (t.core n).tge.nextAge = (s.core n).tge.nextAge + 1 ∧ (t.core n).tge.rotations = (s.core n).tge.rotations + 1)

/-- R149, R150, R151: VOTE and SHFL give their result to the active lanes; BAR holds a converged group, and GRPMUL works on a path of all
32 lanes with tiles in scratchpad; either without the lanes it needs is the fault UNCONVERGED_COLLECTIVE; the groups of a TSTART that
wait at BAR are released together once every one of them has arrived. -/
def Obligations.CollectivesNeedTheirLanes : Prop :=
  (∀ (s s' : State) (n : Fin 576) (k : Fin 64) (g : Group) (w : DWord) (f : TForm), s.threadReady s' n k g w f →
    let yes := g.active.filter fun l => g.reg l (tA w) != 0
    let fault := s'.threadFault n k g.run.pc g.run.mask (mkFault .unconvergedCollective .faulted)
    (tOp w = 0x40 → exec (.vote n k) s = .next (s'.threadDone n k (g.wrote (tD w) fun _ =>
      if fld w 33 32 = 0 then (if yes = [] then 0 else 1)
      else if fld w 33 32 = 1 then (if yes.length = g.active.length then 1 else 0)
      else (yes.map (2 ^ ·)).sum))) ∧
    (tOp w = 0x41 →
      exec (.shfl n k) s = .next (s'.threadDone n k (g.wrote (tD w) fun l => g.reg (g.reg l (tB w) % 32) (tA w)))) ∧
    (tOp w = 0x42 → exec (.bar n k) s = .next (if g.converged then s'.threadDone n k { g.step with bar := true } else fault)) ∧
    (tOp w = 0x48 → g.run.mask ≠ 0xFFFFFFFF#32 → exec (.grpmul n k) s = .next fault) ∧
    (tOp w = 0x48 → g.run.mask = 0xFFFFFFFF#32 →
      let a := g.reg 0 (tA w)
      let b := g.reg 0 (tB w)
      a % 64 = 0 → b % 64 = 0 → spOk (s'.core n).l1Units.toNat a 1024 = true → spOk (s'.core n).l1Units.toNat b 1024 = true →
      let out (l : Nat) : List Nat := grpmulLane (s'.core n).sp (grpmulFormat (fld w 43 40)) a b g w l
      let h := (List.range 32).foldl (fun h l =>
        ((List.range 8).zip (out l)).foldl (fun h p => h.setReg l (tD w + p.1) p.2) h) g
      exec (.grpmul n k) s = .next ((s'.threadDone n k h.step).modCore n fun c => c.bump 12 2048))) ∧
  (∀ (s : State) (n : Fin 576) (i : Nat), s.issues n = true → (∃ p ∈ (s.core n).tge.groups, p.2.ts = i) →
    (∀ p ∈ (s.core n).tge.groups, p.2.ts = i → p.2.bar = true) →
    ∃ t, exec (.barRelease n i) s = .next t ∧
      (∀ p ∈ (t.core n).tge.groups, p.2.ts = i → p.2.bar = false) ∧
      (t.core n).tge.groups.length = (s.core n).tge.groups.length ∧ (t.core n).sp = (s.core n).sp ∧ t.mem = s.mem)

/-- R133, R134, R135, R166: TSTART with GROUPS 0 is a no-op and otherwise waits for its slots; once enough are free all its groups start
together, after the invalidations in the L1's queue, each lane with its number in s1, the group's index in s2, ARG in s3 and the core in s4;
the TSTART completes when its groups have gone and nothing of theirs is in the store buffer. -/
def Obligations.TstartRunsItsGroups : Prop :=
  (∀ (s : State) (n : Fin 576) (w : QWord), s.heads n .tge w → opcode w = 0x10 →
    onlyBits w [(7, 0), (14, 8), (95, 16)] = true → fld w 14 8 ≤ (s.core n).tge.limit.toNat → fld w 14 8 ≤ 64 →
    fld w 63 16 % 8 = 0 →
    (fld w 14 8 = 0 → exec (.tstart n) s = .next (s.modQueue n .tge Queue.advance)) ∧
    (fld w 14 8 ≠ 0 → (∀ x ∈ (s.core n).tge.starts, x.started = true) →
      ∃ t, exec (.tstart n) s = .next t ∧ (t.queue n .tge).hold = .full ∧
        (t.core n).tge.starts = (s.core n).tge.starts ++ [{
          id := (s.core n).tge.nextTs, seq := (s.queue n .tge).seq, groups := fld w 14 8, pc := fld w 63 16
          arg := fld w 95 64 }])) ∧
  (∀ (s : State) (n : Fin 576) (x : TStart), s.issues n = true →
    ((s.core n).tge.starts.find? fun y => !y.started) = some x → x.groups ≤ (s.core n).tge.freeSlots.length →
    ∃ t, exec (.tstartGroupsStart n) s = .next t ∧ (t.core n).tge = (s.core n).tge.place x n ∧
      (t.core n).l1 = (s.core n).l1.applyAll ∧ (t.queue n .tge).pos = (s.queue n .tge).advance.pos) ∧
  (∀ (x : TStart) (i core age l : Nat), l < 32 →
    let g := startGroup x i core age
    g.reg l 1 = l ∧ g.reg l 2 = i % 2 ^ 32 ∧ g.reg l 3 = x.arg % 2 ^ 32 ∧ g.reg l 4 = core % 2 ^ 32 ∧
      (∀ r, r < 256 → r = 0 ∨ 4 < r → g.reg l r = 0) ∧ g.active = List.range 32 ∧ g.run.pc = x.pc) ∧
  (∀ (s : State) (n : Fin 576) (i : Nat), (s.core n).tge.finished i = true →
    ∃ t, exec (.tstartComplete n i) s = .next t ∧
      (t.core n).tge.starts = (s.core n).tge.starts.filter (fun x => x.id != i) ∧
      (t.queue n .tge).flights = (s.queue n .tge).flights.filter (fun f => f.ts != i) ∧
      (t.core n).tge.groups = (s.core n).tge.groups ∧ t.mem = s.mem)

/-- R152 to R156, R158: a memory instruction of a thread checks every active lane and then performs them in ascending order; when every
lane has been performed, loads and atomics write their registers and the group goes on. An acquire at device or system scope applies the
invalidations in the L1's queue before and after. A lane that fails its check is a fault before any lane is performed. -/
def Obligations.ThreadMemoryCompletes : Prop :=
  ∀ (s s1 : State) (n : Fin 576) (k : Fin 64) (g : Group) (w : DWord) (f : TForm), s.threadReady s1 n k g w f → g.did = [] →
    let acquire : Bool := tOrder w % 2 == 1 && decide (2 ≤ tScope w)
    let fresh (x : State) : State := x.freshen n acquire
    let runs (i : Instr) (op : Nat) (need : Right) (release : Bool)
        (lane : Group → DWord → Nat → Option Target → State → LaneOut) (fin : DWord → Group → Group) : Prop :=
      tOp w = op → (release = true → 2 ≤ tOrder w → s1.releaseClear n (tScope w) = true) →
      (∀ ts s2 s3 h, State.checkLanes n need g w g.active {} (fresh s1) = ({ targets := ts }, s2) →
        State.runLanes n k g.run.pc (lane g w) ts s2 = (true, s3) → tabGet? (s3.core n).tge.groups k = some h →
        (acquire = true ∨ op = 0x3C → h.awaits = false) →
        exec i s = .next ((fresh s3).threadDone n k ({ fin w h with did := [] } : Group).step)) ∧
      (∀ ts l x s2, State.checkLanes n need g w g.active {} (fresh s1) = ({ targets := ts, faults := [(l, x)] }, s2) →
        exec i s = .next (s2.threadFault n k g.run.pc (BitVec.ofNat 32 (2 ^ l)) x))
    runs (.threadLd n k) 0x30 .read false (fun g w l t s => s.loadLane n k g w l t) finLoad ∧
      runs (.threadSt n k) 0x31 .write true (fun g w l t s => s.storeLane n g w l t) (fun _ g => g.retire) ∧
      runs (.aadd n k) 0x38 .atomic true (fun g w l t s => s.atomicLane n k .add 0 g w l t) (finAtomic false) ∧
      runs (.amin n k) 0x39 .atomic true (fun g w l t s => s.atomicLane n k .min 1 g w l t) (finAtomic false) ∧
      runs (.amax n k) 0x3A .atomic true (fun g w l t s => s.atomicLane n k .max 2 g w l t) (finAtomic false) ∧
      runs (.aexch n k) 0x3B .atomic true (fun g w l t s => s.atomicLane n k .exch 3 g w l t) (finAtomic false) ∧
      runs (.acas n k) 0x3C .atomic true (fun g w l t s => s.atomicLane n k .cas 4 g w l t) (finAtomic true) ∧
      runs (.afadd n k) 0x3D .atomic true (fun g w l t s => s.atomicLane n k .fadd 5 g w l t) (finAtomic false)

/-- R152, R153, R154: one lane of a load, a store or an atomic. In scratchpad each is performed at once at s[A] + OFFSET; a load of virtual
memory sees the store buffer first; a store to virtual memory enters the store buffer, into the entry of its line or a free one of 32. An
atomic returns the old value: AADD wraps at its SIZE, AMIN and AMAX compare signed values, ACAS writes only where the old value equals
s[C]. -/
def Obligations.LanesAccessMemory : Prop :=
  (∀ (s : State) (n k : Nat) (g : Group) (w : DWord) (l : Nat),
    let a := (laneAddr g w l).toNat
    let z := tSize w
    s.loadLane n k g w l none = .value (memRdLE (s.core n).sp a z) (s.modCore n fun c => c.bump 12 z) ∧
    s.storeLane n g w l none
      = .value 0 (s.modCore n fun c => (c.spWrite a (leBytes z (g.getSized l (tD w) z))).bump 12 z) ∧
    (∀ op num, ∃ t, s.atomicLane n k op num g w l none = .value (memRdLE (s.core n).sp a z) t) ∧
    (∀ pa e, tLastUse w = false → (s.core n).tge.entry? (none, pa / 64, pa % 64) = some e →
      e.mask &&& byteMask (pa % 64) z = byteMask (pa % 64) z →
      s.loadLane n k g w l (some (.mem pa)) = .value (lineRd e.data (pa % 64) z) s)) ∧
  (∀ (t : Tge) (line off size v ts now : Nat) (dead : Bool), off + size ≤ 64 → t.entry? (none, line, off) = none →
    (32 ≤ t.stores.length → t.store (none, line, off) size v ts now dead = none) ∧
    (t.stores.length < 32 → ∃ u e, t.store (none, line, off) size v ts now dead = some u ∧ u.stores = t.stores ++ [e] ∧
      e.line = line ∧ e.imp = none ∧ e.since = now ∧ e.mask = byteMask off size ∧ e.dead = dead)) ∧
  (∀ (z old x c : Nat),
    atomicValue .add z old x c = ((old + x) % 2 ^ (8 * z), true) ∧ (atomicValue .exch z old x c) = (x, true) ∧
    atomicValue .cas z old x c = (if old = c then x else old, decide (old = c)) ∧
    (∃ m, atomicValue .min z old x c = (m, true) ∧ (m = old ∨ m = x) ∧ signed (8 * z) m ≤ signed (8 * z) old ∧
      signed (8 * z) m ≤ signed (8 * z) x) ∧
    (∃ m, atomicValue .max z old x c = (m, true) ∧ (m = old ∨ m = x) ∧ signed (8 * z) old ≤ signed (8 * z) m ∧
      signed (8 * z) x ≤ signed (8 * z) m))

/-- R153, R155, R156, R221: a FENCE of a thread goes on once its release is done at its scope, and an acquire at device or system scope
applies the invalidations in the L1's queue; an entry of the store buffer that its home takes leaves it, its bytes also in the L1's copy; the
L1 applies the oldest invalidation of its queue, after which it holds no copy of that line. -/
def Obligations.FencesAndBuffersDrain : Prop :=
  (∀ (s s1 : State) (n : Fin 576) (k : Fin 64) (g : Group) (w : DWord) (f : TForm), s.threadReady s1 n k g w f →
    tOp w = 0x3F → (2 ≤ tOrder w → s1.releaseClear n (tScope w) = true) →
    exec (.threadFence n k) s = .next ((s1.freshen n (tOrder w % 2 == 1 && decide (2 ≤ tScope w))).threadDone n k g.step)) ∧
  (∀ (s : State) (n : Nat), s.freshen n false = s ∧ s.freshen n true = s.modCore n fun c => { c with l1 := c.l1.applyAll }) ∧
  (∀ (s : State) (n : Fin 576) (i : Fin 32) (e : StoreLine) (y : Served) (s1 : State), s.serving = true →
    (s.core n).tge.stores[i.val]? = some e → e.imp = none → inMemory e.line = true →
    s.access { kind := .wrThrough, requester := 4 * n, line := e.line, data := e.data, mask := e.mask,
               tag := (s.engVia n .tge).tag, lastUse := e.dead } = (.done y, s1) →
    ∃ t, exec (.storeBufferDrain n i) s = .next t ∧
      (t.core n).tge.stores = (s1.core n).tge.stores.filter (fun x => !(x.imp == none && x.line == e.line)) ∧
      (t.core n).l1 = (s1.core n).l1.write (s1.core n).l1Units.toNat e.line e.data e.mask ∧ t.cache = s1.cache ∧ t.mem = s1.mem) ∧
  (∀ (s : State) (n : Fin 576), ∃ t, exec (.invalidationApply n) s = .next t ∧
    (∀ a i r, (s.core n).l1.invq = (a, i) :: r → (t.core n).l1.invq = r ∧ (∀ p ∈ (t.core n).l1.lines, p.2.line ≠ a)) ∧
    ((s.core n).l1.invq = [] → (t.core n).l1 = (s.core n).l1) ∧ t.mem = s.mem ∧ t.cache = s.cache)

/-! The cache, coherence and memory (R182 to R253). -/

/-- R183: the slice of a line a = PA[47:6] is c0 xor rotl(c1, 1) xor rotl(c2, 2) xor rotl(c3, 3) xor rotl(c4, 4) xor rotl(c5, 5), where c0
to c4 are the bytes of a from the lowest, and c5 is a[41:40] extended with zeros. -/
def Obligations.SliceHashIsTheXor : Prop :=
  ∀ a : BitVec 42,
    let c (i : Nat) : BitVec 8 := a.extractLsb' (8 * i) 8
    let c5 : BitVec 8 := (a.extractLsb' 40 2).setWidth 8
    sliceOf a.toNat = (c 0 ^^^ (c 1).rotateLeft 1 ^^^ (c 2).rotateLeft 2 ^^^ (c 3).rotateLeft 3 ^^^ (c 4).rotateLeft 4
      ^^^ c5.rotateLeft 5).toNat

/-- R186, R217, R218: a request that finds its line in its slice, with no owner but its requester, is performed and answered at once: a
read with the line, an RD_UNIQUE or an UPGRADE with its ownership, an atomic with the old value. A line of an address that does not exist
stops the model (R182). -/
def Obligations.HomeServesRequests : Prop :=
  (∀ (s : State) (q : Fin 2329) (line : BitVec 42) (ctx : BitVec 8) (part : BitVec 4) (dev : BitVec 16) (last : Bool) (k : Nat),
    inMemory line.toNat = true →
    let base : Req := { requester := q, line := line.toNat, tag := messageTag q ctx.toNat part.toNat dev.toNat }
    (∀ (off : Fin 64) (len : Nat), len ≠ 0 → off.val + len ≤ 64 →
      let r := { base with kind := .rdOnce, off := off.val, len := len, lastUse := last }
      s.homeHit r k → exec (.rdOnce q line off len ctx part dev last) s = .next (s.servedAt r k)) ∧
    (let r := { base with kind := .rdShared, lastUse := last };
      (reqAgent q).isSome = true → s.homeHit r k → exec (.rdShared q line ctx part dev last) s = .next ((s.servedAt r k).await r)) ∧
    (let r := { base with kind := .rdUnique };
      (∃ a, reqAgent q = some a ∧ 576 ≤ a) → s.homeHit r k → exec (.rdUnique q line ctx part dev) s = .next (s.servedAt r k)) ∧
    (let r := { base with kind := .upgrade };
      (∃ a, reqAgent q = some a ∧ 576 ≤ a) → s.homeHit r k →
      exec (.upgrade q line ctx part dev) s = .next (s.servedAt
        (if holdsCopy ((s.slice (sliceOf line.toNat)).way k) r then r else { r with kind := .rdUnique }) k)) ∧
    (∀ (op : AtomOp) (off : Fin 64) (len : Nat) (x : BitVec 512) (cmp : BitVec 64), op.isRed = false → len = 4 ∨ len = 8 →
      off.val % len = 0 →
      let r := { base with
        kind := .atomic, off := off.val, len := len, data := x, op := op, cmp := cmp, lastUse := last
        mask := BitVec.ofNat 64 ((2 ^ len - 1) <<< off.val) }
      s.homeHit r k → exec (.atomic q line op off len x cmp ctx part dev last) s = .next ((s.servedAt r k).await r))) ∧
  (∀ (s : State) (q : Fin 2329) (line : BitVec 42) (ctx : BitVec 8) (part : BitVec 4) (dev : BitVec 16) (last : Bool),
    inMemory line.toNat = false → exec (.rdShared q line ctx part dev last) s = .fault (.noSuchAddress (64 * line.toNat)))

/-- R186, R194, R200, R214, R215, R218: what a request at its home leaves, without a last-use mark and on a line that is not pinned: the
line's new data, Dirty if it was written, and the directory: a reader joins the sharers, an owner's request leaves it in E with every other
copy invalidated, a write from a cacheless requester leaves no copy. What was there before is what the requester gets. -/
def Obligations.HomeKeepsTheDirectory : Prop :=
  (∀ (s : State) (n k : Nat) (r : Req), r.lastUse = false → ((s.slice n).way k).pinned = false → r.isRed = false →
    ((s.slice n).way k).st = .clean ∨ ((s.slice n).way k).st = .dirty →
    let w := (s.slice n).way k
    let p := s.performAt n k r false
    let v := (p.2.slice n).way k
    p.1.data = w.data ∧ v.line = w.line ∧ v.data = (r.perform w.data).1 ∧
      v.st = (if (r.perform w.data).2.1 then .dirty else w.st) ∧ v.dir = (dirAfter w.dir w.sh r).1 ∧
      v.sh = (dirAfter w.dir w.sh r).2.1 ∧ p.2.mem = s.mem) ∧
  (∀ (d : Dir) (sh : Sharers) (r : Req) (a : Nat),
    (r.kind = .rdShared → reqAgent r.requester = some a →
      (dirAfter d sh r).1 = .s ∧ (dirAfter d sh r).2.1.has a = true ∧ (dirAfter d sh r).2.2.1 = []) ∧
    (r.kind = .rdUnique → reqAgent r.requester = some a →
      (dirAfter d sh r).1 = .e a ∧ (dirAfter d sh r).2.2.1 = sh.targets (some a)) ∧
    (r.kind = .wrInv → (dirAfter d sh r).1 = .i ∧ (dirAfter d sh r).2.1 = {} ∧ (dirAfter d sh r).2.2.1 = sh.targets none) ∧
    (r.kind = .rdOnce → (dirAfter d sh r).2.1 = sh ∧ (dirAfter d sh r).2.2.1 = []))

/-- R216, R217, R218, R224, R229: a write is taken in and its data is owed; with its WR_DATA it is performed and its COMP is owed. A WR_BACK of
an owner leaves the line busy until its data comes, which makes it Dirty; an EVICT takes the agent out of the directory. -/
def Obligations.HomeTakesWrites : Prop :=
  (∀ (s : State) (q : Fin 2329) (line : BitVec 42) (ctx : BitVec 8) (part : BitVec 4) (dev : BitVec 16) (last : Bool) (k : Nat),
    inMemory line.toNat = true →
    let n := sliceOf line.toNat
    let base : Req := { requester := q, line := line.toNat, tag := messageTag q ctx.toNat part.toNat dev.toNat }
    let owes (r : Req) : State := s.modSlice n fun sl => { sl with owedData := sl.owedData ++ [(r, s.now)] }
    (let r := { base with kind := .wrThrough, lastUse := last };
      (reqAgent q).isSome = true → s.homeHit r k → exec (.wrThrough q line ctx part dev last) s = .next (owes r)) ∧
    (let r := { base with kind := .wrInv };
      s.homeHit r k → exec (.wrInv q line ctx part dev) s = .next (owes r)) ∧
    (∀ (r : Req) (t : Nat) (data : BitVec 512) (mask : BitVec 64), r.requester = q.val → r.line = line.toNat →
      (s.slice n).owedData = [(r, t)] → r.reread = false → r.kind = .wrThrough ∨ r.kind = .wrInv →
      s.homeHit { r with data := data, mask := mask } k →
      exec (.wrData q line data mask) s
        = .next ((s.modSlice n fun sl => { sl with owedData := [] }).servedAt { r with data := data, mask := mask } k))) ∧
  (∀ (s : State) (a : Fin 582) (line : BitVec 42) (k : Nat), inMemory line.toNat = true → 576 ≤ a.val →
    let n := sliceOf line.toNat
    let r : Req := { kind := .wrBack, requester := agentReq a, line := line.toNat }
    let x := s.agentLine a line.toNat
    s.homeHit r k → s.missFull n 0 = false → x.owner = true → x.hold = false → x.snoop = none →
    s.travels [.snpInv, .snpShare, .snpRecall] a line.toNat = false →
    ((s.slice n).way k).dir = .e a.val ∨ ((s.slice n).way k).dir = .m a.val →
    exec (.wrBack a line) s = .next ((s.startTxn n line.toNat k { why := .clear, dataFrom := some a.val, req := r } false []).setAgentLine
      a line.toNat { wbSent := true })) ∧
  (∀ (s : State) (q : Fin 2329) (a : Nat) (line : BitVec 42) (data : BitVec 512) (mask : BitVec 64) (m : MissEntry) (t : Txn),
    inMemory line.toNat = true → reqAgent q = some a →
    let n := sliceOf line.toNat
    (s.slice n).entry? line.toNat = some m → m.txn = some t → t.dataFrom = some a → t.req.kind = .wrBack →
    exec (.wrData q line data mask) s = .next ((((s.modSlice n fun sl =>
      (sl.setWay m.way ((sl.way m.way).answered a .recall (some data))).setEntry
        { m with txn := some { t with dataFrom := none } }).owesComp t.req {} false)).settleTxn line.toNat)) ∧
  (∀ (s : State) (a : Fin 576) (line : BitVec 42) (k : Nat), inMemory line.toNat = true →
    let n := sliceOf line.toNat
    let w := (s.slice n).way k
    let x := s.agentLine a line.toNat
    s.cache.coh.down = false → s.sup.on = true → s.serving = true → x.hold = false → x.owner = false → w.dir = .s →
    (s.slice n).find line.toNat = some k →
    exec (.evict (a.castLE (by decide)) line) s = .next (
      let s := s.modCore a fun c => { c with l1 := c.l1.inv line.toNat }
      (s.setSlice n ((s.slice n).setWay k { w with
        dir := if (w.sh.drop a).empty then .i else .s, sh := w.sh.drop a })).setAgentLine a line.toNat {}))

/-- R216 to R224: an invalidation that reaches an L1 enters its queue of 64 and is acknowledged at once; a snoop that reaches a caching
agent waits for its answer; the answer, with data or without, is counted for the transaction that sent the snoop, and data it brings is
the line's from then on. -/
def Obligations.SnoopsAreAnswered : Prop :=
  (∀ (s : State) (a : Fin 582) (line : BitVec 42) (m : Msg) (t : State), inMemory line.toNat = true →
    let arrives (i : Instr) (kind : SnoopKind) : Prop :=
      s.takeMsg kind.msg a line.toNat = some (m, t) →
      (a.val < 576 → (s.core a).l1.invq.length < 64 →
        ∃ u, exec i s = .next u ∧ (u.core a).l1.invq = (s.core a).l1.invq ++ [(line.toNat, m.req.id)] ∧
          u.cache.msgs = t.cache.msgs ++ [{ kind := .invAck, dest := a, line := line.toNat, req := m.req }] ∧
          (u.core a).l1.lines = (s.core a).l1.lines ∧ u.mem = s.mem) ∧
      (576 ≤ a.val → s.travels [.dataE] a line.toNat = false → s.travels [.dataS] (agentReq a) line.toNat = false →
        (∀ w ∈ s.cache.writes, w.grants = false) → (s.agentLine a line.toNat).snoop = none →
        exec i s = .next (t.setAgentLine a line.toNat { s.agentLine a line.toNat with
          snoop := some (kind, m.req.id), since := s.now }))
    arrives (.snpInv a line) .inv ∧ arrives (.snpShare a line) .share ∧ arrives (.snpRecall a line) .recall) ∧
  (∀ (s : State) (a : Fin 582) (line : BitVec 42) (m : Msg) (t : State), inMemory line.toNat = true →
    s.takeMsg .invAck a line.toNat = some (m, t) → exec (.invAck a line) s = .next (t.ackInv a line.toNat m.req.id)) ∧
  (∀ (s : State) (a : Nat) (line id : Nat), (s.slice (sliceOf line)).entry? line = none →
    ∃ t, s.ackInv a line id = t ∧ t.cores = s.cores ∧ t.cache.slices = s.cache.slices ∧
      ∀ w ∈ t.cache.writes, w.id = id → ∃ v ∈ s.cache.writes, v.id = id ∧ w.acks = v.acks.erase a) ∧
  (∀ (s : State) (a : Fin 582) (line : BitVec 42) (data : BitVec 512) (kind : SnoopKind) (id : Nat) (m : MissEntry) (t : Txn),
    inMemory line.toNat = true → s.sup.on = true → s.serving = true → s.admits a = true → kind ≠ .inv →
    let n := sliceOf line.toNat
    let x := s.agentLine a line.toNat
    x.snoop = some (kind, id) → x.hold = false → x.evSent = false → t.why ≠ .drop →
    (s.slice n).entry? line.toNat = some m → m.txn = some t → t.id = id →
    let owed := t.owed.filter fun o => o.1 != a.val
    (exec (.snpAck a line) s = .next (((s.setAgentLine a line.toNat (if kind = .share ∧ x.owner = true then { data := x.data } else {})).modSlice n
      fun sl => (sl.setWay m.way ((sl.way m.way).answered a kind none)).setEntry
        { m with txn := some { t with owed := owed, since := s.now } }).settleTxn line.toNat)) ∧
    (exec (.snpData a line data) s = .next (((s.setAgentLine a line.toNat (if kind = .share then { data := data } else {})).modSlice n
      fun sl => (sl.setWay m.way ((sl.way m.way).answered a kind (some data))).setEntry
        { m with txn := some { t with owed := owed, since := s.now } }).settleTxn line.toNat)) ∧
    (exec (.snpAckWb a line) s = .next (((s.setAgentLine a line.toNat { wbSent := true }).modSlice n
      fun sl => sl.setEntry { m with txn := some { t with owed := owed, dataFrom := some a.val, since := s.now } }).settleTxn line.toNat)))

/-- R217, R220, R222, R223, R226, R230: what a message of a home does when it arrives. COMP and INV_DONE end the record of their request, with
the flags of a reduction at its CPE; DATA_S fills the L1 unless an invalidation has overtaken it; DATA_E makes the agent owner and begins its
hold; at its end the owner has written the line, or has not; RD_DATA and RETRY are taken; a CREDIT goes to the head of the slice's queue;
FAULT stops the core that waits. -/
def Obligations.ResponsesArrive : Prop :=
  (∀ (s : State) (w : WriteRec), s.cache.writes = [w] → w.acks = [] → w.comp = false → w.silent = false → w.grants = false →
    w.reread = false → reqAgent w.requester = none →
    ∃ t, exec (.comp w.id) s = .next t ∧ t.cache.writes = (if w.snooped then [{ w with comp := true }] else []) ∧
      t.mem = s.mem ∧ t.cache.slices = s.cache.slices ∧
      (∀ n, w.core = some n → w.queue ≠ 3 → w.queue ≠ 4 → t.core n = s.core n)) ∧
  (∀ (s : State) (id : Nat), (∀ p ∈ s.cores, ∀ e ∈ p.2.l1.invq, e.2 ≠ id) → s.fab.inbound = [] →
    ∃ t, exec (.invDone id) s = .next t ∧ t.mem = s.mem ∧ t.cores = s.cores ∧
      t.cache.writes = s.cache.writes.filter fun w => !(w.id == id && w.comp && w.snooped)) ∧
  (∀ (s : State) (q : Fin 2329) (line : BitVec 42) (m : Msg) (t : State), inMemory line.toNat = true → q.val < 2304 →
    s.takeMsg .dataS q line.toNat = some (m, t) → m.req.reread = false →
    let n := q.val / 4
    let l1 := { (t.core n).l1 with
      awaited := (t.core n).l1.awaited.erase line.toNat, overtaken := (t.core n).l1.overtaken.erase line.toNat }
    ∃ u, exec (.dataS q line) s = .next u ∧
      (u.core n).l1 = (if (t.core n).l1.overtaken.contains line.toNat || !(t.core n).running then l1
        else l1.fill (t.core n).l1Units.toNat line.toNat m.data)) ∧
  (∀ (s : State) (a : Fin 582) (line : BitVec 42) (m : Msg) (t : State), inMemory line.toNat = true →
    s.takeMsg .dataE a line.toNat = some (m, t) → exec (.dataE a line) s = .next (t.setAgentLine a line.toNat
      { t.agentLine a line.toNat with owner := true, hold := true, data := m.data })) ∧
  (∀ (s : State) (a : Fin 582) (line : BitVec 42) (k : Nat), inMemory line.toNat = true →
    let n := sliceOf line.toNat
    let x := s.agentLine a line.toNat
    let u := s.setAgentLine a line.toNat { x with hold := false, since := s.now }
    x.hold = true → (s.slice n).find line.toNat = some k → (s.slice n).entry? line.toNat = none →
    ((s.slice n).way k).dir = .e a.val →
    exec (.holdEnd a line) s = .next (if Config.pick s.free % 2 = 0 then { u with free := s.free + 1 }
      else { u with free := s.free + 1 }.setSlice n ((s.slice n).setWay k { (s.slice n).way k with dir := .m a.val }))) ∧
  (∀ (s : State) (q : Fin 2329) (line : BitVec 42) (data : BitVec 512) (m : Msg) (t : State),
    s.takeMsg .rdData q line.toNat = some (m, t) → m.req.reread = false → exec (.rdData q line data) s = .next t) ∧
  (∀ (s : State) (k : Fin 256) (q : Fin 2329), ∃ t, exec (.retry k q) s = .next t ∧ t.cache.slices = s.cache.slices ∧
    t.cache.msgs = s.cache.msgs.eraseP fun m => m.kind == .retry && m.dest == q.val && sliceOf m.line == k.val) ∧
  (∀ (s : State) (k : Fin 256) (r : Req) (rest : List Req), (s.slice k).retry = r :: rest → s.missFull k r.tag.part = false →
    s.travels [.retry] r.requester r.line = false →
    ∃ t, exec (.credit k) s = .next t ∧ (t.slice k).retry = rest ∧
      (t.slice k).credited = (s.slice k).credited ++ [(r, s.now)] ∧ (t.slice k).ways = (s.slice k).ways) ∧
  (∀ (s : State) (q : Fin 2329) (line : BitVec 42) (m : Msg) (t : State), q.val < 2304 →
    s.takeMsg .fault q line.toNat = some (m, t) → (t.core (q.val / 4)).running = true →
    ∃ u, exec (.fault q line) s = .next u ∧ (u.core (q.val / 4)).stopped = true ∧ (u.core (q.val / 4)).lastStatus = 0x31 ∧
      u.mem = t.mem)

/-- R229, R230: a snoop unanswered for 20 µs, data owed for 20 µs or a CREDIT unused for 20 µs takes the coherent domain down: the first
failure is named in HUB_COH_STATUS, and a job fault is due. -/
def Obligations.SilenceTakesTheDomainDown : Prop :=
  (∀ (s : State) (a : Fin 582) (line : BitVec 42), inMemory line.toNat = true →
    let x := s.agentLine a line.toNat
    x.snoop.isSome = true → x.hold = false → x.since + 20000 ≤ s.now →
    exec (.snoopTimeout a line) s = .next (s.cohDown 1 a false line.toNat (some ((s.txnTag line.toNat).getD {})))) ∧
  (∀ (s : State) (q : Fin 2329) (line : BitVec 42) (r : Req) (t : Nat), inMemory line.toNat = true →
    (s.slice (sliceOf line.toNat)).entry? line.toNat = none → (s.slice (sliceOf line.toNat)).owedData = [(r, t)] →
    r.requester = q.val → r.line = line.toNat → t + 20000 ≤ s.now →
    exec (.dataTimeout q line) s = .next (s.cohDown 2 q true line.toNat (some r.tag))) ∧
  (∀ (s : State) (k : Fin 256) (q : Fin 2329) (r : Req) (t : Nat), (s.slice k).credited = [(r, t)] → r.requester = q.val →
    t + 20000 ≤ s.now → exec (.creditTimeout k q) s = .next (s.cohDown 3 q true r.line (some r.tag))) ∧
  (∀ (s : State) (cause agent line : Nat) (isReq : Bool) (tag : Option Tag), s.cache.coh.down = false →
    let t := s.cohDown cause agent isReq line tag
    t.cache.coh.down = true ∧ t.cache.coh.cause = BitVec.ofNat 3 cause ∧ t.cache.coh.agent = BitVec.ofNat 10 agent ∧
      t.cache.coh.line = BitVec.ofNat 42 line ∧ t.mem = s.mem ∧ t.log.next = s.log.next + 1 ∧
      (s.recov.state = 0 → s.recov.due < 2 → t.recov.due = 2))

/-- R239, R242: the decoder of a half line delivers it where no symbol is wrong, corrects one wrong symbol, and detects two or three as
uncorrectable; a whole line written to its channel leaves no symbol wrong. -/
def Obligations.EccCorrectsOneSymbol : Prop :=
  (∀ (good half k : Nat) (e : ErrPat),
    ((errHalf e half).length ≤ 1 → (decodeHalf good e half k).data = good ∧ (decodeHalf good e half k).kind = (errHalf e half).length) ∧
    ((errHalf e half).length = 2 ∨ (errHalf e half).length = 3 → (decodeHalf good e half k).kind = 2)) ∧
  (∀ (s : State) (a : Nat) (l : Line), s.memoryCanonical →
    let t := s.chanWrite a l
    t.memLine a = l ∧ (∀ b, b ≠ a → t.memLine b = s.memLine b) ∧ tabGet? t.mem.errs a = none ∧ t.memoryCanonical ∧
      (t.chan (sliceOf a)).writes = (s.chan (sliceOf a)).writes + 1 ∧ t.cache = s.cache)

/-- R190, R200, R202, R242, R245, R248 to R250: what the slices and the memory controllers do by themselves. A fill brings its line into its
way and the accesses that waited are served; a pin ends; the oldest forwarded reduction is performed in memory; the patrol reads its next
line; the refresh report sets the factor and OVER_TEMP; a drift beyond 25 % is a device fault; the channels enter and leave self-refresh. -/
def Obligations.MemoryWorksByItself : Prop :=
  (∀ (s : State) (line : BitVec 42) (first second : List (Fin 72 × BitVec 8)) (m : MissEntry) (l : Line) (t : State),
    let n := sliceOf line.toNat
    (s.slice n).entry? line.toNat = some m → m.filling = true → (s.chan n).state ≠ 3 → s.serving = true →
    s.chanRead line.toNat 0 ((m.waiters.head?.map (·.tag)).getD {}) (errPat first) (errPat second) = (some l, t) →
    exec (.fillLanded line first second) s
      = .next ((((t.modSlice n fun sl => sl.delEntry line.toNat).install n m.way line.toNat l).acceptAll m.waiters).unpark n)) ∧
  (∀ (s : State) (line : BitVec 42) (k : Nat),
    let n := sliceOf line.toNat
    let w := (s.slice n).way k
    (s.slice n).find line.toNat = some k → w.pinned = true → w.marked = false →
    exec (.pinRelease line) s = .next (s.setSlice n ((s.slice n).setWay k { w with pinned := false }))) ∧
  (∀ (s : State) (line : BitVec 42) (r : Req) (v : Served) (t : State),
    let n := sliceOf line.toNat
    ((s.slice n).forwarded.find? fun f => f.line == line.toNat) = some r → (s.chan n).state ≠ 3 → s.cache.coh.down = false →
    s.serving = true → s.redAtMemory r [] [] = (.done v, t) →
    exec (.memoryControllerReduction line) s = .next (((t.modSlice n fun sl =>
      { sl with forwarded := sl.forwarded.eraseP fun f => f.line == line.toNat }).respond r v).unpark n)) ∧
  (∀ (s : State) (c : Fin 256) (first second : List (Fin 72 × BitVec 8)) (l : Line) (t : State), s.mem.scrubHours ≠ 0 →
    (s.chan c).state = 2 →
    (s.setChan c { s.chan c with scrub := (s.chan c).scrub + 1 }).chanRead (lineAt c (s.chan c).scrub.toNat) 2 {} (errPat first)
      (errPat second) = (some l, t) → exec (.patrolScrub c first second) s = .next t) ∧
  (∀ (s : State) (c : Fin 256), (s.chan c).state = 2 →
    (∀ r : Fin 4, ∃ t, exec (.refreshReport c r) s = .next t ∧ (t.chan c).overTemp = decide (r.val = 3) ∧
      (t.chan c).refresh = (if r.val = 3 then 2 else BitVec.ofNat 2 r.val) ∧ t.mem.bytes = s.mem.bytes ∧
      ∀ d, d ≠ c.val → t.chan d = s.chan d) ∧
    (∀ d : Int, d.natAbs ≤ 25 → exec (.dqsTracking c d) s = .next (s.setChan c { s.chan c with drift := d.natAbs })) ∧
    (∀ d : Int, 25 < d.natAbs → exec (.dqsTracking c d) s
      = .next ((s.setChan c { s.chan c with drift := d.natAbs }).deviceFault 0x12 c (c.val / 64)))) ∧
  (∀ (s : State), 3 ≤ s.tim.idle.toNat → (∀ p ∈ s.cache.slices, p.2.forwarded = [] ∧ p.2.miss = []) →
    ∃ t, exec .selfRefreshEntry s = .next t ∧ t.mem.bytes = s.mem.bytes ∧
      ∀ c, c < 256 → (t.chan c).state = if (s.chan c).state = 2 then 3 else (s.chan c).state) ∧
  (∀ (s : State), s.tim.wakeEnd.isSome = true →
    ∃ t, exec .selfRefreshExit s = .next t ∧ t.mem.bytes = s.mem.bytes ∧
      ∀ c, c < 256 → (t.chan c).state = if (s.chan c).state = 3 then 2 else (s.chan c).state)

/-! Links and partner dies (R254 to R280). -/

/-- R257, R260, R261, R263: a flit whose CRC holds and whose SEQ is the next is handed on, and counted out of the sender's buffer by its ACK;
one whose CRC fails is discarded with a NAK, and the NAK makes the sender replay; a persistent fault stops the link and is a device fault;
a lane that loses lock makes the link's fault persistent; the injection register is set by a function's write. -/
def Obligations.DieLinksReplay : Prop :=
  (∀ (s : State) (k : Fin 10) (dir : Bool) (flit : BitVec 1088),
    let l := (s.link k).atMs (s.now / 10 ^ 6)
    let d := l.side dir
    s.sup.on = true → l.state = 2 → l.inject = none → d.discarding = false → d.replaying = false →
    (crc32 (leBytes 132 (byteFld flit 0 132)) = byteFld flit 132 4 → fld flit 9 0 = (d.last.elim 0 fun x => (x + 1) % 1024) →
      ∃ t, exec (.dieLinkFlitReceive k dir flit) s = .next t ∧ ((t.link k).side dir).last = some (fld flit 9 0) ∧
        ((t.link k).side dir).handed = dieUnits flit ∧ ((t.link k).side dir).failures = 0 ∧
        (t.link k).crcErr = (s.link k).crcErr ∧ ∀ j, j ≠ k.val → t.link j = s.link j) ∧
    (crc32 (leBytes 132 (byteFld flit 0 132)) ≠ byteFld flit 132 4 →
      ∃ t, exec (.dieLinkFlitReceive k dir flit) s = .next t ∧ ((t.link k).side dir).discarding = true ∧
        ((t.link k).side dir).failures = d.failures + 1 ∧ (t.link k).crcErr = (s.link k).crcErr + 1 ∧
        (t.link k).retries = (s.link k).retries + 1 ∧ ((t.link k).side dir).last = d.last)) ∧
  (∀ (s : State) (k : Fin 10) (dir : Bool) (ack : BitVec 10), (s.link k).state = 2 → ((s.link k).side dir).discarding = true →
    ((s.link k).side dir).replaying = false → ack.toNat = ((s.link k).side dir).last.getD 1023 →
    ∃ t, exec (.dieLinkNak k dir ack) s = .next t ∧ ((t.link k).side dir).replaying = true ∧ (t.link k).state = 3) ∧
  (∀ (s : State) (k : Fin 8) (dir : Bool) (failed first : BitVec 10), (s.link k).state = 2 → (s.link k).persistent = true →
    let l := { s.link k with
      state := 4, failLanes := failed, firstLane := if failed = 0 then 0 else first, dir := failed != 0 && dir
      inject := none, dir0 := {}, dir1 := {} }
    exec (.dieLinkPersistentFault k dir failed first) s
      = .next ((s.setLink k l).deviceFault 0x10 (l.word + k.val * 2 ^ 32) 7)) ∧
  (∀ (s : State) (k : Fin 28), k.val < 10 → (s.link k).state = 2 →
    exec (.laneLockLoss k) s = .next (s.setLink k { s.link k with lost := true }) ∧
      ({ s.link k with lost := true } : DieLink).persistent = true) ∧
  (∀ (s : State) (f : Fin 16) (v : BitVec 32), s.hostWrites = true → exec (.d2dInject f v) s = .next (s.writeInject f v))

/-- R266 to R269, R273 to R276, R278, R279: a site in training that comes up is admitted in the mode of R269 with its rules loaded, or disabled with the reason of the
step that failed; a request of a fenced partner that no rule allows is answered with an error, counted and recorded; one that a rule allows
is performed as its context when the rule's bucket holds its size, and held otherwise; an outbound request without answer for 20 µs quiesces
the site, and a persistent fault of its link disables it. -/
def Obligations.PartnerSitesAreFenced : Prop :=
  (∀ (s : State) (k : Fin 2) (rate : BitVec 2) (modules : BitVec 3) (record : List (BitVec 8)),
    let up := s.setLink (8 + k.val) { state := 2 }
    (s.site k).state = .training →
    (∀ e, up.judge k (padTo 128 record) = .error e →
      ∃ t, exec (.partnerAdmission k (.up rate modules) record) s = .next t ∧ (t.site k).state = .disabled ∧
        (t.site k).reason = BitVec.ofNat 4 e) ∧
    (∀ m, up.judge k (padTo 128 record) = .ok m →
      ∃ t, exec (.partnerAdmission k (.up rate modules) record) s = .next t ∧ (t.site k).state = .admitted ∧
        (t.site k).openMode = m ∧ (t.site k).reason = 0 ∧
        (t.site k).rules = (if (s.site k).fwRun then (s.site k).rules else up.initialRules k))) ∧
  (∀ (s : State) (k : Fin 2) (o : SiteOp) (aop : AtomOp) (addr : BitVec 48) (len : Nat) (data : List (BitVec 8)) (cmp : BitVec 64),
    let q : SiteIn := { op := o, aop := aop, addr := addr.toNat, len := len, data := padTo len data, cmp := cmp }
    (s.site k).state = .admitted → (s.site k).openMode = false → s.sup.on = true → s.shut = false → q.fits = true →
    (((s.site k).rules.find? fun r => ruleHolds r.2 false q.addr q.span) = none →
      ∃ t, exec (.partnerInboundRequest k (some o) aop addr len data cmp) s = .next t ∧
        (t.site k).denied = (s.site k).denied + 1 ∧ (t.site k).answers = (s.site k).answers ++ [none] ∧ t.mem = s.mem ∧
        t.cores = s.cores ∧ t.cache = s.cache) ∧
    (∀ i r l s1 s2 t, ((s.site k).rules.find? fun r => ruleHolds r.2 false q.addr q.span) = some (i, r) →
      (ruleFld r 0xA 1).testBit o.code = true → (s.ctx (ruleFld r 0xB 1)).state ≠ .free →
      (s.ctx (ruleFld r 0xB 1)).partition.toNat = ruleFld r 0xC 1 → s.tim.idle.toNat < 2 →
      State.placesOf (siteVia k r) o.right (cut q.addr q.span) s = (.ok l, s1) → (s.site k).held = [] →
      ({ q with rule := i } : SiteIn).cost ≤ (s.site k).bucket s1.now i → s1.passSite k { q with rule := i } = (some t, s2) →
      exec (.partnerInboundRequest k (some o) aop addr len data cmp) s = .next t)) ∧
  (∀ (s : State) (k : Fin 2) (q : SiteIn) (rest : List SiteIn) (t s1 : State), (s.site k).held = q :: rest →
    (s.site k).state = .admitted → s.shut = false → q.cost ≤ (s.site k).bucket s.now q.rule → s.passSite k q = (some t, s1) →
    exec (.firewallBucketPass k) s = .next (t.setSite k { t.site k with held := rest })) ∧
  (∀ (s : State) (k : Fin 2) (o : SiteReq), (s.site k).closing ≠ 2 → (s.site k).outbound = [o] → o.since + 20000 ≤ s.now →
    (s.site k).state = .admitted → (s.site k).openMode = false → o.req.tag.core = none →
    ∃ t, exec (.partnerTimeout k) s = .next t ∧ (t.site k).state = .quiesced ∧ (t.site k).reason = 7 ∧ t.mem = s.mem) ∧
  (∀ (s : State) (k : Fin 2), (s.link (8 + k.val)).lost = true → (s.link (8 + k.val)).state = 2 → (s.site k).outbound = [] →
    (s.site k).openMode = false →
    ∃ t, exec (.partnerLinkFailure k) s = .next t ∧ (t.site k).state = .disabled ∧ (t.site k).reason = 6 ∧
      (t.link (8 + k.val)).state = 4 ∧ t.mem = s.mem)

/-! Reference time (R281 to R301, R311). -/

/-- R285, R286, R288: an input that breaks a limit is rejected and counted with its cause, and the unit follows the best source that is
left, or holds over; an input that has met its limits long enough is accepted and the best source followed; a unit that acquires locks with
what it has learned: the first lock to a time of day steps reference time, a later difference above 1 µs is slewed. -/
def Obligations.TimeSourcesAreFollowed : Prop :=
  (∀ (s : State) (i : TimeInput) (c : RejectCause) (m : Nat), s.sup.on = true → s.tim.breaks i c m = true →
    (s.tim.input i).qualified = true →
    ∃ t, exec (.sourceReject i c m) s = .next t ∧ (t.tim.input i).qualified = false ∧ t.tim.rejectCause = BitVec.ofNat 4 c.code ∧
      t.tim.rejectInput = BitVec.ofNat 4 i.code ∧ t.tim.rejects = (if s.tim.rejects = 0xFFF then 0xFFF else s.tim.rejects + 1) ∧
      (i ≠ .frame → i.source = s.tim.src.toNat →
        t.tim.src.toNat = t.tim.bestSource ∧ (t.tim.bestSource = 0 → t.tim.state = .holdover)) ∧
      (i = .frame → t.tim.frame = s.tim.frame ∧ t.tim.frameLocked = false) ∧ t.tim.now = s.tim.now ∧ t.cal = s.cal ∧ t.mem = s.mem) ∧
  (∀ (s : State) (i : TimeInput), s.sup.on = true → s.tim.mayQualify i = true →
    ∃ t, exec (.sourceRequalify i) s = .next t ∧ (t.tim.input i).qualified = true ∧
      (i ≠ .frame → t.tim.src.toNat = t.tim.bestSource) ∧ (i = .frame → t.tim.frameHoldover = false ∧ t.tim.frameLocked = true) ∧
      t.tim.now = s.tim.now ∧ t.cal = s.cal ∧ t.mem = s.mem) ∧
  (∀ (s : State) (offset rate : Int), s.sup.on = true → s.tim.state = .acquiring → s.tim.sourceOk s.tim.src.toNat = true →
    rate.natAbs ≤ 202000 →
    let tod : Prop := s.tim.src.toNat = 2 ∨ s.tim.src.toNat = 3
    ∃ t, exec (.timeLock offset rate) s = .next t ∧ t.tim.state = .locked ∧ t.tim.learned = rate ∧ t.tim.offset = satOffset offset ∧
      (tod → s.tim.stepped = false → 0 ≤ offset →
        t.tim.now = s.tim.now + BitVec.ofNat 64 offset.toNat ∧ t.tim.todValid = true) ∧
      (¬tod ∨ s.tim.stepped = true → t.tim.now = s.tim.now ∧
        (1000 < offset.natAbs → t.tim.slewing = true ∧ t.tim.toSlew = offset * 10 ^ 6) ∧
        (offset.natAbs ≤ 1000 → t.tim.slewing = s.tim.slewing)))

/-- R284 to R287, R289, R290, R311: a pulse of REF_PPS in its place moves nothing, one more than 200 µs out of place rejects the input, and one
that a TIME_SET awaits steps reference time to its second; a frame edge, real or synthesised, counts one frame, and a new rate takes effect at
an edge; Sync and Follow_Up, and the host's responses, give the offset of their source; a Pdelay exchange gives the port's delay. -/
def Obligations.PulsesFramesAndPtpMeasure : Prop :=
  (∀ (s : State), s.sup.on = true → s.tim.todValid = false →
    (s.tim.setTo = none → (∀ l ∈ s.tim.lastPps, ((s.now : Int) - (l + 10 ^ 9 : Nat)).natAbs ≤ 1000) →
      exec .refPpsPulse s = .next (s.modTim fun t => { t with lastPps := some s.now })) ∧
    (∀ l ∈ s.tim.lastPps, 200000 < ((s.now : Int) - (l + 10 ^ 9 : Nat)).natAbs →
      ∃ t, exec .refPpsPulse s = .next t ∧ (t.tim.input .pps).qualified = false ∧ t.tim.now = s.tim.now ∧
        t.tim.lastPps = some s.now) ∧
    (∀ sec id, s.tim.setTo = some (sec, id) → s.tim.lastPps = none → s.tim.src.toNat = 1 → s.now ≤ sec * 10 ^ 9 →
      (∀ c ∈ s.cmds, c.statusVa = false ∧ c.launch = none) →
      ∃ t, exec .refPpsPulse s = .next t ∧ t.tim.now = BitVec.ofNat 64 (sec * 10 ^ 9) ∧ t.tim.todValid = true ∧ t.tim.setTo = none)) ∧
  (∀ (s : State), s.sup.on = true →
    (s.tim.num ≠ 0 → (s.tim.input .frame).qualified = true →
      s.tim.breaks .frame .jump ((s.now : Int) - (s.tim.synFrom + s.tim.frames (s.tim.synCount + 1) : Nat)).natAbs = false →
      ∃ t, exec .refFrameEdge s = .next t ∧ t.tim.frame = s.tim.frame + 1 ∧ t.tim.frameEdge = s.tim.now ∧ t.mem = s.mem ∧
        (s.tim.nextRate = none → t.tim.num = s.tim.num ∧ t.tim.synFrom = s.now ∧ t.tim.synCount = 0) ∧
        (∀ n d, s.tim.nextRate = some (n, d) → t.tim.num = n ∧ t.tim.den = d ∧ t.tim.nextRate = none)) ∧
    (let due := s.tim.synFrom + s.tim.frames (s.tim.synCount + 1);
      s.tim.frameHoldover = true → due ≤ s.now →
      ∃ t, exec .synthesisedFrameEdge s = .next t ∧ t.tim.frame = s.tim.frame + 1 ∧ t.tim.frameEdge = BitVec.ofNat 64 due ∧
        (s.tim.nextRate = none → t.tim.synFrom = s.tim.synFrom ∧ t.tim.synCount = s.tim.synCount + 1))) ∧
  (∀ (s : State) (p : Fin 18), (s.port p).up = true →
    exec (.sync p true) s = .next (s.setPtp p { s.tim.port p with syncAt := some s.now }) ∧
    exec (.pdelayReq p false) s = .next (s.setPtp p { s.tim.port p with t1 := some s.now }) ∧
    (∀ t2 origin : Nat, (s.tim.port p).syncAt = some t2 →
      let o : Int := (origin : Int) + (s.port p).delayNs.toNat - t2
      s.tim.src.toNat = 2 → s.tim.breaks .ptpFabric .jump o.natAbs = false →
      ∃ t, exec (.followUp p true origin) s = .next t ∧ t.tim.offset = satOffset o ∧ (t.tim.port p).syncAt = none ∧
        t.tim.now = s.tim.now) ∧
    (∀ t1 t2 t3 : Nat, (s.tim.port p).t1 = some t1 →
      ∃ t, exec (.pdelayResp p t2 t3) s = .next t ∧ (t.port p).delayValid = true ∧
        (t.port p).delayNs = BitVec.ofNat 16 (satTo 0xFFFF (median ((((s.now - t1) - (t3 - t2)) / 2 :: (s.tim.port p).delays).take 8))) ∧
        (t.tim.port p).t1 = none ∧ ∀ q, q ≠ p.val → t.port q = s.port q)) ∧
  (∀ (s : State) (h : Nat), s.hostUp = true →
    let o : Int := (h : Int) - s.now
    s.tim.src.toNat = 3 → s.tim.breaks .ptpHost .jump o.natAbs = false →
    ∃ t, exec (.ptmResponse h) s = .next t ∧ t.tim.offset = satOffset o ∧ t.tim.now = s.tim.now)

/-- R292 to R297, R337, R410, R428, R429, R442, R449: a calendar entry that is due, whose turn it is and which is not late fires: it counts the
firing, is freed if it has no period and otherwise waits for its next due time, and no other entry changes; then its class acts: a
DEADLINE marks its LAUNCH late, which its context counts, LOW_POWER sets the deepest idle state, a HEARTBEAT is the beat, WAKE does no more, a PHASE rise comes into
force, TELEMETRY writes its record, and an EPOCH starts the next epoch of its schedule with the pace decided for it. The layout of
ARG for a PHASE and the entry that carries a schedule's EPOCH are the model's choices (assumptions 92 and 93). -/
def Obligations.CalendarEntriesFire : Prop :=
  (∀ (s : State) (i : Fin 4096) (e : CalEntry), e.past = false → (s.cal.window = s.now / 100 → s.cal.fired < 64) →
    let fires (c : Instr) (cls : Nat) (then_ : State → Prop) : Prop :=
      s.turnOf i cls = some e → ∃ t, exec c s = .next t ∧ then_ t ∧ t.mem = s.mem ∧ t.cal.late = s.cal.late ∧
        (e.period = 0 → tabGet? t.cal.entries i = none) ∧
        (e.period ≠ 0 → tabGet? t.cal.entries i = some { e with count := e.count + 1, past := false, n := e.n + 1 }) ∧
        ∀ j, j ≠ i.val → tabGet? t.cal.entries j = tabGet? s.cal.entries j
    fires (.deadline i) 3 (fun t => (t.cmds = s.cmds.map fun c => if c.id = e.cmd then { c with launch := c.launch.map fun l => { l with late := true } } else c) ∧
      (∀ c l, s.cmd? e.cmd = some c → c.launch = some l → l.late = false → t.ctx c.ctx = (s.ctx c.ctx).countLate)) ∧
    fires (.lowPower i) 4 (fun t => t.tim = { s.tim with maxState := BitVec.ofNat 3 (e.arg.toNat % 8) }) ∧
    fires (.heartbeat i) 6 (fun t => t.mw = { s.mw with lastBeat := s.tim.now }) ∧
    fires (.wake i) 7 (fun t => t.tim = s.tim ∧ t.mw = s.mw ∧ t.pwr = s.pwr) ∧
    (e.arg.toNat % 2 = 0 → fires (.phaseFire i) 2 (fun t => t.pwr.setPoint = true ∧
      t.pwr.rises = s.pwr.rises ++ [(e.arg.toNat / 2 ^ 8 % 2 ^ 16, s.now + 1000 * (e.arg.toNat / 2 ^ 32), e.context.toNat)]))) ∧
  (∀ (s t : State) (i : Fin 4096) (e : CalEntry), s.turnOf i 5 = some e → s.shut = false → e.past = false →
    (s.cal.window = s.now / 100 → s.cal.fired < 64) →
    s.vwrite (s.hdVia e.context.toNat) (e.arg.toNat / 64 * 64) (s.telemetryRecord e false) = (.ok (), t) →
    exec (.telemetry i) s = .next (t.fireEntry i 5 fun s _ _ => s)) ∧
  (∀ (s : State) (g : Fin 4) (e : CalEntry) (d q : Nat), s.turnOf (1 + g) 1 = some e → e.dueAt s.tim = some d →
    let x := s.sched g
    x.paceGroup.toNat = e.arg.toNat % 65536 → x.state = 3 → x.joining = none → x.epochAt < d → x.decision = some (q, false) →
    ∃ t, exec (.epoch ⟨1 + g.val, by omega⟩) s = .next t ∧ (t.sched g).epoch = x.epoch + 1 ∧
      (t.sched g).pace = BitVec.ofNat 5 q ∧ (t.sched g).epochAt = d ∧ (t.sched g).state = 3 ∧
      (∀ h, h < 4 → h ≠ g.val → t.sched h = s.sched h) ∧ t.mem = s.mem) ∧
  (∀ (s : State), (∀ r ∈ s.pwr.rises ++ s.pwr.falls, r.2.1 ≤ s.now) →
    exec .phaseExpiry s = .next (s.modPwr fun p => { p with rises := [], falls := [], setPoint := false }))

/-- R298 to R300: an idle device enters the deepest idle state that fits; before state 4 the LLC is flushed and holds no line after it. A wake
starts when the next entry that needs compute comes near, and ends in state 0 once memory has left self-refresh. -/
def Obligations.IdleStatesEnterAndWake : Prop :=
  (∀ (s : State), s.isIdle = true → s.tim.wakeEnd = none → s.tim.idle.toNat < s.idleChoice →
    (s.idleChoice < 4 → exec .idleEntry s = .next (s.modTim fun t => { t with
      idle := BitVec.ofNat 3 s.idleChoice, entryEnd := s.now + idleEntry s.idleChoice })) ∧
    (∀ u, s.idleChoice = 4 → s.askOwners = (false, u) → ∃ t, exec .idleEntry s = .next t ∧ t.tim.idle = 4 ∧
      (∀ p ∈ t.cache.slices, p.2.ways = []) ∧ t.cache.agents = [] ∧ t.cores = u.flushAll.cores ∧ t.mem = u.flushAll.mem)) ∧
  (∀ (s : State) (d : Nat), s.nextCompute = some d → 2 ≤ s.tim.idle.toNat → s.tim.wakeEnd = none →
    d ≤ s.now + idleWake s.tim.idle.toNat + 1000 * s.tim.margin.toNat →
    exec .wakeStart s = .next (s.modTim fun t => { t with wakeEnd := some (max s.now s.tim.entryEnd + idleWake s.tim.idle.toNat) })) ∧
  (∀ (s : State) (e : Nat), s.tim.wakeEnd = some e → e ≤ s.now → (∀ p ∈ s.mem.chans, p.2.state ≠ 3) →
    ∃ t, exec .wakeEnd s = .next t ∧ t.tim.idle = 0 ∧ t.tim.wakeEnd = none ∧ t.tim.now = s.tim.now ∧ t.mem = s.mem ∧ t.cores = s.cores)

/-! The fabric (R302 to R330). -/

/-- R306, R308, R309, R313, R314, R358: a flit whose CRC holds and whose SEQ is the next is handed on, its ACK taken and its corrected codewords
counted; one whose CRC fails is discarded; a NAK makes this device replay; a port that has lost a lane stops as a device fault; a packet
for another device leaves by the port of its route; credits come back to their channel and buffer set. -/
def Obligations.FabricPortsReplay : Prop :=
  (∀ (s : State) (k : Fin 18) (flit : BitVec 2144) (n : Nat),
    let p := (s.port k).atMs (s.now / 10 ^ 6)
    s.sup.on = true → p.up = true →
    (crc32 (leBytes 264 (byteFld flit 0 264)) = byteFld flit 264 4 → fld flit 15 0 = (p.rx.last.elim 0 fun x => (x + 1) % 65536) →
      ∃ t, exec (.fabricFlitReceive k flit n) s = .next t ∧ (t.port k).rx.last = some (fld flit 15 0) ∧
        (t.port k).rx.handed = fabricUnits flit ∧ (t.port k).rx.failures = 0 ∧ (t.port k).rx.discarding = false ∧
        (t.port k).tx.last = some (fld flit 31 16) ∧ (t.port k).fec = (s.port k).fec + BitVec.ofNat 64 n ∧
        (t.port k).crcErr = (s.port k).crcErr ∧ ∀ j, j ≠ k.val → t.port j = s.port j) ∧
    (crc32 (leBytes 264 (byteFld flit 0 264)) ≠ byteFld flit 264 4 →
      ∃ t, exec (.fabricFlitReceive k flit n) s = .next t ∧ (t.port k).rx.discarding = true ∧
        (t.port k).rx.failures = p.rx.failures + 1 ∧ (t.port k).rx.last = p.rx.last ∧ (t.port k).rx.handed = p.rx.handed ∧
        (t.port k).crcErr = (s.port k).crcErr + 1 ∧ (t.port k).retries = (s.port k).retries + 1 ∧
        ∀ j, j ≠ k.val → t.port j = s.port j)) ∧
  (∀ (s : State) (k : Fin 18) (ack : BitVec 16), s.sup.on = true → (s.port k).up = true →
    ∃ t, exec (.fabricNak k ack) s = .next t ∧ (t.port k).state = 3 ∧ (t.port k).tx.replaying = true ∧
      (t.port k).tx.last = some ack.toNat ∧ (t.port k).retries = (s.port k).retries + 1 ∧ (t.port k).rx = (s.port k).rx ∧
      ∀ j, j ≠ k.val → t.port j = s.port j) ∧
  (∀ (s : State) (k : Fin 18) (lanes : BitVec 4), (s.port k).up = true → (s.port k).lost = true →
    let p := { s.port k with state := 4, failLanes := lanes, rx := {}, tx := {}, owed := [] }
    ∃ t : State, exec (.fabricPortPersistentFault k lanes) s = .next (t.deviceFault 0x11 (p.word + k.val * 2 ^ 32) 4) ∧ t.port k = p ∧
      t.fab.departed = s.fab.departed.filter (fun d => d.1 != k.val) ∧ (∀ j, j ≠ k.val → t.port j = s.port j) ∧ t.mem = s.mem) ∧
  (∀ (s : State) (k : Fin 28), 10 ≤ k.val → (s.port (k - 10)).up = true →
    exec (.laneLockLoss k) s = .next (s.setPort (k - 10) { s.port (k - 10) with lost := true })) ∧
  (∀ (s : State) (k : Fin 18) (h : BitVec 512) (data : List (BitVec 8)), s.sup.on = true → (s.port k).up = true →
    packetDest h ≠ s.fab.device.toNat → ∀ e, s.route (packetDest h) = some e →
    let p : Packet := { hdr := h, data := data }
    ((s.port e).up = true → ∃ t, exec (.forward k h data) s = .next t ∧ t.fab.departed = s.fab.departed ++ [(e, p)] ∧
      t.fab.discarded = s.fab.discarded ∧ t.mem = s.mem) ∧
    ((s.port e).up = false → ∃ t, exec (.forward k h data) s = .next t ∧ t.fab.departed = s.fab.departed ∧
      t.fab.discarded = s.fab.discarded + 1)) ∧
  (∀ (s : State) (k : Fin 18) (ch : Fin 8) (set : Bool) (n : Nat), s.sup.on = true → (s.port k).up = true →
    let i := 2 * ch.val + b2n set
    ∃ t, exec (.equinoxCreditReturn k ch set n) s = .next t ∧ zGet (t.port k).owed i = zGet (s.port k).owed i - n ∧
      (∀ j, j ≠ i → zGet (t.port k).owed j = zGet (s.port k).owed j) ∧ (∀ d ∈ t.fab.departed, d ∈ s.fab.departed))

/-- R323, R325, R330, R457: a request of another device that passes its CRC, its rights and its parameters is performed at the homes and
answered: a READ or an ATOMIC with its bytes, a write with COMP, which waits while copies of its lines are being invalidated; a request that fails a check is
answered with ERROR and its status and counted, and changes nothing else; one whose CRC fails is discarded and counted. -/
def Obligations.RemoteRequestsAreServed : Prop :=
  (∀ (s u : State) (k : Fin 18) (h : BitVec 512) (data : List (BitVec 8)) (vs : List Served), s.sup.on = true → (s.port k).up = true →
    packetDest h = s.fab.device.toNat → packetOk h data = true → s.judgeIn h = none → s.shut = false → s.tim.idle.toNat < 2 →
    s.accessAll (inboundReqs k h data) = (.ok vs, u) →
    let again := if vs.any (·.reread) then 2 else 0
    let ids := vs.filterMap (·.id)
    let bytes (i : Instr) (op : Nat) : Prop :=
      hf h 0 1 = op → exec i s = .next (u.reply h 0x81 again 0 0 (readBytes (inboundReqs k h data) vs))
    let comp (i : Instr) (op : Nat) : Prop :=
      hf h 0 1 = op → exec i s = .next (if ids = [] then u.reply h 0x82 again 0 (allFlags vs).word []
        else { u with fab := { u.fab with
          inbound := u.fab.inbound ++ [{ hdr := hdrPut h 1 1 again, ids := ids, flags := allFlags vs }] } })
    bytes (.read k h data) 1 ∧ comp (.write k h data) 2 ∧ bytes (.remoteAtomic k h data) 3 ∧ comp (.reduce k h data) 4 ∧
      comp (.counterAdd k h data) 5) ∧
  (∀ (s : State) (k : Fin 18) (h : BitVec 512) (data : List (BitVec 8)), s.sup.on = true → (s.port k).up = true →
    packetDest h = s.fab.device.toNat →
    (packetOk h data = false → exec (.read k h data) s = .next s.discard) ∧
    (packetOk h data = true → ∀ op i, (op, i) ∈ [(1, Instr.read k h data), (2, .write k h data), (3, .remoteAtomic k h data),
        (4, .reduce k h data), (5, .counterAdd k h data)] → hf h 0 1 = op → ∀ st, s.judgeIn h = some st →
      ∃ t, exec i s = .next t ∧ t.fab.inDenied = s.fab.inDenied + 1 ∧ t.mem = s.mem ∧ t.cache = s.cache ∧ t.cores = s.cores) ∧
    (packetOk h data = true → s.judgeIn h = none → s.shut = true → hf h 0 1 = 1 →
      exec (.read k h data) s = .next (s.reply h 0x8F 0 Status.aborted.code 0 []))) ∧
  (∀ (s : State) (h : Line),
    let e := tabGet {} s.fab.segs (hf h 0x10 4 % 2 ^ 21)
    (e.kind ≠ 2 ∨ e.generation.toNat ≠ hf h 0x14 4 ∨ hf h 2 2 < e.device ∨ e.device + e.count ≤ hf h 2 2 ∨
      e.rights.getLsbD (hf h 0 1 - 1) = false → s.judgeIn h = some .denied))

/-- R197, R323, R326, R327: a response whose CRC holds ends the request that it names: DATA delivers its bytes, COMP is counted, ERROR is the
context fault REMOTE_REFUSED on the issuing queue; a response that names no request is discarded; 10 ms without a response is a job fault
that names the requesting context. -/
def Obligations.RemoteResponsesArrive : Prop :=
  (∀ (s : State) (k : Fin 18) (h : BitVec 512) (data : List (BitVec 8)), s.sup.on = true → (s.port k).up = true →
    packetDest h = s.fab.device.toNat → packetOk h data = true → s.shut = false →
    (∀ o, (s.fab.tracker.find? fun o => o.tag == hf h 0x1C 2 % 2 ^ 14) = some o →
      let u : State := { s with fab := { s.fab with tracker := s.fab.tracker.filter fun x => x.tag != o.tag } }
      (hf h 0 1 = 0x81 → exec (.data k h data) s = .next (u.deliver o.dest (hf o.hdr 8 8) data ((hf h 1 1).testBit 1))) ∧
      (hf h 0 1 = 0x82 → (hf h 1 1).testBit 1 = false →
        exec (.remoteComp k h data) s = .next (u.acked o.dest (RedFlags.ofWord (hf h 7 1)))) ∧
      (∀ e : Eng, hf h 0 1 = 0x8F → o.core < 576 → o.queue = e.num → (s.core o.core).resident = true →
        (s.core o.core).stopped = false →
        exec (.error k h data) s = .next (u.faultCtx o.core e { reason := .remoteRefused, status := hf h 6 1 }))) ∧
    ((s.fab.tracker.find? fun o => o.tag == hf h 0x1C 2 % 2 ^ 14) = none → hf h 0 1 = 0x81 →
      exec (.data k h data) s = .next s.discard)) ∧
  (∀ (s : State) (tag : BitVec 14) (o : Outstanding),
    (s.fab.tracker.find? fun o => o.tag == tag.toNat && decide (o.since + 10 ^ 7 ≤ s.now)) = some o → o.core < 576 →
    let u : State := { s with fab := { s.fab with tracker := s.fab.tracker.filter fun x => x.tag != o.tag } }
    exec (.remoteRequestTimeout tag) s = .next (u.jobFault
      { ctx := hf o.hdr 4 1, part := hf o.hdr 5 1 % 16, core := some o.core, queue := o.queue } 0x06 4 0
      (tag.toNat + hf o.hdr 8 8 / 2 ^ 42 * 2 ^ 16))) ∧
  (∀ (s : State) (a : Nat) (bs : List Byte) (owner : Nat) (f : RedFlags),
    s.deliver (.buffer owner) a bs false = { s with fab := { s.fab with arrived := s.fab.arrived ++ [(owner, a, bs)] } } ∧
    (∀ g k n, (s.acked (.stream g k n) f).sched g
      = { s.sched g with str := tabMod {} (s.sched g).str k fun y => { y with written := y.written + n } }))

/-! Solstice (R331 to R361). -/

/-- R341, R343, R346, R347: in its slot, once, a relaying point sends a header with its entry's stream and the units that are due, oldest first, and
counts those that leave after their due slot; the other schedules hold nothing here. R348: a group that arrives for a listed stream is queued at the
point its entry feeds, due in its slot and DELAY; one whose stream no entry takes from there is a collision. -/
def Obligations.SolsticeGroupsAreRelayed : Prop :=
  (∀ (s : State) (g : Fin 4) (p : Fin 4096) (k : Nat) (e : SlotEntry), s.sup.on = true → 576 ≤ p.val → (p.val < 3072 ∨ 3090 ≤ p.val) →
    (∀ j, j < 4 → j ≠ g.val → s.sched j = {}) →
    let x := s.sched g
    x.state = 3 → x.slotNow s.now = some (k, true) → (x.entries.filter fun e => e.point == p.val && e.at_ k) = [e] → e.point = p.val →
    e.source ≠ 4095 → zGet x.sentAt p ≤ x.abs k →
    let key := queueKey p e.stream
    let us := ((tabGet [] x.queues key).takeWhile fun u => decide (u.due ≤ x.abs k)).take e.units
    ∃ t, exec (.slotSend p) s = .next t ∧
      t.sol.wires = s.sol.wires ++ [(p.val, slotHeader x.epoch.toNat k x.tag [(e.stream, us.length)] :: us.map (·.data))] ∧
      tabGet [] (t.sched g).queues key = (tabGet [] x.queues key).drop us.length ∧ zGet (t.sched g).sentAt p = x.abs k + 1 ∧
      (t.sched g).lateCount = x.lateCount + BitVec.ofNat 64 (us.filter fun u => decide (u.due < x.abs k)).length ∧
      t.mem = s.mem ∧ t.cores = s.cores) ∧
  (∀ (s : State) (g : Fin 4) (p : Fin 18) (h : BitVec 512) (us : List (BitVec 512)), s.sup.on = true → (s.port p).up = true →
    let x := s.sched g
    let src := 3200 + p.val
    let slot := lineRd h 4 2 % 4096
    let stream := lineRd h 0x10 2
    (∀ j, j < g.val → (s.sched j).state = 0) → x.state = 3 → x.tag = lineRd h 8 4 → x.epoch.toNat % 2 ^ 32 = lineRd h 0 4 →
    lineRd h 6 1 = 1 → us.length = lineRd h 0x12 2 → us ≠ [] →
    (∀ e, x.fedBy src stream slot = [e] → us.length ≤ e.units → x.held (pointDie e.point) + us.length ≤ s.bufferUnits g (pointDie e.point) →
      let key := queueKey e.point e.stream
      exec (.slotHeaderReceive ⟨src, by omega⟩ h us) s = .next (s.setSched g (x.setQueue key
        (tabGet [] x.queues key ++ us.map fun u => { due := x.epoch.toNat * 4096 + slot + e.delay, data := u })))) ∧
    (x.fedBy src stream slot = [] → exec (.slotHeaderReceive ⟨src, by omega⟩ h us) s = .next (s.collide g 1 src stream slot)))

/-- R334, R335, R348, R350 to R352: a unit whose slot has come lands in its stream's ring and is counted; one that stands 4,096 slots after its due
slot is a collision; a down record that agrees with the epoch, the pace and the tag brings the decision for the next epoch, any other is a
collision; an epoch that starts without its decision is one too. The first collision of a schedule stands in SOL_FAULT_g, and is a job fault. -/
def Obligations.UnitsLandAndRecordsDecide : Prop :=
  (∀ (s t : State) (n : Fin 576) (g : Fin 4) (m : BitVec 16) (k : Nat) (u : SolUnit) (us : List SolUnit) (r : StreamRec),
    let x := s.sched g
    let p := 1024 + n.val
    let y := tabGet {} x.str m.toNat
    let done := if y.slotAt = x.abs k then y.slotCount else 0
    x.slotNow s.now = some (k, true) → tabGet [] x.queues (queueKey p m.toNat) = u :: us →
    (x.streams.find? fun r => r.stream == m.toNat) = some r →
    (∃ e ∈ x.entries, e.point = p ∧ e.stream = m.toNat ∧ e.at_ k = true ∧ done < e.units) → x.state = 3 ∨ x.state = 4 → s.serving = true →
    u.due = x.abs k →
    (s.setSched g ((x.setQueue (queueKey p m.toNat) us).modStr m.toNat fun y => { y with slotAt := x.abs k, slotCount := done + 1 })).landUnit g
      r u.data = some t → exec (.unitLand n g m) s = .next t) ∧
  (∀ (s : State) (g : Fin 4) (p : Fin 4096) (m : BitVec 16) (k : Nat) (b : Bool) (u : SolUnit) (us : List SolUnit),
    let x := s.sched g
    x.slotNow s.now = some (k, b) → tabGet [] x.queues (queueKey p m.toNat) = u :: us → u.due + 4096 ≤ x.abs k → x.state ≠ 5 →
    exec (.unitOverdue g p m) s
      = .next ((s.setSched g (x.setQueue (queueKey p m.toNat) us)).collide g 4 p m.toNat (u.due % 4096))) ∧
  (∀ (s : State) (g : Fin 4) (k : Nat) (b : Bool) (u : SolUnit) (us : List SolUnit),
    let x := s.sched g
    let y := x.setQueue (queueKey 4094 65535) us
    x.state = 3 → x.slotNow s.now = some (k, b) → tabGet [] x.queues (queueKey 4094 65535) = u :: us → u.due = x.abs k →
    (lineRd u.data 0 8 = x.epoch.toNat → lineRd u.data 8 1 = x.pace.toNat → lineRd u.data 12 4 = x.tag → recDown u.data = true →
      x.root = false → x.decision = none →
      ∃ t, exec (.paceRecord g) s = .next t ∧ (t.sched g).decision = some (recQ u.data, recTime u.data) ∧
        (t.sched g).nextQ = BitVec.ofNat 5 (recQ u.data) ∧ (t.sched g).epoch = x.epoch ∧ t.mem = s.mem) ∧
    (lineRd u.data 0 8 ≠ x.epoch.toNat ∨ lineRd u.data 8 1 ≠ x.pace.toNat ∨ lineRd u.data 12 4 ≠ x.tag →
      exec (.paceRecord g) s = .next ((s.setSched g y).collide g 6 4094 65535 (u.due % 4096)))) ∧
  (∀ (s : State) (g : Fin 4),
    let x := s.sched g
    x.state = 3 → x.decision = none → x.epochAt + x.period x.pace.toNat ≤ s.now →
    exec (.paceDecisionMissing g) s = .next (s.collide g 7 4094 65535 0)) ∧
  (∀ (s : State) (g : Fin 4) (cause point stream slot : Nat), (s.sched g).state ≠ 5 → (s.sched g).fault = 0 →
    let t := s.collide g cause point stream slot
    (t.sched g).fault = BitVec.ofNat 64 (pack [(3, cause), (12, point), (16, stream), (12, slot), (21, 0)]) ∧
      (s.recov.state = 0 → s.recov.due < 2 → t.recov.due = 2) ∧ t.mem = s.mem ∧ t.cores = s.cores)

/-- R354 to R356: JOIN puts its schedule into state 2 and tells the leader; the leader takes each member once, and each member measures its offset; when
the last has reported, equal digests, a spread of at most 100 ns and a time of day everywhere give Solstice, at the first multiple of the epoch
period after 20 ms; GO is taken when its T0 is at least 1 ms away and is the command's end otherwise; at T0 the job runs and the command ends; without GO
it ends at its timeout. The bytes of the messages are the model's choice (assumption 120): the statement rests on none of them. -/
def Obligations.JoinFindsOneStart : Prop :=
  (∀ (s u : State) (f : Fin 16) (r : Fin 4) (i : BitVec 32) (c : Cmd), s.starts f r i.toNat 0x1C joinParams c u →
    let g := c.f 0x0C 1
    let leader := c.f 0x0E 2
    let j : Joining := {
      cmd := c.id, leader := leader, context := c.ctx, deadline := u.now + c.f 0x18 4 * 10 ^ 6
      digest := u.joinDigest (u.sched g) leader (c.f 0x10 8), t1 := u.now }
    let v := u.setSched g { u.sched g with state := 2, joining := some j, joinCtx := c.ctx }
    exec (.join f r i) s = .next (if leader = u.fab.device.toNat then v.lead g else v.tell c.ctx leader g)) ∧
  (∀ (s : State) (g : Fin 4) (j : Joining), s.joining g = some j →
    (∀ (d : BitVec 16) (q : BitVec 256), j.leader = s.fab.device.toNat → d.toNat ≠ j.leader → (s.sched g).member d.toNat = true →
      (∀ m ∈ j.members, m.device ≠ d.toNat) →
      exec (.hello g d q) s = .next ((s.setJoining g { j with
        members := j.members ++ [{ device := d.toNat, digest := q }] }).tell j.context d.toNat g)) ∧
    (∀ (t2 t3 : BitVec 64), j.leader ≠ s.fab.device.toNat → j.offset = none →
      exec (.reply g t2 t3) s = .next ((s.setJoining g { j with
        offset := some ((((t2.toNat : Int) - j.t1) - ((s.now : Int) - t3.toNat)) / 2) }).tell j.context j.leader g)) ∧
    (∀ (d : BitVec 16) (o : Int) (tod : Bool) (m : JoinMember), j.leader = s.fab.device.toNat → j.members = [m] → m.device = d.toNat →
      m.offset = none →
      exec (.time g d o tod) s
        = .next ((s.setJoining g { j with members := [{ m with offset := some o, tod := tod }] }).lead g)) ∧
    (j.leader ≠ s.fab.device.toNat → j.go = none → ∀ (cause : Fin 3) (t0 spread : Nat),
      (s.now + 10 ^ 6 ≤ t0 → exec (.go g (.run cause t0 spread)) s = .next (s.go g j cause t0 spread)) ∧
      (t0 < s.now + 10 ^ 6 → exec (.go g (.run cause t0 spread)) s = .next (s.cancel j.cmd .timeout)) ∧
      ∀ d, exec (.go g (.mismatch d)) s = .next (s.mismatch j d)) ∧
    (∀ cause t0 spread, j.go = some (cause, t0, spread) → t0 ≤ s.now →
      let u := s.startRun g cause t0
      let v := (u.setSched g { u.sched g with joining := none }).modCmd j.cmd fun c => { c with info := if cause = 0 then 0 else 1 }
      exec (.joinT0 g) s = .next (v.finish j.cmd .ok 0 (satTo 0xFFFFFFFF spread)) ∧
        (u.sched g).state = (if cause = 0 then 3 else 4) ∧ (u.sched g).t0 = BitVec.ofNat 64 t0 ∧ (u.sched g).epoch = 0) ∧
    (j.go = none → j.deadline ≤ s.now → exec (.joinTimeout g) s = .next (s.cancel j.cmd .timeout)) ∧
    (j.leader = s.fab.device.toNat → j.go = none → j.members.length + 1 = (s.sched g).members → (s.sched g).slotNs ≠ 0 →
      (∀ m ∈ j.members, m.offset.isSome = true ∧ m.digest = j.digest ∧ m.tod = true) → j.spread ≤ 100 → s.tim.todValid = true →
      ∃ t0, (((s.lead g).sched g).joining.bind (·.go)) = some (0, t0, j.spread) ∧ s.now + 20000000 ≤ t0 ∧
        t0 % (s.sched g).period 0 = 0 ∧ t0 < s.now + 20000000 + (s.sched g).period 0))

/-! The host's commands (R363 to R389). -/

/-- R366: a TAIL write that would make TAIL − HEAD, modulo 2^32, exceed 2^SIZE_LOG2 is ignored and sets OVERFLOW; any other is the ring's
TAIL. R365, R367 to R370, R373 to R376: a control write enables a ring of 2^4 to 2^16 packets, whose HEAD and TAIL are then 0, and notes any
other size as its cause; the packet at HEAD is taken once, with its status word PENDING, unless its CRC fails; a packet that cannot be read
disables the ring; a final status writes its word, second half first, raises the interrupt that the packet asks for, and ends the command. -/
def Obligations.RingsGiveTheirCommands : Prop :=
  (∀ (s : State) (f : Fin 16) (k : Fin 4) (v : BitVec 32), s.hostWrites = true → s.tim.idle = 0 →
    let r := s.ring f k
    ∃ t, exec (.hostRingTail f k v) s = .next t ∧
      (2 ^ r.sizeLog2.toNat < (v - r.head).toNat → t.ring f k = { r with overflow := true }) ∧
      ((v - r.head).toNat ≤ 2 ^ r.sizeLog2.toNat → t.ring f k = { r with tail := v }) ∧
      (∀ g j, g ≠ f.val ∨ j ≠ k.val → t.ring g j = s.ring g j) ∧ t.cmds = s.cmds ∧ t.mem = s.mem ∧ t.cores = s.cores) ∧
  (∀ (s : State) (f : Fin 16) (k : Fin 4) (v : BitVec 32), s.hostWrites = true →
    let r := s.ring f k
    let set : Ring := {
      r with ringVa := bit v 30, statusVa := bit v 29, sizeLog2 := BitVec.ofNat 5 (fld v 20 16), vector := BitVec.ofNat 3 (fld v 10 8) }
    (r.enable = true → exec (.hostRingCtrl f k v) s = .next (s.setRing f k { r with enable := bit v 31 })) ∧
    (r.enable = false → bit v 31 = true → 4 ≤ fld v 20 16 → fld v 20 16 ≤ 16 →
      exec (.hostRingCtrl f k v) s = .next (s.setRing f k { set with enable := true, head := 0, tail := 0 })) ∧
    (r.enable = false → bit v 31 = true → fld v 20 16 < 4 ∨ 16 < fld v 20 16 →
      exec (.hostRingCtrl f k v) s = .next (s.setRing f k { set with cause := 1 }))) ∧
  (∀ (s : State) (f : Fin 16) (k : Fin 4) (p : Line), s.mayTake f k = true → (s.ring f k).ringVa = false →
    let r := s.ring f k
    (r.statusVa = false → (∀ d ∈ s.cmds, d.id < s.nextCmd) →
      (crc32 ((lineBytes p).take 60) = byteFld p 0x3C 4 →
        ∃ t c, exec (.packetTake f k (some p)) s = .next t ∧ (t.ring f k).head = r.head + 1 ∧ t.cmds = s.cmds ++ [c] ∧ c.pkt = p ∧
          c.fn = f.val ∧ c.ring = k.val ∧ c.index = r.head ∧ c.id = s.nextCmd ∧ c.started = false ∧ c.status = .pending ∧
          t.host.mem = memWrN (memWrN s.host.mem (hostAddr f (c.statusAt + 8)) (leBytes 8 c.word1)) (hostAddr f c.statusAt)
            (leBytes 8 c.word0) ∧ t.mem = s.mem ∧ t.cores = s.cores) ∧
      (crc32 ((lineBytes p).take 60) ≠ byteFld p 0x3C 4 →
        ∃ t, exec (.packetTake f k (some p)) s = .next t ∧ (t.ring f k).head = r.head + 1 ∧ t.cmds = s.cmds ∧ t.mem = s.mem)) ∧
    exec (.packetTake f k none) s = .next (s.disableRing f k 2) ∧ exec (.packetReadTimeout f k) s = .next (s.disableRing f k 2)) ∧
  (∀ (s : State) (c : Cmd) (st : Status) (detail result : Nat), s.cmd? c.id = some c → c.status = .pending → c.statusVa = false →
    c.mute = false → c.launch = none → st ≠ .pending → st ≠ .partialResult →
    let y := { c with status := st, detail := BitVec.ofNat 16 detail, started := true, waiting := false }
    let d := if c.progresses then y else { y with
      progress := BitVec.ofNat 32 result, mark := BitVec.ofNat 32 (result / 2 ^ 32) }
    let t := s.finish c.id st detail result
    t.cmds = s.cmds.filter (fun x => x.id != c.id) ∧
      t.host.mem = memWrN (memWrN s.host.mem (hostAddr c.fn (c.statusAt + 8)) (leBytes 8 d.word1)) (hostAddr c.fn c.statusAt)
        (leBytes 8 d.word0) ∧
      t.host.msix = s.host.msix ++ (if c.interrupt then [(c.fn, c.vector)] else []) ∧ t.mem = s.mem ∧ t.cores = s.cores ∧ t.ctxs = s.ctxs)

/-- R18, R363, R370, R371, R377, R392: a command in hand whose turn has come starts: its opcode, its rights, a faulted context and its parameters
are judged in this order, and a check that fails ends it with that status; a context that is being torn down makes it wait. -/
def Obligations.CommandsStartInTurn : Prop :=
  ∀ (s : State) (f ring i op : Nat) (params : State → Cmd → Chk) (run : State → Cmd → State) (c : Cmd) (pf : Bool) (n : Nat),
    s.cmdAt f ring i = some c → c.started = false → s.turn c = true → s.serving = true → s.hub.bootStatus = 0 → c.op = op →
    opInfo op = some (n, pf) →
    let u := if c.namesCtx then { s with hdTlb := tabDel s.hdTlb c.ctx } else s
    let v := u.modCmd c.id fun y => { y with started := true, waiting := false }
    (c.namesCtx = true → s.mayName f c.ctx = true → (s.ctx c.ctx).state = .tearing →
      s.startCmd f ring i op params run = u.modCmd c.id fun y => { y with started := true, waiting := true }) ∧
    ((c.namesCtx = true → (s.ctx c.ctx).state ≠ .tearing) → op = 0x03 → 8 ≤ c.f 0x24 1 →
      s.startCmd f ring i op params run = v.finish c.id .badOpcode) ∧
    ((c.namesCtx = true → (s.ctx c.ctx).state ≠ .tearing) → (op = 0x03 → c.f 0x24 1 < 8) →
      (pf = true → f ≠ 0 → s.startCmd f ring i op params run = v.finish c.id .denied) ∧
      ((pf = true → f = 0) → (c.namesCtx = true ∨ op = 0x28) → s.mayName f c.ctx = false →
        s.startCmd f ring i op params run = v.finish c.id .denied) ∧
      ((pf = true → f = 0) → (c.namesCtx = true ∨ op = 0x28 → s.mayName f c.ctx = true) →
        (c.namesCtx = true → (s.ctx c.ctx).state = .faulted → op ≠ 0x01 → op ≠ 0x0A →
          s.startCmd f ring i op params run = v.finish c.id .faulted (s.ctx c.ctx).reason) ∧
        ((c.namesCtx = true → (s.ctx c.ctx).state = .faulted → op = 0x01 ∨ op = 0x0A) →
          (params v c = .ok () → s.starts f ring i op params { c with started := true, waiting := false } v) ∧
          (∀ e, params v c = .error e → s.startCmd f ring i op params run = v.finish c.id e.1 e.2))))

/-- R53, R293, R297, R379 to R382, R387, R393, R447, R482, R483: what the commands about contexts, kernels, the calendar and reports do once they
have started: each ends with OK and its RESULT, or with the status of what it lacks. The layout of ARG for PHASE is the model's choice
(assumption 92). -/
def Obligations.ContextAndCalendarCommands : Prop :=
  ∀ (s u : State) (f : Fin 16) (r : Fin 4) (i : BitVec 32) (c : Cmd),
    (s.starts f r i.toNat 0x00 (fun s c => s.inOrder c (.ok ()) (.ok ()) (.ok ())) c u →
      exec (.cmdNop f r i) s = .next (u.finish c.id .ok)) ∧
    (s.starts f r i.toNat 0x01 queryParams c u → ∀ t, u.resultTo c (c.f 0x0D 1) (c.f 0x18 8) (u.queryBytes c) = (.ok (), t) →
      let n := BitVec.ofNat 32 (c.f 0x14 4)
      exec (.query f r i) s = .next ((t.modCmd c.id fun x => { x with progress := n, mark := n }).finish c.id .ok)) ∧
    (s.starts f r i.toNat 0x02 phaseParams c u →
      let e : CalEntry := {
        due := BitVec.ofNat 64 (c.f 0x0C 8), offset := BitVec.ofNat 32 (c.f 0x14 4), cls := 2, base := (c.f 0x18 1).testBit 0
        arg := BitVec.ofNat 64 (phaseArg (c.f 0x19 1) (c.f 0x1A 2) (c.f 0x1C 4)) }
      (u.armFor c.ctx e = none → exec (.phase f r i) s = .next (u.finish c.id .noResource)) ∧
      (∀ k t, u.armFor c.ctx e = some (k, t) → exec (.phase f r i) s = .next (t.finish c.id .ok 0 k))) ∧
    (s.starts f r i.toNat 0x03 calArmParams c u →
      let e : CalEntry := {
        due := BitVec.ofNat 64 (c.f 0x10 8), period := BitVec.ofNat 64 (c.f 0x18 8), offset := BitVec.ofNat 32 (c.f 0x20 4)
        cls := BitVec.ofNat 8 (c.f 0x24 1), base := (c.f 0x25 1).testBit 0, arg := BitVec.ofNat 64 (c.f 0x28 8) }
      (u.armFor c.ctx e = none → exec (.calArm f r i) s = .next (u.finish c.id .noResource)) ∧
      (∀ k t, u.armFor c.ctx e = some (k, t) → exec (.calArm f r i) s = .next (t.finish c.id .ok 0 k) ∧
        256 ≤ k ∧ tabGet? u.cal.entries k = none ∧ (∀ j, 256 ≤ j → j < k → tabGet? u.cal.entries j ≠ none) ∧
        ∃ x, tabGet? t.cal.entries k = some x ∧ x.due = e.due ∧ x.cls = e.cls ∧ x.context = BitVec.ofNat 8 c.ctx)) ∧
    (s.starts f r i.toNat 0x04 calCancelParams c u →
      let k := c.f 0x0C 4
      let e := tabGet {} u.cal.entries k
      let once : CalEntry := { e with due := BitVec.ofNat 64 (e.due.toNat + e.n * e.period.toNat), period := 0, n := 0 }
      ((∀ d ∈ e.dueAt u.tim, u.now / 100 < d / 100) → exec (.calCancel f r i) s
        = .next (({ u with cal := { u.cal with entries := tabDel u.cal.entries k } } : State).finish c.id .ok)) ∧
      (∀ d, e.dueAt u.tim = some d → d / 100 ≤ u.now / 100 → exec (.calCancel f r i) s
        = .next (({ u with cal := { u.cal with entries := tabSet u.cal.entries k once } } : State).finish c.id .ok))) ∧
    (s.starts f r i.toNat 0x05 attestParams c u →
      let body := padTo 384 (u.report c)
      ∀ t, u.resultTo c (c.f 0x0C 1) (c.f 0x20 8) (body ++ rsaSign u.sec.key body) = (.ok (), t) →
      exec (.attest f r i) s = .next ((t.secEvent 7 f c.ctx).finish c.id .ok 0 768)) ∧
    (s.starts f r i.toNat 0x08 createParams c u →
      ∃ x : Ctx, exec (.ctxCreate f r i) s = .next ((u.setCtx c.ctx x).finish c.id .ok) ∧ x.state = .created ∧ x.creator = f.val ∧
        x.root = BitVec.ofNat 48 (c.f 0x0C 8) ∧ x.share = BitVec.ofNat 16 (c.f 0x14 2) ∧ x.level = BitVec.ofNat 2 (c.f 0x16 1) ∧
        x.exactFault = (c.f 0x17 1).testBit 0 ∧ x.deadFault = (c.f 0x17 1).testBit 1 ∧ x.coreFirst = c.f 0x18 2 ∧
        x.coreCount = c.f 0x1A 2 ∧ x.tear = none ∧ x.durations = [] ∧ x.switches = 0 ∧ x.late = 0) ∧
    (s.starts f r i.toNat 0x09 attrParams c u →
      let m := c.f 0x0C 1
      let x := u.ctx c.ctx
      exec (.ctxAttr f r i) s = .next ((u.setCtx c.ctx { x with
        share := if m.testBit 0 then BitVec.ofNat 16 (c.f 0x0E 2) else x.share
        level := if m.testBit 1 then BitVec.ofNat 2 (c.f 0x10 1) else x.level
        exactFault := if m.testBit 2 then (c.f 0x11 1).testBit 0 else x.exactFault
        deadFault := if m.testBit 2 then (c.f 0x11 1).testBit 1 else x.deadFault }).finish c.id .ok)) ∧
    (s.starts f r i.toNat 0x0A (fun s c => s.inOrder c (.ok ()) (.ok ()) (.ok ())) c u → (u.ctx c.ctx).tear = none →
      exec (.ctxDestroy f r i) s = .next (u.setCtx c.ctx { u.ctx c.ctx with
        state := .tearing, tear := some { cause := .destroy, cmd := some c.id, started := u.now } })) ∧
    (s.starts f r i.toNat 0x0B apertureParams c u →
      ((c.f 0x14 1).testBit 0 = true → exec (.aperture f r i) s = .next ((u.setFn f { u.fn f with
        mapped := true, context := BitVec.ofNat 8 c.ctx, vaBase := BitVec.ofNat 34 (c.f 0x0C 8 / 2 ^ 30) }).finish c.id .ok 0
          (u.fn f).bar2Word)) ∧
      ((c.f 0x14 1).testBit 0 = false → exec (.aperture f r i) s = .next ((u.setFn f { u.fn f with
        mapped := false, context := 0, vaBase := 0 }).finish c.id .ok 0 (u.fn f).bar2Word))) ∧
    (s.starts f r i.toNat 0x10 (fun s c => if (s.ctx c.ctx).state = .free then s.headChecks c 33 else .ok ()) c u → ∀ d t,
      c.f 0x14 8 = 0 → u.vread { u.hdVia c.ctx with checked := true } (c.f 0x0C 8) 128 = (.ok d, t) →
      (launchChecks t c d none = .ok () → exec (.launch f r i) s = .next (t.beginLaunch c d none)) ∧
      (∀ e, launchChecks t c d none = .error e → exec (.launch f r i) s = .next (t.finish c.id e.1 e.2))) ∧
    (s.starts f r i.toNat 0x11 abortParams c u →
      let named := u.cmds.find? fun d => d.fn == c.fn && d.ring == c.f 0x0C 1 && d.seq == c.f 0x10 4 && d.id != c.id && !d.status.final
      (named = none → exec (.abort f r i) s = .next (u.finish c.id .ok)) ∧
      (∀ d, named = some d → exec (.abort f r i) s = .next ((u.cancel d.id).finish c.id .ok 0 1))) ∧
    (s.starts f r i.toNat 0x25 idleParams c u → exec (.idleConfig f r i) s = .next (({ u with tim := { u.tim with
      maxState := BitVec.ofNat 3 (c.f 0x0C 1), margin := BitVec.ofNat 10 (c.f 0x0E 2) } } : State).finish c.id .ok))

/-- R274, R287, R290, R316, R318 to R320, R345, R383 to R386: what the commands about segments, schedules, partitions, partner sites, time and resets do
once they have started. -/
def Obligations.SegmentScheduleAndPartitionCommands : Prop :=
  ∀ (s u : State) (f : Fin 16) (r : Fin 4) (i : BitVec 32) (c : Cmd),
    (s.starts f r i.toNat 0x18 segMapParams c u →
      let k := c.f 0x0C 4
      let g := segOf fun off n => c.f (0x10 + off) n
      let gen := u.fab.lastGen k + 1
      (g.kind = 2 → exec (.segMap f r i) s = .next (({ u with fab := { u.fab with
        segs := tabSet u.fab.segs k { g with generation := gen }, gens := tabSet u.fab.gens k gen } } : State).finish c.id .ok 0 gen.toNat)) ∧
      (g.kind ≠ 2 → exec (.segMap f r i) s
        = .next (({ u with fab := { u.fab with segs := tabSet u.fab.segs k g } } : State).finish c.id .ok))) ∧
    (s.starts f r i.toNat 0x19 segUnmapParams c u → (∀ m ∈ u.fab.unmaps, m.2 ≠ c.id) → u.fab.inbound = [] → u.fab.tracker = [] →
      exec (.segUnmap f r i) s
        = .next (({ u with fab := { u.fab with segs := tabDel u.fab.segs (c.f 0x0C 4) } } : State).finish c.id .ok)) ∧
    (s.starts f r i.toNat 0x1A (fun s c => if (s.ctx c.ctx).state = .free then s.headChecks c 16 else .ok ()) c u → ∀ b t v,
      u.vread { u.hdVia c.ctx with checked := true } (c.f 0x10 8) (imageSpan (c.f 0x18 4)) = (.ok b, t) →
      let m := imageOf b
      let x := m.load (t.sched (c.f 0x0C 1))
      c.f 0x18 4 = imageLength m.head → State.allReach x.streams t = (.ok (), v) →
      let w := v.modCmd c.id fun y => { y with progress := BitVec.ofNat 32 (c.f 0x18 4), mark := BitVec.ofNat 32 (c.f 0x18 4) }
      (loadChecks w c m x (c.f 0x18 4) true = .ok () → exec (.schedLoad f r i) s = .next (((w.setSched (c.f 0x0C 1) x).extendP
        x.partition.toNat (leBytes 1 (c.f 0x0C 1) ++ x.digest ++ leBytes 8 x.job.toNat)).finish c.id .ok) ∧ x.state = 1) ∧
      (∀ e, loadChecks w c m x (c.f 0x18 4) true = .error e → exec (.schedLoad f r i) s = .next (w.finish c.id e.1 e.2))) ∧
    (s.starts f r i.toNat 0x1B stopParams c u →
      let g := c.f 0x0C 1
      (2 ≤ (u.sched g).state.toNat → (c.f 0x0D 1).testBit 0 = false →
        exec (.schedStop f r i) s = .next ((u.haltSched g).finish c.id .ok)) ∧
      ((u.sched g).state.toNat < 2 → (c.f 0x0D 1).testBit 0 = true →
        ∃ x : Schedule, exec (.schedStop f r i) s = .next ((u.setSched g x).finish c.id .ok) ∧ x.state = 0 ∧ x.entries = [] ∧
          x.streams = [] ∧ x.fault = (u.sched g).fault ∧ x.lateCount = (u.sched g).lateCount)) ∧
    (s.starts f r i.toNat 0x20 partParams c u →
      let p := c.f 0x0C 1
      let sealed := (c.f 0x0D 1).testBit 0
      let new : LlcPart := {
        sealed := sealed, missResv := BitVec.ofNat 3 (c.f 0x14 1), ways := BitVec.ofNat 12 (c.f 0x0E 2)
        cycles := BitVec.ofNat 16 (c.f 0x10 2), windows := BitVec.ofNat 16 (c.f 0x12 2) }
      ∀ v w, (if sealed then u.fenceSites else (true, u)) = (true, v) → v.purge (affectedWays (u.llcPart p) new) = (true, w) →
      ∃ t : State, exec (.partConfig f r i) s = .next ((t.extendP p (leBytes 12 (c.f 0x0C 12))).finish c.id .ok) ∧ t.llcPart p = new ∧
        (∀ q, q ≠ p → t.llcPart q = w.llcPart q) ∧ (t.part p).sealed = sealed ∧ (t.part p).solShare = c.f 0x15 1 ∧
        (t.part p).powerW = c.f 0x16 2 ∧ t.cores = w.cores ∧ t.mem = w.mem) ∧
    (s.starts f r i.toNat 0x21 fwParams c u → ∀ host : List (BitVec 8), c.f 0x0D 1 = 0 →
      let k := c.f 0x0C 1
      let n := c.f 0x0F 1
      let rules := (List.range n).foldl (fun t j =>
        tabSet t (c.f 0x0E 1 + j) (BitVec.ofNat 256 (byteAt (padTo (32 * n) host) (32 * j) 32))) (u.site k).rules
      let y := { (u.site k).load rules u.now with fwRun := true }
      (rulesOk rules = true → exec (.fwRules f r i host) s = .next ((u.setSite k y).finish c.id .ok 0 y.validRules)) ∧
      (rulesOk rules = false → exec (.fwRules f r i host) s = .next (u.finish c.id .badParam 0xFFFF))) ∧
    (s.starts f r i.toNat 0x22 siteResetParams c u →
      let k := c.f 0x0C 1
      ((u.site k).resetBy = c.id → (u.site k).state ≠ .training → exec (.siteReset f r i) s
        = .next ((u.setSite k { u.site k with resetBy := 0 }).finish c.id .ok 0 (u.site k).word)) ∧
      ((u.site k).resetBy ≠ c.id → (u.site k).outbound = [] → ∃ t, exec (.siteReset f r i) s = .next t ∧ (t.site k).state = .training ∧
        (t.site k).resetBy = c.id ∧ (t.site k).held = [] ∧ (t.link (8 + k)).state = 1 ∧ t.mem = u.mem)) ∧
    (s.starts f r i.toNat 0x23 timeConfigParams c u → exec (.timeConfig f r i) s = .next ((u.modTim fun t =>
      t.configure (c.f 0x0C 1) (c.f 0x0D 1) (c.f 0x0E 1) (c.f 0x0F 1) ((c.f 0x10 1).testBit 0) (BitVec.ofNat 16 (c.f 0x14 2))
        (BitVec.ofNat 16 (c.f 0x16 2))).finish c.id .ok)) ∧
    (s.starts f r i.toNat 0x24 timeSetParams c u → ∃ t, exec (.timeSet f r i) s = .next t ∧ t.tim.setTo = some (c.f 0x0C 8, c.id) ∧
      t.tim.now = u.tim.now ∧ t.mem = u.mem ∧
      ∀ x ∈ t.cmds, x.id = c.id → x.limit = u.now + 2 * 10 ^ 9) ∧
    (s.starts f r i.toNat 0x28 resetParams c u → u.recov.state = 0 → u.recov.due = 0 →
      ∃ t, exec (.reset f r i) s = .next t ∧ t.recov.due = (if c.f 0x0C 1 = 0 then 2 else 3) ∧ t.log.next = u.log.next + 1 ∧
        t.mem = u.mem ∧ t.cores = u.cores)

/-- R12, R15, R171, R364, R366, R388, R451, R457, R486: BAR2 reads and writes act through the aperture's context once it is mapped; a read of a 64-bit
register's low word latches its high word, which the next read of that word consumes; register writes reach the registers that have an effect;
a Function Level Reset leaves the function as at reset and tears down the contexts it made. -/
def Obligations.HostAccessesReachTheDevice : Prop :=
  (∀ (s : State) (f : Fin 16) (off : BitVec 36), s.hostUp = true → s.shut = false → (s.fn f).mapped = true → s.tim.idle = 0 →
    let v := s.bar2Via f
    let va := (s.fn f).va off.toNat
    (∀ bs u, (s.checkRange v .write (cut va bs.length)) = (.ok (), u) → exec (.bar2Write f off bs) s = .next (u.vwrite v va bs).2) ∧
    (∀ (n : Fin 4097) bs u, s.vread v va n = (.ok bs, u) →
      exec (.bar2Read f off n) s = .next (u.setFn f { u.fn f with bar2Data := some bs, bar2Abort := false }))) ∧
  (∀ (s : State) (f : Fin 16) (off : BitVec 36) (n : Fin 4097) (bs : List (BitVec 8)), s.hostUp = true → s.shut = false →
    (s.fn f).mapped = false →
    exec (.bar2Write f off bs) s = .next s ∧
      exec (.bar2Read f off n) s = .next (s.setFn f { s.fn f with bar2Data := none, bar2Abort := false })) ∧
  (∀ (s : State) (f : Fin 16) (off : BitVec 24), s.hostUp = true → off.toNat % 4 = 0 →
    let r := s.regView f off.toNat
    (∀ w, tabGet? (s.fn f).latches off.toNat = some w →
      ∃ t, exec (.latchedRead f off false) s = .next t ∧ (t.fn f).bar0Data = BitVec.ofNat 64 w.toNat ∧
        (t.fn f).latches = tabDel (s.fn f).latches off.toNat ∧ (t.fn f).rings = (s.fn f).rings) ∧
    (tabGet? (s.fn f).latches off.toNat = none → off.toNat = r.base → r.words = 2 →
      ∃ t, exec (.latchedRead f off false) s = .next t ∧ (t.fn f).bar0Data = BitVec.ofNat 64 (r.word off.toNat) ∧
        tabGet? (t.fn f).latches (off.toNat + 4) = some (BitVec.ofNat 32 (r.word (off.toNat + 4))))) ∧
  (∀ (s : State) (f : Fin 16) (v : BitVec 64), s.hostWrites = true →
    let w : BitVec 32 := BitVec.ofNat 32 v.toNat
    exec (.registerWrite f 0x600014 v false) s = .next (s.writeTail f 0 w) ∧
      exec (.registerWrite f 0x6000D0 v false) s = .next (s.writeRingCtrl f 3 w) ∧
      exec (.registerWrite f 0x64000C v false) s = .next (s.writeMwCtrl f w) ∧
      exec (.registerWrite f 0x540400 v false) s = .next (s.writeInject f w) ∧
      (s.sec.locked = true → exec (.registerWrite f 0x680004 v false) s = .next (s.secEvent 6 f 0x680004)) ∧
      exec (.registerWrite f 0x000000 v false) s = .next s) ∧
  (∀ (s : State) (f : Fin 16), ∃ t, exec (.functionLevelReset f) s = .next t ∧ t.fn f = {} ∧
    ((∀ c ∈ s.cmds, c.fn ≠ f.val) → t.cmds = s.cmds ∧ t.mem = s.mem ∧ t.cores = s.cores ∧
      ∀ k x, s.ctxs = [(k, x)] → x.creator = f.val → x.tear = none → x.state = .active → (t.ctx k).state = .tearing))

/-! Sharing the cores (R380, R399 to R412). -/

/-- R399, R400, R402 to R405, R408, R409, R380, R411, R412: a free core goes to the waiting context of the smallest virtual time, and one held for 1 ms is
given on; a pre-emption whose core is drained saves the kernel, vacates the core and gives it on; the deadline monitor switches a LAUNCH to
its fallback when the projection passes the deadline; a kernel past its run limit has its context torn down, step by step. -/
def Obligations.CoresAreShared : Prop :=
  (∀ (s : State) (n : Fin 576) (x : Nat), s.serving = true → (s.core n).assigned = false → (s.core n).stopped = false →
    ((s.core n).resident = false → smallestV (s.plan n).v (s.waitingOn n) = some x →
      exec (.schedulerDecision n) s = .next (s.giveCore n x)) ∧
    (let me := (s.core n).context.toNat;
      (s.core n).resident = true → (s.plan n).next = none → (s.plan n).since + 10 ^ 6 ≤ s.now →
      smallestV (s.plan n).v (me :: (s.waitingOn n).filter (· != me)) = some x →
      exec (.schedulerDecision n) s = .next (s.setPlan n (if x = me then { s.plan n with since := s.now }
        else { s.plan n with next := some x })))) ∧
  (∀ (v : Tab Nat) (l : List Nat) (x : Nat), smallestV v l = some x → x ∈ l ∧ ∀ y ∈ l, zGet v x ≤ zGet v y) ∧
  (∀ (s : State) (n : Fin 576) (x : Nat), (s.plan n).next = some x → s.live n = true → s.quiet n = false →
    (s.waitingOn n).contains x = true →
    let v := (State.drainStores n 32 (s.modCore n fun c => Core.finishVxe 64 c)).finishCopies n
    let c := v.core n
    let me := c.context.toNat
    v.live n = true → v.drained n = true →
    ∃ w : State, exec (.preemption n) s = .next (w.giveCore n x) ∧ w.savedOn me n = some (c.toSave v.now (v.plan n).since) ∧
      (w.ctx me).switches = (v.ctx me).switches + 1 ∧ (w.core n).resident = false ∧ (w.core n).sp = [] ∧ (w.plan n).next = none ∧
      (∀ m, m ≠ n.val → w.core m = v.core m) ∧ w.mem = v.mem) ∧
  (∀ (s : State) (f : Fin 16) (k : Fin 4) (i : BitVec 32) (c : Cmd) (l : Launch), s.cmdAt f k i.toNat = some c → c.launch = some l →
    s.serving = true →
    ((s.ctx c.ctx).state ≠ .tearing → exec (.deadlineEvaluation f k i) s = .next (s.evaluate c l)) ∧
    (s.deadlineOf l = none → s.evaluate c l = s) ∧
    (∀ d, s.deadlineOf l = some d → ∀ p, l.fall = some p → l.switched = false →
      let m := { l with late := l.late || decide (d < s.now) }
      let u := if d < s.now then s.noteLate c l else s
      d < u.projection c m ∨ d ≤ s.now + (u.ctx c.ctx).longest p.desc + 100000 → s.evaluate c l = u.switchModel c m p) ∧
    (l.startAt + l.runLimit * 10 ^ 6 ≤ s.now → (s.ctx c.ctx).tear = none →
      exec (.runLimitExpiry f k i) s = .next (s.setCtx c.ctx { s.ctx c.ctx with
        state := .tearing, tear := some { cause := .runLimit, cmd := some c.id, started := s.now } }))) ∧
  (∀ (s : State) (k : BitVec 8) (t : Teardown), s.serving = true → (s.ctx k.toNat).tear = some t →
    (t.step = 0 → ∃ u, exec (.teardown k) s = .next u ∧ (u.ctx k.toNat).tear = some { t with step := 1 } ∧
      tabGet? u.saved k.toNat = none ∧ (∀ n ∈ s.ctxCores k.toNat, (u.core n).stopped = true) ∧ u.mem = s.mem) ∧
    (t.step = 1 → s.answered k.toNat = true →
      exec (.teardown k) s = .next (s.setCtx k.toNat { s.ctx k.toNat with tear := some { t with step := 2 } })) ∧
    (t.step = 2 → exec (.teardown k) s = .next ((s.release k.toNat t).setStep k.toNat 3)) ∧
    (t.step = 3 → exec (.teardown k) s = .next ((s.tearStatuses k.toNat t).setStep k.toNat 4)) ∧
    (t.step = 4 → t.cause = .fault ∨ t.cause = .runLimit → exec (.teardown k) s = .next (s.setCtx k.toNat { s.ctx k.toNat with
      state := .faulted, tear := none, reason := t.reason })) ∧
    (t.step = 4 → t.cause = .flr → exec (.teardown k) s = .next (s.setCtx k.toNat (s.ctx k.toNat).freed)) ∧
    (∀ id, t.step = 4 → t.cause = .destroy → t.cmd = some id →
      exec (.teardown k) s = .next ((s.setCtx k.toNat (s.ctx k.toNat).freed).finish id .ok)))

/-! Power and temperature (R417 to R442). -/

/-- R418, R419, R421, R423 to R425, R435 to R440: every window adds each core's estimate to its energy; each millisecond sets a die's ratio, held in its
range; a droop stretches the clock at most once in 32 cycles; each step of the loop adds (3,000 W − p) × 100 µs to the boost credit, clamped to 0
to 6 J, and its level falls by at most 4 and fits the target where a level does; HOT, its end, the trip at 105 °C and the coolant flag follow their times. -/
def Obligations.PowerIsCapped : Prop :=
  (∀ (s : State) (temps : List (BitVec 12)) (mv : List Nat), s.sup.on = true → s.sup.partOff = false → s.pwr.windowAt + 2000 ≤ s.now →
    ∃ t, exec (.estimateWindow temps mv) s = .next t ∧ t.pwr.windowAt = s.now ∧ t.pwr.stretched = [] ∧ t.mem = s.mem ∧
      ∀ n, n < 576 → (t.core n).energy = (s.core n).energy + Config.dynamicEnergy (s.core n).activity ∧
        (t.core n).leak = (s.core n).leak + Config.leakEnergy (temps.getD (n / 12) 0).toNat (mv.getD (n / 144) 0) ∧
        (t.core n).counts = [] ∧ (t.core n).sp = (s.core n).sp) ∧
  (∀ (s : State) (d : Fin 5) (e : Nat), s.sup.on = true → zGet s.pwr.calAt d + 10 ^ 6 ≤ s.now →
    ∃ t, exec (.calibration d e) s = .next t ∧ tabGet 0 t.pwr.measured d = BitVec.ofNat 16 (e / 10 ^ 6) ∧ zGet t.pwr.msEnergy d = 0 ∧
      (d.val < 4 → zGet s.pwr.msEnergy d ≠ 0 → tabGet 0 t.pwr.ratios d
        = BitVec.ofNat 16 (max 0x6000 (min 0xA000 (roundDiv (e * 2 ^ 15) (zGet s.pwr.msEnergy d))))) ∧
      (d.val = 4 → t.pwr.ratios = s.pwr.ratios)) ∧
  (∀ (s : State) (d : Fin 4), s.sup.on = true → zGet s.pwr.stretchAt d + 18 ≤ s.now →
    ∃ t, exec (.droopDetect d) s = .next t ∧ tabGet 0 t.pwr.stretches d = tabGet 0 s.pwr.stretches d + 1 ∧
      zGet t.pwr.stretchAt d = s.now ∧ t.cores = s.cores) ∧
  (∀ (s : State) (p : Nat) (tj : BitVec 12) (d : Fin 5), s.sup.on = true → s.pwr.lastStep + 100000 ≤ s.now →
    ∃ t, exec (.cappingLoopStep p tj d) s = .next t ∧
      (t.pwr.credit : Int) = max 0 (min ((s.pwr.credit : Int) + (3000000 - (p : Int)) * 100) 6000000000) ∧
      t.pwr.thermal = thermalNext s.pwr.thermal p tj.toNat s.memHot ∧
      t.pwr.target = min (if 60000000 ≤ t.pwr.credit then 3600000 else 3000000) t.pwr.thermal ∧
      t.pwr.energy = s.pwr.energy + p * 100 ∧ t.pwr.tjMax = tj ∧ t.pwr.lastStep = s.now ∧
      (∀ n, n < 576 → (t.core n).energy = 0 ∧ (t.core n).leak = 0 ∧ (t.core n).sp = (s.core n).sp) ∧ t.mem = s.mem) ∧
  (∀ (full leak old : Nat) (room : Int), old - 4 ≤ levelFor full leak old room ∧
    ((∃ t, t < 16 ∧ (predicted full leak t : Int) ≤ room) → (predicted full leak (levelFor full leak old room) : Int) ≤ room)) ∧
  (∀ (s : State), s.pwr.sealBreach = true → s.pwr.breachAt + 10 ^ 8 ≤ s.now →
    exec .sealBreachClear s = .next (s.modPwr fun p => { p with sealBreach := false })) ∧
  (∀ (s : State) (since : Nat), s.pwr.hot = false → s.pwr.hotSince = some since → since + 10 ^ 6 ≤ s.now →
    ∃ t, exec .hot s = .next t ∧ t.pwr.hot = true ∧ (∀ n, n < 576 → 12 ≤ (t.core n).level.toNat) ∧
      ∀ g, (s.sched g).state = 3 → (t.sched g).govReq = 24) ∧
  (∀ (s : State) (since : Nat), s.pwr.hot = true → s.pwr.coolSince = some since → since + 10 ^ 7 ≤ s.now →
    exec .hotClear s = .next (s.modPwr fun p => { p with hot := false })) ∧
  (∀ (s : State) (k : Fin 68) (r : BitVec 12), s.sup.on = true → 105 * 16 ≤ r.toNat →
    ∃ t, exec (.thermalTrip k r) s = .next t ∧ t.pwr.therm = true ∧ t.pwr.tjMax = r ∧ (∀ c ∈ t.cores, c.2.stopped = true) ∧
      t.recov.noPower = true ∧ t.log.next = s.log.next + 1 ∧ (s.recov.state = 0 → s.recov.due < 3 → t.recov.due = 3) ∧ t.mem = s.mem) ∧
  (∀ (s : State), s.sup.on = true → s.thermistor = true →
    exec (.coolantRead none) s = .next (s.modPwr fun p => { p with coolantValid := false }) ∧
    ∀ r : BitVec 12, ∃ t, exec (.coolantRead (some r)) s = .next t ∧ t.pwr.coolant = r ∧ t.pwr.coolantValid = true ∧
      (∀ w, 40 * 16 < r.toNat → s.pwr.inletSince = some w → w + 10 ^ 9 ≤ s.now → t.pwr.coolantHigh = true) ∧
      (∀ w, r.toNat ≤ 39 * 16 → s.pwr.inletCool = some w → w + 10 ^ 10 ≤ s.now → t.pwr.coolantHigh = false) ∧
      (39 * 16 < r.toNat → r.toNat ≤ 40 * 16 → t.pwr.coolantHigh = s.pwr.coolantHigh))

/-! Recoveries, boot and supplies. -/

/-- R449 to R451, R455, R458 to R462: 50 ms without a beat, and FORCE_HANG written through the physical function, are a hang, which makes a
compute-part reset due; FORCE_HANG during a recovery is ignored. The reset and the full recovery run step by step: at the first the cores stop, and after
the last the device is in service, or out of it; each that overruns its bound gives way to the next harder measure. A fault notice of a job stops it. -/
def Obligations.RecoveriesRunTheirSteps : Prop :=
  (∀ (s : State), s.recov.state = 0 → s.recov.due < 2 →
    let hangs (c : Instr) : Prop := ∃ t, exec c s = .next t ∧ t.mw.hang = true ∧ t.recov.due = 2 ∧ t.log.next = s.log.next + 1 ∧
      (∃ r, tabGet? t.log.recs t.recov.record = some r ∧ r.cls = 2 ∧ r.cause = 0x07 ∧ r.tagValid = false) ∧ t.mem = s.mem
    (s.sup.on = true → s.hub.bootStatus = 0 → s.mw.lastBeat.toNat + 5 * 10 ^ 7 ≤ s.now → hangs .midwinterHang) ∧
    (∀ v : BitVec 32, s.hostWrites = true → bit v 31 = true → hangs (.forceHang 0 v))) ∧
  (∀ (s : State) (f : Fin 16) (v : BitVec 32), s.hostWrites = true →
    (f ≠ 0 → exec (.forceHang f v) s = .next s) ∧
    (s.recov.state ≠ 0 → ∃ t, exec (.forceHang f v) s = .next t ∧ t.mw.hang = s.mw.hang ∧ t.recov = s.recov ∧ t.log = s.log)) ∧
  (∀ (s : State) (bist : List (Fin 48 × BitVec 13)), s.sup.on = true → s.sup.partOff = false →
    (s.recov.state = 0 → s.recov.due = 2 → ∃ t, exec (.computePartReset bist) s = .next t ∧ t.recov.state = 1 ∧ t.recov.step = 1 ∧
      t.recov.due = 0 ∧ t.recov.computeResets = BitVec.ofNat 8 (min 255 (s.recov.computeResets.toNat + 1)) ∧
      (∀ c ∈ t.cores, c.2.stopped = true) ∧ t.cache.coh.down = true ∧ t.mem.bytes = s.mem.bytes) ∧
    (s.recov.state = 1 → s.recov.due ≠ 3 → s.recov.step.toNat < 7 → exec (.computePartReset bist) s
      = .next (({ s with recov := { s.recov with step := s.recov.step + 1 } } : State).computeStep (s.recov.step.toNat + 1) bist)) ∧
    (s.recov.state = 1 → s.recov.due ≠ 3 → s.recov.step = 7 → ∃ t, exec (.computePartReset bist) s = .next t ∧
      (t.recov.state = 0 ∨ t.recov.state = 3) ∧ t.recov.due = 0 ∧ t.mw.lastBeat = t.tim.now)) ∧
  (∀ (s : State), s.recov.state = 1 → s.recov.due ≠ 3 → s.recov.detected + 25 * 10 ^ 7 ≤ s.now →
    ∃ t, exec .resetOverrun s = .next t ∧ t.mw.overrun = true ∧ t.recov.due = 3 ∧ t.recov.state = 1 ∧ t.mem = s.mem) ∧
  (∀ (s : State) (x : RecoveryInputs), s.sup.on = true → s.sup.partOff = false → s.pwr.therm = false ∨ x.cool = true →
    (s.recov.state = 0 → s.recov.due = 3 → ∃ t, exec (.fullRecovery x) s = .next t ∧ t.recov.state = 2 ∧ t.recov.step = 1 ∧
      t.recov.due = 0 ∧ t.recov.started = s.now ∧ t.pwr.therm = false ∧
      t.recov.fullRecoveries = BitVec.ofNat 8 (min 255 (s.recov.fullRecoveries.toNat + 1)) ∧ (∀ c ∈ t.cores, c.2.stopped = true)) ∧
    (s.recov.state = 2 → s.recov.step = 7 → ∃ t, exec (.fullRecovery x) s = .next t ∧ t.recov.state = 0 ∧ t.recov.due = 0 ∧
      t.recov.memLost = !s.recov.refreshed)) ∧
  (∀ (s : State), s.recov.state = 2 → s.sup.partOff = false → s.recov.started + 6 * 10 ^ 9 ≤ s.now →
    ∃ t, exec .recoveryOverrun s = .next t ∧ t.recov.state = 3 ∧ t.hub.bootStatus = 0x31 ∧ t.mem = s.mem) ∧
  (∀ (s : State) (n : BitVec 512) (g : Nat), s.sup.on = true → s.shut = false → lineRd n 0 1 = 0x10 →
    crc32 ((lineBytes n).take 60) = lineRd n 0x3C 4 → s.noticed n = some g → (s.sched g).joining = none →
    (∀ c ∈ s.cmds, c.launch = none) →
    ∃ t, exec (.faultNotice n) s = .next t ∧ (t.sched g).state = 5 ∧ t.log.next = s.log.next + 1 ∧ t.cmds = s.cmds ∧ t.mem = s.mem ∧
      ∃ r, tabGet? t.log.recs s.log.next.toNat = some r ∧ r.cls = 4 ∧ r.cause = BitVec.ofNat 8 (lineRd n 2 1) ∧
        r.srcDevice = BitVec.ofNat 16 (lineRd n 4 2))

/-- R476, R477, R491: with its supply in range, PWR_OK and RESET_N high, the always-on domain leaves reset; boot then runs its steps: one that fails ends it
with BOOT_STATUS FAULTED and its reason, and where all succeed the device is in service, memory holds zero but for the image copy, and the lock is set. -/
def Obligations.BootEntersService : Prop :=
  (∀ (s : State), s.sup.on = false → s.sup.pwrOk = true → s.sup.resetN = true →
    (s.sup.mainOk = true → exec .powerUp s = .next { s with
      sup := { s.sup with on := true }, host := { s.host with linkUp := s.sup.refclkOk } }) ∧
    (s.sup.mainOk = false → exec .powerUp s = .next { s with sup := { s.sup with pwrOkBad := true } })) ∧
  (∀ (s : State) (b : BootInputs), s.sup.on = true → s.hub.bootStatus = 1 → s.sup.partOff = false →
    (∀ t, s.bootImage b = .error t → exec (.boot b) s = .next t ∧ t.hub.bootStatus = 0x31 ∧ t.sec.locked = true) ∧
    (b.seed = false → ∃ t, exec (.boot b) s = .next t ∧ t.hub.bootStatus = 0x31 ∧ t.sec.reason = 1 ∧ t.sec.locked = true) ∧
    (∀ u i, s.bootImage b = .ok (u, i) →
      (∀ t code, u.buildMap b.map b.sparing (some b.factory) = .error (t, code) →
        ∃ v, exec (.boot b) s = .next v ∧ v.hub.bootStatus = BitVec.ofNat 8 code ∧ v.sec.locked = true) ∧
      (∀ v, u.buildMap b.map b.sparing (some b.factory) = .ok v →
        (∀ t, v.bootRecords b = .error t → exec (.boot b) s = .next t ∧ t.hub.bootStatus = 0x31 ∧ t.sec.locked = true) ∧
        (∀ w t, v.bootRecords b = .ok w → w.bootTrain b.train = .error t →
          exec (.boot b) s = .next t ∧ t.hub.bootStatus = 0x31 ∧ t.sec.locked = true) ∧
        (∀ w x, v.bootRecords b = .ok w → w.bootTrain b.train = .ok x → b.raise9 = true →
          ∃ t, exec (.boot b) s = .next t ∧ t.hub.bootStatus = 0 ∧ t.sec.locked = true ∧ t.mem.bytes = bootMemory i ∧
            t.fab.segs = joinExports x.fab.size ∧ t.cores = x.cores))))

/-- R488 to R495, R497, R500: the always-on domain goes over to VIN_AUX below 10.8 V and back at 11.2 V; the loss of VIN_MAIN and a fall of PWR_OK take the compute part
down as a device fault; short levels of PWR_OK and RESET_N are counted; RESET_N and the reference clock hold the host's link; the sideband
selects a register and reads it. -/
def Obligations.SuppliesAndPins : Prop :=
  (∀ (s : State) (v : BitVec 8),
    (v.toNat < 216 → s.sup.auxOk = true → s.sup.onAux = false → s.sup.on = true →
      ∃ t, exec (.vinMainSag v) s = .next t ∧ t.sup.onAux = true ∧ t.sup.vinMain = v ∧ t.sup.mainOk = false ∧
        t.sup.switchovers = satByte s.sup.switchovers ∧ t.recov = s.recov ∧ t.tim = s.tim ∧ t.mem = s.mem) ∧
    (216 ≤ v.toNat → v.toNat < 224 → s.sup.onAux = false →
      ∃ t, exec (.vinMainSag v) s = .next t ∧ t.sup.onAux = false ∧ t.sup.vinMain = v ∧ t.mem = s.mem) ∧
    (224 ≤ v.toNat → ∃ t, exec (.vinMainReturn v) s = .next t ∧ t.sup.onAux = false ∧ t.sup.vinMain = v ∧
      t.sup.mainOk = inRange v ∧ (inRange v = true → s.sup.pwrOk = true → t.sup.partOff = false) ∧ t.mem = s.mem) ∧
    (v.toNat < 200 → s.sup.auxOk = true → s.sup.on = true → s.sup.partOff = false → s.hub.bootStatus ≠ 1 →
      ∃ t, exec (.vinMainLoss v) s = .next t ∧ t.sup.partOff = true ∧ t.recov.noPower = true ∧ t.log.next = s.log.next + 1 ∧
        (s.recov.state = 0 → s.recov.due < 3 → t.recov.due = 3) ∧ (∀ c ∈ t.cores, c.2.stopped = true) ∧ t.tim = s.tim) ∧
    (s.sup.onAux = false → 216 ≤ s.sup.vinMain.toNat →
      ∃ t, exec (.vinAuxChange v) s = .next t ∧ t.sup.auxOk = inRange v ∧ t.sup.vinAux = v ∧ t.sup.onAux = false ∧ t.mem = s.mem)) ∧
  (∀ (s : State) (n : Nat),
    (s.sup.pwrOk = true → n < 1000 →
      exec (.pwrOkFall n) s = .next (s.modSup fun u => { u with glitches := satByte u.glitches })) ∧
    (s.sup.pwrOk = true → 1000 ≤ n → s.sup.on = true → s.hub.bootStatus ≠ 1 → s.sup.partOff = false → s.serving = true →
      ∃ t, exec (.pwrOkFall n) s = .next t ∧ t.sup.pwrOk = false ∧ t.sup.partOff = true ∧ t.recov.noPower = true ∧ t.recov.step = 3) ∧
    (∃ t, exec .pwrOkRise s = .next t ∧ t.sup.pwrOk = true ∧ (s.sup.mainOk = true → t.sup.partOff = false) ∧ t.mem = s.mem) ∧
    (s.sup.resetN = true → s.sup.on = true → n < 100000 →
      exec (.resetNLow n) s = .next (s.modSup fun u => { u with resetPulses := satByte u.resetPulses })) ∧
    (s.sup.resetN = true → s.sup.on = true → 100000 ≤ n → s.cmds = [] →
      ∃ t, exec (.resetNLow n) s = .next t ∧ t.sup.resetN = false ∧ t.host.linkUp = false ∧ (∀ f, f < 16 → t.fn f = {}) ∧ t.mem = s.mem)) ∧
  (∀ (s : State),
    (∃ t, exec .resetNRise s = .next t ∧ t.sup.resetN = true ∧ t.host.linkUp = (s.sup.on && s.sup.refclkOk) ∧ t.fns = s.fns) ∧
    (∃ t, exec .refclkLoss s = .next t ∧ t.sup.refclkOk = false ∧ t.host.linkUp = false ∧ t.fns = s.fns) ∧
    (∃ t, exec .refclkReturn s = .next t ∧ t.sup.refclkOk = true ∧ t.host.linkUp = (s.sup.on && s.sup.resetN) ∧ t.fns = s.fns)) ∧
  (∀ (s : State) (a : BitVec 7), s.sup.on = true →
    (s.sup.i3cAddr = none → exec (.entdaa a) s = .next (s.modSup fun u => { u with i3cAddr := some a })) ∧
    (a = 0x4C ∨ s.sup.i3cAddr = some a → (∀ off : BitVec 24,
        exec (.i3cPrivateWrite a off) s = .next (s.modSup fun u => { u with i3cSelect := off })) ∧
      ∃ t, exec (.i3cPrivateRead a) s = .next t ∧ t.sup.i3cData = (if sidebandReg s.sup.i3cSelect.toNat
        then BitVec.ofNat 32 (s.reg32 0 s.sup.i3cSelect.toNat) else 0) ∧ t.fns = s.fns) ∧
    (a ≠ 0x4C → s.sup.i3cAddr ≠ some a → exec (.i3cPrivateRead a) s = .next s) ∧
    exec .i3cSclTimeout s = .next (s.modSup fun u => { u with i3cAddr := none, i3cSelect := 0 }))

/-! All commands. -/

/-- A command ends in a next state, and is never refused; the one fault is a coherence message for a line beyond device memory (R182), which is
the model's choice (assumption 61). -/
def Obligations.EveryCommandAnswers : Prop :=
  ∀ (c : Instr) (s : State), (∃ t, exec c s = .next t) ∨ ∃ line : BitVec 42, 2 ^ 36 ≤ line.toNat ∧ exec c s = .fault (.noSuchAddress (64 * line.toNat))

/-- Every step keeps device memory in its canonical form: addresses strictly rising, no byte listed that an unlisted address holds. That form, and
what an unlisted address reads as, are the model's choice (assumption 1). -/
def Obligations.StepKeepsMemoryCanonical : Prop :=
  ∀ s t : State, s.memoryCanonical → step s = .next t → t.memoryCanonical
end

