-- ==== Sys2Proof/Laws/Dispatch.lean ====
section
/-! SUPPORT. Which meaning each command has: one equation for each constructor of Instr, so that no proof unfolds the dispatch. -/

namespace Sys2Proof.Machine

theorem exec_nop (core : Fin 576) (q : Eng) (s : State) : exec (.nop core q) s = execNop core q s := rfl
theorem exec_endQueue (core : Fin 576) (q : Eng) (s : State) : exec (.endQueue core q) s = execEndQueue core q s := rfl
theorem exec_signal (core : Fin 576) (q : Eng) (s : State) : exec (.signal core q) s = execSignal core q s := rfl
theorem exec_signalPerform (core : Fin 576) (qs : List Eng) (s : State) : exec (.signalPerform core qs) s = execSignalPerform core qs s := rfl
theorem exec_wait (core : Fin 576) (q : Eng) (s : State) : exec (.wait core q) s = execWait core q s := rfl
theorem exec_waitmem (core : Fin 576) (q : Eng) (s : State) : exec (.waitmem core q) s = execWaitmem core q s := rfl
theorem exec_waitmemNotice (core : Fin 576) (q : Eng) (s : State) : exec (.waitmemNotice core q) s = execWaitmemNotice core q s := rfl
theorem exec_waitTimeout (core : Fin 576) (q : Eng) (s : State) : exec (.waitTimeout core q) s = execWaitTimeout core q s := rfl
theorem exec_queueDeadlock (core : Fin 576) (s : State) : exec (.queueDeadlock core) s = execQueueDeadlock core s := rfl
theorem exec_fence (core : Fin 576) (q : Eng) (s : State) : exec (.fence core q) s = execFence core q s := rfl
theorem exec_loop (core : Fin 576) (q : Eng) (s : State) : exec (.loop core q) s = execLoop core q s := rfl
theorem exec_granuleFetch (core : Fin 576) (q : Eng) (s : State) : exec (.granuleFetch core q) s = execGranuleFetch core q s := rfl
theorem exec_issue (core : Fin 576) (cpe : Fin 2) (s : State) : exec (.issue core cpe) s = execIssue core cpe s := rfl
theorem exec_descriptorStart (core : Fin 576) (cpe : Fin 2) (s : State) : exec (.descriptorStart core cpe) s = execDescriptorStart core cpe s := rfl
theorem exec_descriptorComplete (core : Fin 576) (cpe : Fin 2) (index : Fin 16) (s : State) : exec (.descriptorComplete core cpe index) s = execDescriptorComplete core cpe index s := rfl
theorem exec_coreStart (core : Fin 576) (s : State) : exec (.coreStart core) s = execCoreStart core s := rfl
theorem exec_coreEnd (core : Fin 576) (s : State) : exec (.coreEnd core) s = execCoreEnd core s := rfl
theorem exec_ldb (core : Fin 576) (s : State) : exec (.ldb core) s = execLdb core s := rfl
theorem exec_mma (core : Fin 576) (s : State) : exec (.mma core) s = execMma core s := rfl
theorem exec_accmode (core : Fin 576) (s : State) : exec (.accmode core) s = execAccmode core s := rfl
theorem exec_acczero (core : Fin 576) (s : State) : exec (.acczero core) s = execAcczero core s := rfl
theorem exec_accst (core : Fin 576) (s : State) : exec (.accst core) s = execAccst core s := rfl
theorem exec_accld (core : Fin 576) (s : State) : exec (.accld core) s = execAccld core s := rfl
theorem exec_ststat (core : Fin 576) (s : State) : exec (.ststat core) s = execStstat core s := rfl
theorem exec_setlen (core : Fin 576) (s : State) : exec (.setlen core) s = execSetlen core s := rfl
theorem exec_vxeLd (core : Fin 576) (s : State) : exec (.vxeLd core) s = execVxeLd core s := rfl
theorem exec_vxeSt (core : Fin 576) (s : State) : exec (.vxeSt core) s = execVxeSt core s := rfl
theorem exec_stslab (core : Fin 576) (s : State) : exec (.stslab core) s = execStslab core s := rfl
theorem exec_alu (core : Fin 576) (s : State) : exec (.alu core) s = execAlu core s := rfl
theorem exec_fma (core : Fin 576) (s : State) : exec (.fma core) s = execFma core s := rfl
theorem exec_vxeSel (core : Fin 576) (s : State) : exec (.vxeSel core) s = execVxeSel core s := rfl
theorem exec_vxeFunc (core : Fin 576) (s : State) : exec (.vxeFunc core) s = execVxeFunc core s := rfl
theorem exec_vxeCvt (core : Fin 576) (s : State) : exec (.vxeCvt core) s = execVxeCvt core s := rfl
theorem exec_red (core : Fin 576) (s : State) : exec (.red core) s = execRed core s := rfl
theorem exec_vstat (core : Fin 576) (s : State) : exec (.vstat core) s = execVstat core s := rfl
theorem exec_tstart (core : Fin 576) (s : State) : exec (.tstart core) s = execTstart core s := rfl
theorem exec_tstartGroupsStart (core : Fin 576) (s : State) : exec (.tstartGroupsStart core) s = execTstartGroupsStart core s := rfl
theorem exec_tstartComplete (core : Fin 576) (index : Nat) (s : State) : exec (.tstartComplete core index) s = execTstartComplete core index s := rfl
theorem exec_threadNop (core : Fin 576) (slot : Fin 64) (s : State) : exec (.threadNop core slot) s = execThreadNop core slot s := rfl
theorem exec_exit (core : Fin 576) (slot : Fin 64) (s : State) : exec (.exit core slot) s = execExit core slot s := rfl
theorem exec_brnz (core : Fin 576) (slot : Fin 64) (s : State) : exec (.brnz core slot) s = execBrnz core slot s := rfl
theorem exec_brz (core : Fin 576) (slot : Fin 64) (s : State) : exec (.brz core slot) s = execBrz core slot s := rfl
theorem exec_pathRotation (core : Fin 576) (slot : Fin 64) (s : State) : exec (.pathRotation core slot) s = execPathRotation core slot s := rfl
theorem exec_add (core : Fin 576) (slot : Fin 64) (s : State) : exec (.add core slot) s = execAdd core slot s := rfl
theorem exec_sub (core : Fin 576) (slot : Fin 64) (s : State) : exec (.sub core slot) s = execSub core slot s := rfl
theorem exec_mul (core : Fin 576) (slot : Fin 64) (s : State) : exec (.mul core slot) s = execMul core slot s := rfl
theorem exec_mulhi (core : Fin 576) (slot : Fin 64) (s : State) : exec (.mulhi core slot) s = execMulhi core slot s := rfl
theorem exec_and (core : Fin 576) (slot : Fin 64) (s : State) : exec (.and core slot) s = execAnd core slot s := rfl
theorem exec_or (core : Fin 576) (slot : Fin 64) (s : State) : exec (.or core slot) s = execOr core slot s := rfl
theorem exec_xor (core : Fin 576) (slot : Fin 64) (s : State) : exec (.xor core slot) s = execXor core slot s := rfl
theorem exec_shl (core : Fin 576) (slot : Fin 64) (s : State) : exec (.shl core slot) s = execShl core slot s := rfl
theorem exec_shr (core : Fin 576) (slot : Fin 64) (s : State) : exec (.shr core slot) s = execShr core slot s := rfl
theorem exec_sra (core : Fin 576) (slot : Fin 64) (s : State) : exec (.sra core slot) s = execSra core slot s := rfl
theorem exec_slt (core : Fin 576) (slot : Fin 64) (s : State) : exec (.slt core slot) s = execSlt core slot s := rfl
theorem exec_sltu (core : Fin 576) (slot : Fin 64) (s : State) : exec (.sltu core slot) s = execSltu core slot s := rfl
theorem exec_add64 (core : Fin 576) (slot : Fin 64) (s : State) : exec (.add64 core slot) s = execAdd64 core slot s := rfl
theorem exec_addi (core : Fin 576) (slot : Fin 64) (s : State) : exec (.addi core slot) s = execAddi core slot s := rfl
theorem exec_movi (core : Fin 576) (slot : Fin 64) (s : State) : exec (.movi core slot) s = execMovi core slot s := rfl
theorem exec_threadSel (core : Fin 576) (slot : Fin 64) (s : State) : exec (.threadSel core slot) s = execThreadSel core slot s := rfl
theorem exec_fadd (core : Fin 576) (slot : Fin 64) (s : State) : exec (.fadd core slot) s = execFadd core slot s := rfl
theorem exec_fsub (core : Fin 576) (slot : Fin 64) (s : State) : exec (.fsub core slot) s = execFsub core slot s := rfl
theorem exec_fmul (core : Fin 576) (slot : Fin 64) (s : State) : exec (.fmul core slot) s = execFmul core slot s := rfl
theorem exec_ffma (core : Fin 576) (slot : Fin 64) (s : State) : exec (.ffma core slot) s = execFfma core slot s := rfl
theorem exec_fmin (core : Fin 576) (slot : Fin 64) (s : State) : exec (.fmin core slot) s = execFmin core slot s := rfl
theorem exec_fmax (core : Fin 576) (slot : Fin 64) (s : State) : exec (.fmax core slot) s = execFmax core slot s := rfl
theorem exec_fslt (core : Fin 576) (slot : Fin 64) (s : State) : exec (.fslt core slot) s = execFslt core slot s := rfl
theorem exec_fseq (core : Fin 576) (slot : Fin 64) (s : State) : exec (.fseq core slot) s = execFseq core slot s := rfl
theorem exec_threadCvt (core : Fin 576) (slot : Fin 64) (s : State) : exec (.threadCvt core slot) s = execThreadCvt core slot s := rfl
theorem exec_threadFunc (core : Fin 576) (slot : Fin 64) (s : State) : exec (.threadFunc core slot) s = execThreadFunc core slot s := rfl
theorem exec_threadLd (core : Fin 576) (slot : Fin 64) (s : State) : exec (.threadLd core slot) s = execThreadLd core slot s := rfl
theorem exec_threadSt (core : Fin 576) (slot : Fin 64) (s : State) : exec (.threadSt core slot) s = execThreadSt core slot s := rfl
theorem exec_aadd (core : Fin 576) (slot : Fin 64) (s : State) : exec (.aadd core slot) s = execAadd core slot s := rfl
theorem exec_amin (core : Fin 576) (slot : Fin 64) (s : State) : exec (.amin core slot) s = execAmin core slot s := rfl
theorem exec_amax (core : Fin 576) (slot : Fin 64) (s : State) : exec (.amax core slot) s = execAmax core slot s := rfl
theorem exec_aexch (core : Fin 576) (slot : Fin 64) (s : State) : exec (.aexch core slot) s = execAexch core slot s := rfl
theorem exec_acas (core : Fin 576) (slot : Fin 64) (s : State) : exec (.acas core slot) s = execAcas core slot s := rfl
theorem exec_afadd (core : Fin 576) (slot : Fin 64) (s : State) : exec (.afadd core slot) s = execAfadd core slot s := rfl
theorem exec_threadFence (core : Fin 576) (slot : Fin 64) (s : State) : exec (.threadFence core slot) s = execThreadFence core slot s := rfl
theorem exec_vote (core : Fin 576) (slot : Fin 64) (s : State) : exec (.vote core slot) s = execVote core slot s := rfl
theorem exec_shfl (core : Fin 576) (slot : Fin 64) (s : State) : exec (.shfl core slot) s = execShfl core slot s := rfl
theorem exec_bar (core : Fin 576) (slot : Fin 64) (s : State) : exec (.bar core slot) s = execBar core slot s := rfl
theorem exec_barRelease (core : Fin 576) (index : Nat) (s : State) : exec (.barRelease core index) s = execBarRelease core index s := rfl
theorem exec_grpmul (core : Fin 576) (slot : Fin 64) (s : State) : exec (.grpmul core slot) s = execGrpmul core slot s := rfl
theorem exec_storeBufferDrain (core : Fin 576) (index : Fin 32) (s : State) : exec (.storeBufferDrain core index) s = execStoreBufferDrain core index s := rfl
theorem exec_invalidationApply (core : Fin 576) (s : State) : exec (.invalidationApply core) s = execInvalidationApply core s := rfl
theorem exec_rdOnce (requester : Fin 2329) (line : BitVec 42) (off : Fin 64) (len : Nat) (ctx : BitVec 8) (part : BitVec 4) (device : BitVec 16) (lastUse : Bool) (s : State) : exec (.rdOnce requester line off len ctx part device lastUse) s = execRdOnce requester line off len ctx part device lastUse s := rfl
theorem exec_rdShared (requester : Fin 2329) (line : BitVec 42) (ctx : BitVec 8) (part : BitVec 4) (device : BitVec 16) (lastUse : Bool) (s : State) : exec (.rdShared requester line ctx part device lastUse) s = execRdShared requester line ctx part device lastUse s := rfl
theorem exec_rdUnique (requester : Fin 2329) (line : BitVec 42) (ctx : BitVec 8) (part : BitVec 4) (device : BitVec 16) (s : State) : exec (.rdUnique requester line ctx part device) s = execRdUnique requester line ctx part device s := rfl
theorem exec_upgrade (requester : Fin 2329) (line : BitVec 42) (ctx : BitVec 8) (part : BitVec 4) (device : BitVec 16) (s : State) : exec (.upgrade requester line ctx part device) s = execUpgrade requester line ctx part device s := rfl
theorem exec_wrThrough (requester : Fin 2329) (line : BitVec 42) (ctx : BitVec 8) (part : BitVec 4) (device : BitVec 16) (lastUse : Bool) (s : State) : exec (.wrThrough requester line ctx part device lastUse) s = execWrThrough requester line ctx part device lastUse s := rfl
theorem exec_wrInv (requester : Fin 2329) (line : BitVec 42) (ctx : BitVec 8) (part : BitVec 4) (device : BitVec 16) (s : State) : exec (.wrInv requester line ctx part device) s = execWrInv requester line ctx part device s := rfl
theorem exec_atomic (requester : Fin 2329) (line : BitVec 42) (op : AtomOp) (off : Fin 64) (len : Nat) (operand : BitVec 512) (compare : BitVec 64) (ctx : BitVec 8) (part : BitVec 4) (device : BitVec 16) (lastUse : Bool) (s : State) : exec (.atomic requester line op off len operand compare ctx part device lastUse) s = execAtomic requester line op off len operand compare ctx part device lastUse s := rfl
theorem exec_wrBack (agent : Fin 582) (line : BitVec 42) (s : State) : exec (.wrBack agent line) s = execWrBack agent line s := rfl
theorem exec_evict (agent : Fin 582) (line : BitVec 42) (s : State) : exec (.evict agent line) s = execEvict agent line s := rfl
theorem exec_snpInv (agent : Fin 582) (line : BitVec 42) (s : State) : exec (.snpInv agent line) s = execSnpInv agent line s := rfl
theorem exec_snpShare (agent : Fin 582) (line : BitVec 42) (s : State) : exec (.snpShare agent line) s = execSnpShare agent line s := rfl
theorem exec_snpRecall (agent : Fin 582) (line : BitVec 42) (s : State) : exec (.snpRecall agent line) s = execSnpRecall agent line s := rfl
theorem exec_comp (id : Nat) (s : State) : exec (.comp id) s = execComp id s := rfl
theorem exec_invDone (id : Nat) (s : State) : exec (.invDone id) s = execInvDone id s := rfl
theorem exec_retry (slice : Fin 256) (requester : Fin 2329) (s : State) : exec (.retry slice requester) s = execRetry slice requester s := rfl
theorem exec_credit (slice : Fin 256) (s : State) : exec (.credit slice) s = execCredit slice s := rfl
theorem exec_invAck (agent : Fin 582) (line : BitVec 42) (s : State) : exec (.invAck agent line) s = execInvAck agent line s := rfl
theorem exec_snpAck (agent : Fin 582) (line : BitVec 42) (s : State) : exec (.snpAck agent line) s = execSnpAck agent line s := rfl
theorem exec_snpAckWb (agent : Fin 582) (line : BitVec 42) (s : State) : exec (.snpAckWb agent line) s = execSnpAckWb agent line s := rfl
theorem exec_fault (requester : Fin 2329) (line : BitVec 42) (s : State) : exec (.fault requester line) s = execFault requester line s := rfl
theorem exec_dataS (requester : Fin 2329) (line : BitVec 42) (s : State) : exec (.dataS requester line) s = execDataS requester line s := rfl
theorem exec_dataE (agent : Fin 582) (line : BitVec 42) (s : State) : exec (.dataE agent line) s = execDataE agent line s := rfl
theorem exec_snpData (agent : Fin 582) (line : BitVec 42) (data : BitVec 512) (s : State) : exec (.snpData agent line data) s = execSnpData agent line data s := rfl
theorem exec_wrData (requester : Fin 2329) (line : BitVec 42) (data : BitVec 512) (mask : BitVec 64) (s : State) : exec (.wrData requester line data mask) s = execWrData requester line data mask s := rfl
theorem exec_rdData (requester : Fin 2329) (line : BitVec 42) (data : BitVec 512) (s : State) : exec (.rdData requester line data) s = execRdData requester line data s := rfl
theorem exec_holdEnd (agent : Fin 582) (line : BitVec 42) (s : State) : exec (.holdEnd agent line) s = execHoldEnd agent line s := rfl
theorem exec_fillLanded (line : BitVec 42) (first second : List (Fin 72 × BitVec 8)) (s : State) : exec (.fillLanded line first second) s = execFillLanded line first second s := rfl
theorem exec_pinRelease (line : BitVec 42) (s : State) : exec (.pinRelease line) s = execPinRelease line s := rfl
theorem exec_memoryControllerReduction (line : BitVec 42) (s : State) : exec (.memoryControllerReduction line) s = execMemoryControllerReduction line s := rfl
theorem exec_snoopTimeout (agent : Fin 582) (line : BitVec 42) (s : State) : exec (.snoopTimeout agent line) s = execSnoopTimeout agent line s := rfl
theorem exec_dataTimeout (requester : Fin 2329) (line : BitVec 42) (s : State) : exec (.dataTimeout requester line) s = execDataTimeout requester line s := rfl
theorem exec_creditTimeout (slice : Fin 256) (requester : Fin 2329) (s : State) : exec (.creditTimeout slice requester) s = execCreditTimeout slice requester s := rfl
theorem exec_patrolScrub (chan : Fin 256) (first second : List (Fin 72 × BitVec 8)) (s : State) : exec (.patrolScrub chan first second) s = execPatrolScrub chan first second s := rfl
theorem exec_refreshReport (chan : Fin 256) (report : Fin 4) (s : State) : exec (.refreshReport chan report) s = execRefreshReport chan report s := rfl
theorem exec_dqsTracking (chan : Fin 256) (drift : Int) (s : State) : exec (.dqsTracking chan drift) s = execDqsTracking chan drift s := rfl
theorem exec_selfRefreshEntry (s : State) : exec (.selfRefreshEntry) s = execSelfRefreshEntry s := rfl
theorem exec_selfRefreshExit (s : State) : exec (.selfRefreshExit) s = execSelfRefreshExit s := rfl
theorem exec_dieLinkFlitReceive (link : Fin 10) (dir : Bool) (flit : BitVec 1088) (s : State) : exec (.dieLinkFlitReceive link dir flit) s = execDieLinkFlitReceive link dir flit s := rfl
theorem exec_dieLinkNak (link : Fin 10) (dir : Bool) (ack : BitVec 10) (s : State) : exec (.dieLinkNak link dir ack) s = execDieLinkNak link dir ack s := rfl
theorem exec_dieLinkPersistentFault (link : Fin 8) (dir : Bool) (failed first : BitVec 10) (s : State) : exec (.dieLinkPersistentFault link dir failed first) s = execDieLinkPersistentFault link dir failed first s := rfl
theorem exec_d2dInject (fn : Fin 16) (value : BitVec 32) (s : State) : exec (.d2dInject fn value) s = execD2dInject fn value s := rfl
theorem exec_partnerAdmission (site : Fin 2) (training : SiteTraining) (record : List (BitVec 8)) (s : State) : exec (.partnerAdmission site training record) s = execPartnerAdmission site training record s := rfl
theorem exec_partnerInboundRequest (site : Fin 2) (op : Option SiteOp) (aop : AtomOp) (addr : BitVec 48) (len : Nat) (data : List (BitVec 8)) (compare : BitVec 64) (s : State) : exec (.partnerInboundRequest site op aop addr len data compare) s = execPartnerInboundRequest site op aop addr len data compare s := rfl
theorem exec_firewallBucketPass (site : Fin 2) (s : State) : exec (.firewallBucketPass site) s = execFirewallBucketPass site s := rfl
theorem exec_partnerTimeout (site : Fin 2) (s : State) : exec (.partnerTimeout site) s = execPartnerTimeout site s := rfl
theorem exec_partnerLinkFailure (site : Fin 2) (s : State) : exec (.partnerLinkFailure site) s = execPartnerLinkFailure site s := rfl
theorem exec_sourceReject (input : TimeInput) (cause : RejectCause) (measured : Nat) (s : State) : exec (.sourceReject input cause measured) s = execSourceReject input cause measured s := rfl
theorem exec_sourceRequalify (input : TimeInput) (s : State) : exec (.sourceRequalify input) s = execSourceRequalify input s := rfl
theorem exec_timeLock (offset : Int) (rate : Int) (s : State) : exec (.timeLock offset rate) s = execTimeLock offset rate s := rfl
theorem exec_refPpsPulse (s : State) : exec (.refPpsPulse) s = execRefPpsPulse s := rfl
theorem exec_refFrameEdge (s : State) : exec (.refFrameEdge) s = execRefFrameEdge s := rfl
theorem exec_synthesisedFrameEdge (s : State) : exec (.synthesisedFrameEdge) s = execSynthesisedFrameEdge s := rfl
theorem exec_sync (port : Fin 18) (received : Bool) (s : State) : exec (.sync port received) s = execSync port received s := rfl
theorem exec_followUp (port : Fin 18) (received : Bool) (origin : Nat) (s : State) : exec (.followUp port received origin) s = execFollowUp port received origin s := rfl
theorem exec_pdelayReq (port : Fin 18) (received : Bool) (s : State) : exec (.pdelayReq port received) s = execPdelayReq port received s := rfl
theorem exec_pdelayResp (port : Fin 18) (t2 t3 : Nat) (s : State) : exec (.pdelayResp port t2 t3) s = execPdelayResp port t2 t3 s := rfl
theorem exec_epoch (entry : Fin 4096) (s : State) : exec (.epoch entry) s = execEpoch entry s := rfl
theorem exec_phaseFire (entry : Fin 4096) (s : State) : exec (.phaseFire entry) s = execPhaseFire entry s := rfl
theorem exec_deadline (entry : Fin 4096) (s : State) : exec (.deadline entry) s = execDeadline entry s := rfl
theorem exec_lowPower (entry : Fin 4096) (s : State) : exec (.lowPower entry) s = execLowPower entry s := rfl
theorem exec_telemetry (entry : Fin 4096) (s : State) : exec (.telemetry entry) s = execTelemetry entry s := rfl
theorem exec_heartbeat (entry : Fin 4096) (s : State) : exec (.heartbeat entry) s = execHeartbeat entry s := rfl
theorem exec_wake (entry : Fin 4096) (s : State) : exec (.wake entry) s = execWake entry s := rfl
theorem exec_idleEntry (s : State) : exec (.idleEntry) s = execIdleEntry s := rfl
theorem exec_wakeStart (s : State) : exec (.wakeStart) s = execWakeStart s := rfl
theorem exec_fabricFlitReceive (port : Fin 18) (flit : BitVec 2144) (corrected : Nat) (s : State) : exec (.fabricFlitReceive port flit corrected) s = execFabricFlitReceive port flit corrected s := rfl
theorem exec_fabricNak (port : Fin 18) (ack : BitVec 16) (s : State) : exec (.fabricNak port ack) s = execFabricNak port ack s := rfl
theorem exec_fabricPortPersistentFault (port : Fin 18) (lanes : BitVec 4) (s : State) : exec (.fabricPortPersistentFault port lanes) s = execFabricPortPersistentFault port lanes s := rfl
theorem exec_laneLockLoss (link : Fin 28) (s : State) : exec (.laneLockLoss link) s = execLaneLockLoss link s := rfl
theorem exec_forward (port : Fin 18) (header : BitVec 512) (data : List (BitVec 8)) (s : State) : exec (.forward port header data) s = execForward port header data s := rfl
theorem exec_read (port : Fin 18) (header : BitVec 512) (data : List (BitVec 8)) (s : State) : exec (.read port header data) s = execRead port header data s := rfl
theorem exec_write (port : Fin 18) (header : BitVec 512) (data : List (BitVec 8)) (s : State) : exec (.write port header data) s = execWrite port header data s := rfl
theorem exec_remoteAtomic (port : Fin 18) (header : BitVec 512) (data : List (BitVec 8)) (s : State) : exec (.remoteAtomic port header data) s = execRemoteAtomic port header data s := rfl
theorem exec_reduce (port : Fin 18) (header : BitVec 512) (data : List (BitVec 8)) (s : State) : exec (.reduce port header data) s = execReduce port header data s := rfl
theorem exec_counterAdd (port : Fin 18) (header : BitVec 512) (data : List (BitVec 8)) (s : State) : exec (.counterAdd port header data) s = execCounterAdd port header data s := rfl
theorem exec_data (port : Fin 18) (header : BitVec 512) (data : List (BitVec 8)) (s : State) : exec (.data port header data) s = execData port header data s := rfl
theorem exec_remoteComp (port : Fin 18) (header : BitVec 512) (data : List (BitVec 8)) (s : State) : exec (.remoteComp port header data) s = execRemoteComp port header data s := rfl
theorem exec_error (port : Fin 18) (header : BitVec 512) (data : List (BitVec 8)) (s : State) : exec (.error port header data) s = execError port header data s := rfl
theorem exec_remoteRequestTimeout (tag : BitVec 14) (s : State) : exec (.remoteRequestTimeout tag) s = execRemoteRequestTimeout tag s := rfl
theorem exec_slotSend (point : Fin 4096) (s : State) : exec (.slotSend point) s = execSlotSend point s := rfl
theorem exec_slotHeaderReceive (source : Fin 4096) (header : BitVec 512) (units : List (BitVec 512)) (s : State) : exec (.slotHeaderReceive source header units) s = execSlotHeaderReceive source header units s := rfl
theorem exec_unitLand (core : Fin 576) (g : Fin 4) (stream : BitVec 16) (s : State) : exec (.unitLand core g stream) s = execUnitLand core g stream s := rfl
theorem exec_unitOverdue (g : Fin 4) (point : Fin 4096) (stream : BitVec 16) (s : State) : exec (.unitOverdue g point stream) s = execUnitOverdue g point stream s := rfl
theorem exec_paceRecord (g : Fin 4) (s : State) : exec (.paceRecord g) s = execPaceRecord g s := rfl
theorem exec_paceDecisionMissing (g : Fin 4) (s : State) : exec (.paceDecisionMissing g) s = execPaceDecisionMissing g s := rfl
theorem exec_hello (g : Fin 4) (device : BitVec 16) (digest : BitVec 256) (s : State) : exec (.hello g device digest) s = execHello g device digest s := rfl
theorem exec_reply (g : Fin 4) (t2 t3 : BitVec 64) (s : State) : exec (.reply g t2 t3) s = execReply g t2 t3 s := rfl
theorem exec_time (g : Fin 4) (device : BitVec 16) (offset : Int) (tod : Bool) (s : State) : exec (.time g device offset tod) s = execTime g device offset tod s := rfl
theorem exec_go (g : Fin 4) (outcome : JoinOutcome) (s : State) : exec (.go g outcome) s = execGo g outcome s := rfl
theorem exec_joinT0 (g : Fin 4) (s : State) : exec (.joinT0 g) s = execJoinT0 g s := rfl
theorem exec_joinTimeout (g : Fin 4) (s : State) : exec (.joinTimeout g) s = execJoinTimeout g s := rfl
theorem exec_equinoxCreditReturn (port : Fin 18) (channel : Fin 8) (set : Bool) (units : Nat) (s : State) : exec (.equinoxCreditReturn port channel set units) s = execEquinoxCreditReturn port channel set units s := rfl
theorem exec_hostRingTail (fn : Fin 16) (ring : Fin 4) (value : BitVec 32) (s : State) : exec (.hostRingTail fn ring value) s = execHostRingTail fn ring value s := rfl
theorem exec_hostRingCtrl (fn : Fin 16) (ring : Fin 4) (value : BitVec 32) (s : State) : exec (.hostRingCtrl fn ring value) s = execHostRingCtrl fn ring value s := rfl
theorem exec_packetTake (fn : Fin 16) (ring : Fin 4) (packet : Option Line) (s : State) : exec (.packetTake fn ring packet) s = execPacketTake fn ring packet s := rfl
theorem exec_cmdNop (fn : Fin 16) (ring : Fin 4) (index : BitVec 32) (s : State) : exec (.cmdNop fn ring index) s = execCmdNop fn ring index s := rfl
theorem exec_query (fn : Fin 16) (ring : Fin 4) (index : BitVec 32) (s : State) : exec (.query fn ring index) s = execQuery fn ring index s := rfl
theorem exec_phase (fn : Fin 16) (ring : Fin 4) (index : BitVec 32) (s : State) : exec (.phase fn ring index) s = execPhase fn ring index s := rfl
theorem exec_calArm (fn : Fin 16) (ring : Fin 4) (index : BitVec 32) (s : State) : exec (.calArm fn ring index) s = execCalArm fn ring index s := rfl
theorem exec_calCancel (fn : Fin 16) (ring : Fin 4) (index : BitVec 32) (s : State) : exec (.calCancel fn ring index) s = execCalCancel fn ring index s := rfl
theorem exec_attest (fn : Fin 16) (ring : Fin 4) (index : BitVec 32) (s : State) : exec (.attest fn ring index) s = execAttest fn ring index s := rfl
theorem exec_ctxCreate (fn : Fin 16) (ring : Fin 4) (index : BitVec 32) (s : State) : exec (.ctxCreate fn ring index) s = execCtxCreate fn ring index s := rfl
theorem exec_ctxAttr (fn : Fin 16) (ring : Fin 4) (index : BitVec 32) (s : State) : exec (.ctxAttr fn ring index) s = execCtxAttr fn ring index s := rfl
theorem exec_ctxDestroy (fn : Fin 16) (ring : Fin 4) (index : BitVec 32) (s : State) : exec (.ctxDestroy fn ring index) s = execCtxDestroy fn ring index s := rfl
theorem exec_aperture (fn : Fin 16) (ring : Fin 4) (index : BitVec 32) (s : State) : exec (.aperture fn ring index) s = execAperture fn ring index s := rfl
theorem exec_launch (fn : Fin 16) (ring : Fin 4) (index : BitVec 32) (s : State) : exec (.launch fn ring index) s = execLaunch fn ring index s := rfl
theorem exec_abort (fn : Fin 16) (ring : Fin 4) (index : BitVec 32) (s : State) : exec (.abort fn ring index) s = execAbort fn ring index s := rfl
theorem exec_segMap (fn : Fin 16) (ring : Fin 4) (index : BitVec 32) (s : State) : exec (.segMap fn ring index) s = execSegMap fn ring index s := rfl
theorem exec_segUnmap (fn : Fin 16) (ring : Fin 4) (index : BitVec 32) (s : State) : exec (.segUnmap fn ring index) s = execSegUnmap fn ring index s := rfl
theorem exec_schedLoad (fn : Fin 16) (ring : Fin 4) (index : BitVec 32) (s : State) : exec (.schedLoad fn ring index) s = execSchedLoad fn ring index s := rfl
theorem exec_schedStop (fn : Fin 16) (ring : Fin 4) (index : BitVec 32) (s : State) : exec (.schedStop fn ring index) s = execSchedStop fn ring index s := rfl
theorem exec_join (fn : Fin 16) (ring : Fin 4) (index : BitVec 32) (s : State) : exec (.join fn ring index) s = execJoin fn ring index s := rfl
theorem exec_partConfig (fn : Fin 16) (ring : Fin 4) (index : BitVec 32) (s : State) : exec (.partConfig fn ring index) s = execPartConfig fn ring index s := rfl
theorem exec_fwRules (fn : Fin 16) (ring : Fin 4) (index : BitVec 32) (host : List (BitVec 8)) (s : State) : exec (.fwRules fn ring index host) s = execFwRules fn ring index host s := rfl
theorem exec_siteReset (fn : Fin 16) (ring : Fin 4) (index : BitVec 32) (s : State) : exec (.siteReset fn ring index) s = execSiteReset fn ring index s := rfl
theorem exec_timeConfig (fn : Fin 16) (ring : Fin 4) (index : BitVec 32) (s : State) : exec (.timeConfig fn ring index) s = execTimeConfig fn ring index s := rfl
theorem exec_timeSet (fn : Fin 16) (ring : Fin 4) (index : BitVec 32) (s : State) : exec (.timeSet fn ring index) s = execTimeSet fn ring index s := rfl
theorem exec_idleConfig (fn : Fin 16) (ring : Fin 4) (index : BitVec 32) (s : State) : exec (.idleConfig fn ring index) s = execIdleConfig fn ring index s := rfl
theorem exec_reset (fn : Fin 16) (ring : Fin 4) (index : BitVec 32) (s : State) : exec (.reset fn ring index) s = execReset fn ring index s := rfl
theorem exec_schedulerDecision (core : Fin 576) (s : State) : exec (.schedulerDecision core) s = execSchedulerDecision core s := rfl
theorem exec_preemption (core : Fin 576) (s : State) : exec (.preemption core) s = execPreemption core s := rfl
theorem exec_deadlineEvaluation (fn : Fin 16) (ring : Fin 4) (index : BitVec 32) (s : State) : exec (.deadlineEvaluation fn ring index) s = execDeadlineEvaluation fn ring index s := rfl
theorem exec_runLimitExpiry (fn : Fin 16) (ring : Fin 4) (index : BitVec 32) (s : State) : exec (.runLimitExpiry fn ring index) s = execRunLimitExpiry fn ring index s := rfl
theorem exec_teardown (ctx : BitVec 8) (s : State) : exec (.teardown ctx) s = execTeardown ctx s := rfl
theorem exec_estimateWindow (temps : List (BitVec 12)) (millivolts : List Nat) (s : State) : exec (.estimateWindow temps millivolts) s = execEstimateWindow temps millivolts s := rfl
theorem exec_calibration (die : Fin 5) (measured : Nat) (s : State) : exec (.calibration die measured) s = execCalibration die measured s := rfl
theorem exec_droopDetect (die : Fin 4) (s : State) : exec (.droopDetect die) s = execDroopDetect die s := rfl
theorem exec_cappingLoopStep (power : Nat) (tj : BitVec 12) (die : Fin 5) (s : State) : exec (.cappingLoopStep power tj die) s = execCappingLoopStep power tj die s := rfl
theorem exec_hot (s : State) : exec (.hot) s = execHot s := rfl
theorem exec_hotClear (s : State) : exec (.hotClear) s = execHotClear s := rfl
theorem exec_thermalTrip (sensor : Fin 68) (reading : BitVec 12) (s : State) : exec (.thermalTrip sensor reading) s = execThermalTrip sensor reading s := rfl
theorem exec_coolantRead (reading : Option (BitVec 12)) (s : State) : exec (.coolantRead reading) s = execCoolantRead reading s := rfl
theorem exec_sealBreachClear (s : State) : exec (.sealBreachClear) s = execSealBreachClear s := rfl
theorem exec_midwinterHang (s : State) : exec (.midwinterHang) s = execMidwinterHang s := rfl
theorem exec_forceHang (fn : Fin 16) (value : BitVec 32) (s : State) : exec (.forceHang fn value) s = execForceHang fn value s := rfl
theorem exec_computePartReset (bist : List (Fin 48 × BitVec 13)) (s : State) : exec (.computePartReset bist) s = execComputePartReset bist s := rfl
theorem exec_resetOverrun (s : State) : exec (.resetOverrun) s = execResetOverrun s := rfl
theorem exec_fullRecovery (inputs : RecoveryInputs) (s : State) : exec (.fullRecovery inputs) s = execFullRecovery inputs s := rfl
theorem exec_recoveryOverrun (s : State) : exec (.recoveryOverrun) s = execRecoveryOverrun s := rfl
theorem exec_faultNotice (notice : BitVec 512) (s : State) : exec (.faultNotice notice) s = execFaultNotice notice s := rfl
theorem exec_powerUp (s : State) : exec (.powerUp) s = execPowerUp s := rfl
theorem exec_boot (inputs : BootInputs) (s : State) : exec (.boot inputs) s = execBoot inputs s := rfl
theorem exec_vinMainSag (level : BitVec 8) (s : State) : exec (.vinMainSag level) s = execVinMainSag level s := rfl
theorem exec_vinMainReturn (level : BitVec 8) (s : State) : exec (.vinMainReturn level) s = execVinMainReturn level s := rfl
theorem exec_vinMainLoss (level : BitVec 8) (s : State) : exec (.vinMainLoss level) s = execVinMainLoss level s := rfl
theorem exec_pwrOkFall (held : Nat) (s : State) : exec (.pwrOkFall held) s = execPwrOkFall held s := rfl
theorem exec_pwrOkRise (s : State) : exec (.pwrOkRise) s = execPwrOkRise s := rfl
theorem exec_resetNLow (held : Nat) (s : State) : exec (.resetNLow held) s = execResetNLow held s := rfl
theorem exec_refclkLoss (s : State) : exec (.refclkLoss) s = execRefclkLoss s := rfl
theorem exec_functionLevelReset (fn : Fin 16) (s : State) : exec (.functionLevelReset fn) s = execFunctionLevelReset fn s := rfl
theorem exec_bar2Write (fn : Fin 16) (offset : BitVec 36) (bytes : List (BitVec 8)) (s : State) : exec (.bar2Write fn offset bytes) s = execBar2Write fn offset bytes s := rfl
theorem exec_bar2Read (fn : Fin 16) (offset : BitVec 36) (len : Fin 4097) (s : State) : exec (.bar2Read fn offset len) s = execBar2Read fn offset len s := rfl
theorem exec_latchedRead (fn : Fin 16) (offset : BitVec 24) (wide : Bool) (s : State) : exec (.latchedRead fn offset wide) s = execLatchedRead fn offset wide s := rfl
theorem exec_registerWrite (fn : Fin 16) (offset : BitVec 24) (value : BitVec 64) (wide : Bool) (s : State) : exec (.registerWrite fn offset value wide) s = execRegisterWrite fn offset value wide s := rfl
theorem exec_i3cPrivateWrite (address : BitVec 7) (offset : BitVec 24) (s : State) : exec (.i3cPrivateWrite address offset) s = execI3cPrivateWrite address offset s := rfl
theorem exec_i3cPrivateRead (address : BitVec 7) (s : State) : exec (.i3cPrivateRead address) s = execI3cPrivateRead address s := rfl
theorem exec_instructionCompletion (core : Fin 576) (q : Eng) (index : Fin 64) (s : State) : exec (.instructionCompletion core q index) s = execInstructionCompletion core q index s := rfl
theorem exec_phaseExpiry (s : State) : exec (.phaseExpiry) s = execPhaseExpiry s := rfl
theorem exec_wakeEnd (s : State) : exec (.wakeEnd) s = execWakeEnd s := rfl
theorem exec_refclkReturn (s : State) : exec (.refclkReturn) s = execRefclkReturn s := rfl
theorem exec_resetNRise (s : State) : exec (.resetNRise) s = execResetNRise s := rfl
theorem exec_vinAuxChange (level : BitVec 8) (s : State) : exec (.vinAuxChange level) s = execVinAuxChange level s := rfl
theorem exec_ptmResponse (hostTime : Nat) (s : State) : exec (.ptmResponse hostTime) s = execPtmResponse hostTime s := rfl
theorem exec_entdaa (address : BitVec 7) (s : State) : exec (.entdaa address) s = execEntdaa address s := rfl
theorem exec_i3cSclTimeout (s : State) : exec (.i3cSclTimeout) s = execI3cSclTimeout s := rfl
theorem exec_packetReadTimeout (fn : Fin 16) (ring : Fin 4) (s : State) : exec (.packetReadTimeout fn ring) s = execPacketReadTimeout fn ring s := rfl

end Sys2Proof.Machine
end

