-- ==== Sys2Proof/Laws/Tables.lean ====
section
/-! SUPPORT. The containers of the state: what a table answers after a write, and that a write of sparse bytes reads back and
keeps the canonical form. -/

namespace Sys2Proof.Machine

/-- A condition that has held since `t` has held for `d` at `now` exactly if `now` has reached `t + d`. -/
@[simp] theorem heldFor_some (t d now : Nat) : (heldFor (some t) d now = true) = (t + d ≤ now) := by
  unfold heldFor; rw [decide_eq_true_eq]

@[simp] theorem heldFor_none (d now : Nat) : heldFor none d now = false := rfl

/-! Tables. -/

theorem tabGet?_tabSet {α : Type} (t : Tab α) (a b : Nat) (x : α) :
    tabGet? (tabSet t a x) b = if a = b then some x else tabGet? t b := by
  induction t with
  | nil => simp [tabSet, tabGet?]
  | cons p r ih =>
    obtain ⟨k, v⟩ := p
    simp only [tabSet]
    split
    · rename_i h
      simp only [tabGet?, ih]
      by_cases hk : k = b
      · have : a ≠ b := by omega
        simp [hk, this]
      · simp [hk]
    · split
      · rename_i h1 h2
        subst h2
        by_cases hk : k = b <;> simp [tabGet?, hk]
      · simp [tabGet?]

@[simp] theorem tabGet?_tabSet_same {α : Type} (t : Tab α) (a : Nat) (x : α) : tabGet? (tabSet t a x) a = some x := by
  simp [tabGet?_tabSet]

theorem tabGet?_tabSet_other {α : Type} (t : Tab α) {a b : Nat} (x : α) (h : a ≠ b) : tabGet? (tabSet t a x) b = tabGet? t b := by
  simp [tabGet?_tabSet, h]

@[simp] theorem tabGet_tabSet_same {α : Type} (d : α) (t : Tab α) (a : Nat) (x : α) : tabGet d (tabSet t a x) a = x := by
  simp [tabGet]

theorem tabGet_tabSet_other {α : Type} (d : α) (t : Tab α) {a b : Nat} (x : α) (h : a ≠ b) :
    tabGet d (tabSet t a x) b = tabGet d t b := by
  simp [tabGet, tabGet?_tabSet, h]

@[simp] theorem tabGet_nil {α : Type} (d : α) (a : Nat) : tabGet d ([] : Tab α) a = d := rfl

theorem tabGet?_tabDel {α : Type} (t : Tab α) (a b : Nat) : tabGet? (tabDel t a) b = if a = b then none else tabGet? t b := by
  induction t with
  | nil => simp [tabDel, tabGet?]
  | cons p r ih =>
    obtain ⟨k, v⟩ := p
    simp only [tabDel] at ih
    by_cases hk : k = a
    · subst hk
      simp only [tabDel, List.filter_cons, bne_self_eq_false, Bool.false_eq_true, if_false, ih, tabGet?]
      by_cases h : k = b <;> simp [h]
    · simp only [tabDel, List.filter_cons, bne_iff_ne, ne_eq, hk, not_false_eq_true, if_true, tabGet?, ih]
      by_cases h : k = b
      · have : a ≠ b := by omega
        simp [h, this]
      · simp [h]

theorem zGet_zSet (t : Tab Nat) (a b v : Nat) : zGet (zSet t a v) b = if a = b then v else zGet t b := by
  simp only [zSet, zGet]
  split
  · rename_i h
    rw [tabGet?_tabDel]
    by_cases hab : a = b <;> simp [hab, h]
  · rw [tabGet?_tabSet]
    by_cases hab : a = b <;> simp [hab]

@[simp] theorem zGet_zSet_same (t : Tab Nat) (a v : Nat) : zGet (zSet t a v) a = v := by simp [zGet_zSet]

theorem zGet_zSet_other (t : Tab Nat) {a b : Nat} (v : Nat) (h : a ≠ b) : zGet (zSet t a v) b = zGet t b := by
  simp [zGet_zSet, h]

/-- The second of two values put under one key stands. -/
theorem tabSet_tabSet {α : Type} (t : Tab α) (a : Nat) (x y : α) : tabSet (tabSet t a x) a y = tabSet t a y := by
  induction t with
  | nil => simp [tabSet]
  | cons p r ih => simp only [tabSet]; split <;> (try split) <;> simp_all [tabSet]

/-! Sparse bytes. -/

/-- Every address listed lies at or above a bound. -/
def memFrom (lo : Nat) (m : Mem) : Bool := m.all fun c => decide (lo ≤ c.1)

theorem memWf_cons (a : Nat) (v : Byte) (r : Mem) :
    memWf ((a, v) :: r) = true ↔ v ≠ 0 ∧ memFrom (a + 1) r = true ∧ memWf r = true := by
  induction r generalizing a v with
  | nil => simp [memWf, memFrom]
  | cons p r ih =>
    obtain ⟨b, w⟩ := p
    simp only [memWf, Bool.and_eq_true, decide_eq_true_eq, bne_iff_ne, ne_eq]
    constructor
    · rintro ⟨⟨hab, hv⟩, hr⟩
      refine ⟨hv, ?_, hr⟩
      have h := ((ih b w).mp hr).2.1
      simp only [memFrom, List.all_cons, List.all_eq_true, decide_eq_true_eq, Bool.and_eq_true] at h ⊢
      exact ⟨hab, fun x hx => by have := h x hx; omega⟩
    · rintro ⟨hv, hf, hr⟩
      simp only [memFrom, List.all_cons, Bool.and_eq_true, decide_eq_true_eq] at hf
      exact ⟨⟨hf.1, hv⟩, hr⟩

theorem memFrom_memWr (m : Mem) (lo a : Nat) (b : Byte) (h : memFrom lo m = true) (ha : lo ≤ a) : memFrom lo (memWr m a b) = true := by
  induction m with
  | nil => simp only [memWr]; split <;> simp [memFrom, ha]
  | cons p r ih =>
    obtain ⟨k, v⟩ := p
    simp only [memFrom, List.all_cons, Bool.and_eq_true, decide_eq_true_eq] at h ih ⊢
    have ih := ih h.2
    simp only [memWr]
    split
    · simp [h.1, ih]
    · split <;> split <;> simp only [List.all_cons, h.1, ha, h.2, decide_true, Bool.and_self]

/-- A write keeps the canonical form. -/
theorem memWf_memWr (m : Mem) (a : Nat) (b : Byte) (h : memWf m = true) : memWf (memWr m a b) = true := by
  induction m with
  | nil => simp only [memWr]; split <;> simp_all [memWf]
  | cons p r ih =>
    obtain ⟨k, v⟩ := p
    have hk := (memWf_cons k v r).mp h
    simp only [memWr]
    split
    · rename_i hlt
      exact (memWf_cons _ _ _).mpr ⟨hk.1, memFrom_memWr r (k + 1) a b hk.2.1 hlt, ih hk.2.2⟩
    · split
      · rename_i heq
        split
        · exact hk.2.2
        · rename_i hb
          subst heq
          exact (memWf_cons _ _ _).mpr ⟨hb, hk.2.1, hk.2.2⟩
      · rename_i h1 h2
        split
        · exact h
        · rename_i hb
          refine (memWf_cons _ _ _).mpr ⟨hb, ?_, h⟩
          have hf := hk.2.1
          simp only [memFrom, List.all_cons, List.all_eq_true, decide_eq_true_eq, Bool.and_eq_true] at hf ⊢
          exact ⟨by omega, fun x hx => by have := hf x hx; omega⟩

theorem memWf_memWrN (bs : List Byte) (m : Mem) (a : Nat) (h : memWf m = true) : memWf (memWrN m a bs) = true := by
  induction bs generalizing m a with
  | nil => exact h
  | cons b bs ih => exact ih _ _ (memWf_memWr m a b h)

theorem memWf_memWrL (cs : List Host.Cell) (m : Mem) (h : memWf m = true) : memWf (memWrL m cs) = true := by
  induction cs generalizing m with
  | nil => exact h
  | cons c cs ih => exact ih _ (memWf_memWr m c.1 c.2 h)

theorem memRd_of_memFrom (m : Mem) (lo a : Nat) (h : memFrom lo m = true) (ha : a < lo) : memRd m a = 0 := by
  induction m with
  | nil => rfl
  | cons p r ih =>
    obtain ⟨k, v⟩ := p
    simp only [memFrom, List.all_cons, Bool.and_eq_true, decide_eq_true_eq] at h ih
    have : k ≠ a := by omega
    simp [memRd, this, ih h.2]

/-- What a canonical memory holds after a write: the byte written, and every other byte as before. -/
theorem memRd_memWr (m : Mem) (a x : Nat) (b : Byte) (h : memWf m = true) :
    memRd (memWr m a b) x = if a = x then b else memRd m x := by
  induction m with
  | nil =>
    simp only [memWr]
    by_cases hx : a = x <;> split <;> simp_all [memRd]
  | cons p r ih =>
    obtain ⟨k, v⟩ := p
    have hk := (memWf_cons k v r).mp h
    simp only [memWr]
    split
    · simp only [memRd, ih hk.2.2]
      by_cases hkx : k = x
      · have : a ≠ x := by omega
        simp [hkx, this]
      · simp [hkx]
    · split
      · rename_i heq
        subst heq
        split
        · rename_i hb
          by_cases hx : k = x
          · subst hx
            simp [hb, memRd_of_memFrom r (k + 1) k hk.2.1 (by omega)]
          · simp [memRd, hx]
        · by_cases hx : k = x <;> simp [memRd, hx]
      · rename_i h1 h2
        split
        · rename_i hb
          by_cases hx : a = x
          · subst hx
            have hne : k ≠ a := h2
            simp [memRd, hne, hb, memRd_of_memFrom r (k + 1) a hk.2.1 (by omega)]
          · simp [hx]
        · by_cases hx : a = x <;> simp [memRd, hx]

theorem memFrom_mono (m : Mem) {lo hi : Nat} (hl : lo ≤ hi) (h : memFrom hi m = true) : memFrom lo m = true := by
  simp only [memFrom, List.all_eq_true, decide_eq_true_eq] at h ⊢
  exact fun x hx => by have := h x hx; omega

/-- A canonical memory without the bytes that fail a test is canonical. -/
theorem memWf_filter (m : Mem) (p : Host.Cell → Bool) (h : memWf m = true) : memWf (m.filter p) = true := by
  induction m with
  | nil => rfl
  | cons c r ih =>
    obtain ⟨k, v⟩ := c
    have hk := (memWf_cons k v r).mp h
    simp only [List.filter_cons]
    split
    · refine (memWf_cons _ _ _).mpr ⟨hk.1, ?_, ih hk.2.2⟩
      have hf := hk.2.1
      simp only [memFrom, List.all_eq_true, decide_eq_true_eq, List.mem_filter] at hf ⊢
      exact fun x hx => hf x hx.1
    · exact ih hk.2.2

end Sys2Proof.Machine
end

