-- ==== Sys2Proof/Laws/State.lean ====
section
/-! SUPPORT. What each update of one table or register group leaves as it was: one lemma for each field of the state, and what
the table then answers. -/

namespace Sys2Proof.Machine

/-! setCore. -/

@[simp] theorem State.setCore_pending (s : State) (n : Nat) (c : Core) : (s.setCore n c).pending = s.pending := rfl
@[simp] theorem State.setCore_free (s : State) (n : Nat) (c : Core) : (s.setCore n c).free = s.free := rfl
@[simp] theorem State.setCore_hub (s : State) (n : Nat) (c : Core) : (s.setCore n c).hub = s.hub := rfl
@[simp] theorem State.setCore_mem (s : State) (n : Nat) (c : Core) : (s.setCore n c).mem = s.mem := rfl
@[simp] theorem State.setCore_cache (s : State) (n : Nat) (c : Core) : (s.setCore n c).cache = s.cache := rfl
@[simp] theorem State.setCore_links (s : State) (n : Nat) (c : Core) : (s.setCore n c).links = s.links := rfl
@[simp] theorem State.setCore_tim (s : State) (n : Nat) (c : Core) : (s.setCore n c).tim = s.tim := rfl
@[simp] theorem State.setCore_cal (s : State) (n : Nat) (c : Core) : (s.setCore n c).cal = s.cal := rfl
@[simp] theorem State.setCore_fab (s : State) (n : Nat) (c : Core) : (s.setCore n c).fab = s.fab := rfl
@[simp] theorem State.setCore_sol (s : State) (n : Nat) (c : Core) : (s.setCore n c).sol = s.sol := rfl
@[simp] theorem State.setCore_fns (s : State) (n : Nat) (c : Core) : (s.setCore n c).fns = s.fns := rfl
@[simp] theorem State.setCore_host (s : State) (n : Nat) (c : Core) : (s.setCore n c).host = s.host := rfl
@[simp] theorem State.setCore_cmds (s : State) (n : Nat) (c : Core) : (s.setCore n c).cmds = s.cmds := rfl
@[simp] theorem State.setCore_nextCmd (s : State) (n : Nat) (c : Core) : (s.setCore n c).nextCmd = s.nextCmd := rfl
@[simp] theorem State.setCore_ctxs (s : State) (n : Nat) (c : Core) : (s.setCore n c).ctxs = s.ctxs := rfl
@[simp] theorem State.setCore_parts (s : State) (n : Nat) (c : Core) : (s.setCore n c).parts = s.parts := rfl
@[simp] theorem State.setCore_scheds (s : State) (n : Nat) (c : Core) : (s.setCore n c).scheds = s.scheds := rfl
@[simp] theorem State.setCore_hdTlb (s : State) (n : Nat) (c : Core) : (s.setCore n c).hdTlb = s.hdTlb := rfl
@[simp] theorem State.setCore_saved (s : State) (n : Nat) (c : Core) : (s.setCore n c).saved = s.saved := rfl
@[simp] theorem State.setCore_pwr (s : State) (n : Nat) (c : Core) : (s.setCore n c).pwr = s.pwr := rfl
@[simp] theorem State.setCore_log (s : State) (n : Nat) (c : Core) : (s.setCore n c).log = s.log := rfl
@[simp] theorem State.setCore_recov (s : State) (n : Nat) (c : Core) : (s.setCore n c).recov = s.recov := rfl
@[simp] theorem State.setCore_mw (s : State) (n : Nat) (c : Core) : (s.setCore n c).mw = s.mw := rfl
@[simp] theorem State.setCore_sec (s : State) (n : Nat) (c : Core) : (s.setCore n c).sec = s.sec := rfl
@[simp] theorem State.setCore_sup (s : State) (n : Nat) (c : Core) : (s.setCore n c).sup = s.sup := rfl

/-! setCtx. -/

@[simp] theorem State.setCtx_pending (s : State) (n : Nat) (c : Ctx) : (s.setCtx n c).pending = s.pending := rfl
@[simp] theorem State.setCtx_free (s : State) (n : Nat) (c : Ctx) : (s.setCtx n c).free = s.free := rfl
@[simp] theorem State.setCtx_hub (s : State) (n : Nat) (c : Ctx) : (s.setCtx n c).hub = s.hub := rfl
@[simp] theorem State.setCtx_cores (s : State) (n : Nat) (c : Ctx) : (s.setCtx n c).cores = s.cores := rfl
@[simp] theorem State.setCtx_mem (s : State) (n : Nat) (c : Ctx) : (s.setCtx n c).mem = s.mem := rfl
@[simp] theorem State.setCtx_cache (s : State) (n : Nat) (c : Ctx) : (s.setCtx n c).cache = s.cache := rfl
@[simp] theorem State.setCtx_links (s : State) (n : Nat) (c : Ctx) : (s.setCtx n c).links = s.links := rfl
@[simp] theorem State.setCtx_tim (s : State) (n : Nat) (c : Ctx) : (s.setCtx n c).tim = s.tim := rfl
@[simp] theorem State.setCtx_cal (s : State) (n : Nat) (c : Ctx) : (s.setCtx n c).cal = s.cal := rfl
@[simp] theorem State.setCtx_fab (s : State) (n : Nat) (c : Ctx) : (s.setCtx n c).fab = s.fab := rfl
@[simp] theorem State.setCtx_sol (s : State) (n : Nat) (c : Ctx) : (s.setCtx n c).sol = s.sol := rfl
@[simp] theorem State.setCtx_fns (s : State) (n : Nat) (c : Ctx) : (s.setCtx n c).fns = s.fns := rfl
@[simp] theorem State.setCtx_host (s : State) (n : Nat) (c : Ctx) : (s.setCtx n c).host = s.host := rfl
@[simp] theorem State.setCtx_cmds (s : State) (n : Nat) (c : Ctx) : (s.setCtx n c).cmds = s.cmds := rfl
@[simp] theorem State.setCtx_nextCmd (s : State) (n : Nat) (c : Ctx) : (s.setCtx n c).nextCmd = s.nextCmd := rfl
@[simp] theorem State.setCtx_parts (s : State) (n : Nat) (c : Ctx) : (s.setCtx n c).parts = s.parts := rfl
@[simp] theorem State.setCtx_scheds (s : State) (n : Nat) (c : Ctx) : (s.setCtx n c).scheds = s.scheds := rfl
@[simp] theorem State.setCtx_hdTlb (s : State) (n : Nat) (c : Ctx) : (s.setCtx n c).hdTlb = s.hdTlb := rfl
@[simp] theorem State.setCtx_saved (s : State) (n : Nat) (c : Ctx) : (s.setCtx n c).saved = s.saved := rfl
@[simp] theorem State.setCtx_pwr (s : State) (n : Nat) (c : Ctx) : (s.setCtx n c).pwr = s.pwr := rfl
@[simp] theorem State.setCtx_log (s : State) (n : Nat) (c : Ctx) : (s.setCtx n c).log = s.log := rfl
@[simp] theorem State.setCtx_recov (s : State) (n : Nat) (c : Ctx) : (s.setCtx n c).recov = s.recov := rfl
@[simp] theorem State.setCtx_mw (s : State) (n : Nat) (c : Ctx) : (s.setCtx n c).mw = s.mw := rfl
@[simp] theorem State.setCtx_sec (s : State) (n : Nat) (c : Ctx) : (s.setCtx n c).sec = s.sec := rfl
@[simp] theorem State.setCtx_sup (s : State) (n : Nat) (c : Ctx) : (s.setCtx n c).sup = s.sup := rfl

/-! setPart. -/

@[simp] theorem State.setPart_pending (s : State) (n : Nat) (p : Part) : (s.setPart n p).pending = s.pending := rfl
@[simp] theorem State.setPart_free (s : State) (n : Nat) (p : Part) : (s.setPart n p).free = s.free := rfl
@[simp] theorem State.setPart_hub (s : State) (n : Nat) (p : Part) : (s.setPart n p).hub = s.hub := rfl
@[simp] theorem State.setPart_cores (s : State) (n : Nat) (p : Part) : (s.setPart n p).cores = s.cores := rfl
@[simp] theorem State.setPart_mem (s : State) (n : Nat) (p : Part) : (s.setPart n p).mem = s.mem := rfl
@[simp] theorem State.setPart_cache (s : State) (n : Nat) (p : Part) : (s.setPart n p).cache = s.cache := rfl
@[simp] theorem State.setPart_links (s : State) (n : Nat) (p : Part) : (s.setPart n p).links = s.links := rfl
@[simp] theorem State.setPart_tim (s : State) (n : Nat) (p : Part) : (s.setPart n p).tim = s.tim := rfl
@[simp] theorem State.setPart_cal (s : State) (n : Nat) (p : Part) : (s.setPart n p).cal = s.cal := rfl
@[simp] theorem State.setPart_fab (s : State) (n : Nat) (p : Part) : (s.setPart n p).fab = s.fab := rfl
@[simp] theorem State.setPart_sol (s : State) (n : Nat) (p : Part) : (s.setPart n p).sol = s.sol := rfl
@[simp] theorem State.setPart_fns (s : State) (n : Nat) (p : Part) : (s.setPart n p).fns = s.fns := rfl
@[simp] theorem State.setPart_host (s : State) (n : Nat) (p : Part) : (s.setPart n p).host = s.host := rfl
@[simp] theorem State.setPart_cmds (s : State) (n : Nat) (p : Part) : (s.setPart n p).cmds = s.cmds := rfl
@[simp] theorem State.setPart_nextCmd (s : State) (n : Nat) (p : Part) : (s.setPart n p).nextCmd = s.nextCmd := rfl
@[simp] theorem State.setPart_ctxs (s : State) (n : Nat) (p : Part) : (s.setPart n p).ctxs = s.ctxs := rfl
@[simp] theorem State.setPart_scheds (s : State) (n : Nat) (p : Part) : (s.setPart n p).scheds = s.scheds := rfl
@[simp] theorem State.setPart_hdTlb (s : State) (n : Nat) (p : Part) : (s.setPart n p).hdTlb = s.hdTlb := rfl
@[simp] theorem State.setPart_saved (s : State) (n : Nat) (p : Part) : (s.setPart n p).saved = s.saved := rfl
@[simp] theorem State.setPart_pwr (s : State) (n : Nat) (p : Part) : (s.setPart n p).pwr = s.pwr := rfl
@[simp] theorem State.setPart_log (s : State) (n : Nat) (p : Part) : (s.setPart n p).log = s.log := rfl
@[simp] theorem State.setPart_recov (s : State) (n : Nat) (p : Part) : (s.setPart n p).recov = s.recov := rfl
@[simp] theorem State.setPart_mw (s : State) (n : Nat) (p : Part) : (s.setPart n p).mw = s.mw := rfl
@[simp] theorem State.setPart_sec (s : State) (n : Nat) (p : Part) : (s.setPart n p).sec = s.sec := rfl
@[simp] theorem State.setPart_sup (s : State) (n : Nat) (p : Part) : (s.setPart n p).sup = s.sup := rfl

/-! setFn. -/

@[simp] theorem State.setFn_pending (s : State) (n : Nat) (f : HostFn) : (s.setFn n f).pending = s.pending := rfl
@[simp] theorem State.setFn_free (s : State) (n : Nat) (f : HostFn) : (s.setFn n f).free = s.free := rfl
@[simp] theorem State.setFn_hub (s : State) (n : Nat) (f : HostFn) : (s.setFn n f).hub = s.hub := rfl
@[simp] theorem State.setFn_cores (s : State) (n : Nat) (f : HostFn) : (s.setFn n f).cores = s.cores := rfl
@[simp] theorem State.setFn_mem (s : State) (n : Nat) (f : HostFn) : (s.setFn n f).mem = s.mem := rfl
@[simp] theorem State.setFn_cache (s : State) (n : Nat) (f : HostFn) : (s.setFn n f).cache = s.cache := rfl
@[simp] theorem State.setFn_links (s : State) (n : Nat) (f : HostFn) : (s.setFn n f).links = s.links := rfl
@[simp] theorem State.setFn_tim (s : State) (n : Nat) (f : HostFn) : (s.setFn n f).tim = s.tim := rfl
@[simp] theorem State.setFn_cal (s : State) (n : Nat) (f : HostFn) : (s.setFn n f).cal = s.cal := rfl
@[simp] theorem State.setFn_fab (s : State) (n : Nat) (f : HostFn) : (s.setFn n f).fab = s.fab := rfl
@[simp] theorem State.setFn_sol (s : State) (n : Nat) (f : HostFn) : (s.setFn n f).sol = s.sol := rfl
@[simp] theorem State.setFn_host (s : State) (n : Nat) (f : HostFn) : (s.setFn n f).host = s.host := rfl
@[simp] theorem State.setFn_cmds (s : State) (n : Nat) (f : HostFn) : (s.setFn n f).cmds = s.cmds := rfl
@[simp] theorem State.setFn_nextCmd (s : State) (n : Nat) (f : HostFn) : (s.setFn n f).nextCmd = s.nextCmd := rfl
@[simp] theorem State.setFn_ctxs (s : State) (n : Nat) (f : HostFn) : (s.setFn n f).ctxs = s.ctxs := rfl
@[simp] theorem State.setFn_parts (s : State) (n : Nat) (f : HostFn) : (s.setFn n f).parts = s.parts := rfl
@[simp] theorem State.setFn_scheds (s : State) (n : Nat) (f : HostFn) : (s.setFn n f).scheds = s.scheds := rfl
@[simp] theorem State.setFn_hdTlb (s : State) (n : Nat) (f : HostFn) : (s.setFn n f).hdTlb = s.hdTlb := rfl
@[simp] theorem State.setFn_saved (s : State) (n : Nat) (f : HostFn) : (s.setFn n f).saved = s.saved := rfl
@[simp] theorem State.setFn_pwr (s : State) (n : Nat) (f : HostFn) : (s.setFn n f).pwr = s.pwr := rfl
@[simp] theorem State.setFn_log (s : State) (n : Nat) (f : HostFn) : (s.setFn n f).log = s.log := rfl
@[simp] theorem State.setFn_recov (s : State) (n : Nat) (f : HostFn) : (s.setFn n f).recov = s.recov := rfl
@[simp] theorem State.setFn_mw (s : State) (n : Nat) (f : HostFn) : (s.setFn n f).mw = s.mw := rfl
@[simp] theorem State.setFn_sec (s : State) (n : Nat) (f : HostFn) : (s.setFn n f).sec = s.sec := rfl
@[simp] theorem State.setFn_sup (s : State) (n : Nat) (f : HostFn) : (s.setFn n f).sup = s.sup := rfl

/-! setSlice. -/

@[simp] theorem State.setSlice_pending (s : State) (n : Nat) (x : Slice) : (s.setSlice n x).pending = s.pending := rfl
@[simp] theorem State.setSlice_free (s : State) (n : Nat) (x : Slice) : (s.setSlice n x).free = s.free := rfl
@[simp] theorem State.setSlice_hub (s : State) (n : Nat) (x : Slice) : (s.setSlice n x).hub = s.hub := rfl
@[simp] theorem State.setSlice_cores (s : State) (n : Nat) (x : Slice) : (s.setSlice n x).cores = s.cores := rfl
@[simp] theorem State.setSlice_mem (s : State) (n : Nat) (x : Slice) : (s.setSlice n x).mem = s.mem := rfl
@[simp] theorem State.setSlice_links (s : State) (n : Nat) (x : Slice) : (s.setSlice n x).links = s.links := rfl
@[simp] theorem State.setSlice_tim (s : State) (n : Nat) (x : Slice) : (s.setSlice n x).tim = s.tim := rfl
@[simp] theorem State.setSlice_cal (s : State) (n : Nat) (x : Slice) : (s.setSlice n x).cal = s.cal := rfl
@[simp] theorem State.setSlice_fab (s : State) (n : Nat) (x : Slice) : (s.setSlice n x).fab = s.fab := rfl
@[simp] theorem State.setSlice_sol (s : State) (n : Nat) (x : Slice) : (s.setSlice n x).sol = s.sol := rfl
@[simp] theorem State.setSlice_fns (s : State) (n : Nat) (x : Slice) : (s.setSlice n x).fns = s.fns := rfl
@[simp] theorem State.setSlice_host (s : State) (n : Nat) (x : Slice) : (s.setSlice n x).host = s.host := rfl
@[simp] theorem State.setSlice_cmds (s : State) (n : Nat) (x : Slice) : (s.setSlice n x).cmds = s.cmds := rfl
@[simp] theorem State.setSlice_nextCmd (s : State) (n : Nat) (x : Slice) : (s.setSlice n x).nextCmd = s.nextCmd := rfl
@[simp] theorem State.setSlice_ctxs (s : State) (n : Nat) (x : Slice) : (s.setSlice n x).ctxs = s.ctxs := rfl
@[simp] theorem State.setSlice_parts (s : State) (n : Nat) (x : Slice) : (s.setSlice n x).parts = s.parts := rfl
@[simp] theorem State.setSlice_scheds (s : State) (n : Nat) (x : Slice) : (s.setSlice n x).scheds = s.scheds := rfl
@[simp] theorem State.setSlice_hdTlb (s : State) (n : Nat) (x : Slice) : (s.setSlice n x).hdTlb = s.hdTlb := rfl
@[simp] theorem State.setSlice_saved (s : State) (n : Nat) (x : Slice) : (s.setSlice n x).saved = s.saved := rfl
@[simp] theorem State.setSlice_pwr (s : State) (n : Nat) (x : Slice) : (s.setSlice n x).pwr = s.pwr := rfl
@[simp] theorem State.setSlice_log (s : State) (n : Nat) (x : Slice) : (s.setSlice n x).log = s.log := rfl
@[simp] theorem State.setSlice_recov (s : State) (n : Nat) (x : Slice) : (s.setSlice n x).recov = s.recov := rfl
@[simp] theorem State.setSlice_mw (s : State) (n : Nat) (x : Slice) : (s.setSlice n x).mw = s.mw := rfl
@[simp] theorem State.setSlice_sec (s : State) (n : Nat) (x : Slice) : (s.setSlice n x).sec = s.sec := rfl
@[simp] theorem State.setSlice_sup (s : State) (n : Nat) (x : Slice) : (s.setSlice n x).sup = s.sup := rfl

/-! setChan. -/

@[simp] theorem State.setChan_pending (s : State) (n : Nat) (x : Chan) : (s.setChan n x).pending = s.pending := rfl
@[simp] theorem State.setChan_free (s : State) (n : Nat) (x : Chan) : (s.setChan n x).free = s.free := rfl
@[simp] theorem State.setChan_hub (s : State) (n : Nat) (x : Chan) : (s.setChan n x).hub = s.hub := rfl
@[simp] theorem State.setChan_cores (s : State) (n : Nat) (x : Chan) : (s.setChan n x).cores = s.cores := rfl
@[simp] theorem State.setChan_cache (s : State) (n : Nat) (x : Chan) : (s.setChan n x).cache = s.cache := rfl
@[simp] theorem State.setChan_links (s : State) (n : Nat) (x : Chan) : (s.setChan n x).links = s.links := rfl
@[simp] theorem State.setChan_tim (s : State) (n : Nat) (x : Chan) : (s.setChan n x).tim = s.tim := rfl
@[simp] theorem State.setChan_cal (s : State) (n : Nat) (x : Chan) : (s.setChan n x).cal = s.cal := rfl
@[simp] theorem State.setChan_fab (s : State) (n : Nat) (x : Chan) : (s.setChan n x).fab = s.fab := rfl
@[simp] theorem State.setChan_sol (s : State) (n : Nat) (x : Chan) : (s.setChan n x).sol = s.sol := rfl
@[simp] theorem State.setChan_fns (s : State) (n : Nat) (x : Chan) : (s.setChan n x).fns = s.fns := rfl
@[simp] theorem State.setChan_host (s : State) (n : Nat) (x : Chan) : (s.setChan n x).host = s.host := rfl
@[simp] theorem State.setChan_cmds (s : State) (n : Nat) (x : Chan) : (s.setChan n x).cmds = s.cmds := rfl
@[simp] theorem State.setChan_nextCmd (s : State) (n : Nat) (x : Chan) : (s.setChan n x).nextCmd = s.nextCmd := rfl
@[simp] theorem State.setChan_ctxs (s : State) (n : Nat) (x : Chan) : (s.setChan n x).ctxs = s.ctxs := rfl
@[simp] theorem State.setChan_parts (s : State) (n : Nat) (x : Chan) : (s.setChan n x).parts = s.parts := rfl
@[simp] theorem State.setChan_scheds (s : State) (n : Nat) (x : Chan) : (s.setChan n x).scheds = s.scheds := rfl
@[simp] theorem State.setChan_hdTlb (s : State) (n : Nat) (x : Chan) : (s.setChan n x).hdTlb = s.hdTlb := rfl
@[simp] theorem State.setChan_saved (s : State) (n : Nat) (x : Chan) : (s.setChan n x).saved = s.saved := rfl
@[simp] theorem State.setChan_pwr (s : State) (n : Nat) (x : Chan) : (s.setChan n x).pwr = s.pwr := rfl
@[simp] theorem State.setChan_log (s : State) (n : Nat) (x : Chan) : (s.setChan n x).log = s.log := rfl
@[simp] theorem State.setChan_recov (s : State) (n : Nat) (x : Chan) : (s.setChan n x).recov = s.recov := rfl
@[simp] theorem State.setChan_mw (s : State) (n : Nat) (x : Chan) : (s.setChan n x).mw = s.mw := rfl
@[simp] theorem State.setChan_sec (s : State) (n : Nat) (x : Chan) : (s.setChan n x).sec = s.sec := rfl
@[simp] theorem State.setChan_sup (s : State) (n : Nat) (x : Chan) : (s.setChan n x).sup = s.sup := rfl

/-! setPort. -/

@[simp] theorem State.setPort_pending (s : State) (p : Nat) (x : Port) : (s.setPort p x).pending = s.pending := rfl
@[simp] theorem State.setPort_free (s : State) (p : Nat) (x : Port) : (s.setPort p x).free = s.free := rfl
@[simp] theorem State.setPort_hub (s : State) (p : Nat) (x : Port) : (s.setPort p x).hub = s.hub := rfl
@[simp] theorem State.setPort_cores (s : State) (p : Nat) (x : Port) : (s.setPort p x).cores = s.cores := rfl
@[simp] theorem State.setPort_mem (s : State) (p : Nat) (x : Port) : (s.setPort p x).mem = s.mem := rfl
@[simp] theorem State.setPort_cache (s : State) (p : Nat) (x : Port) : (s.setPort p x).cache = s.cache := rfl
@[simp] theorem State.setPort_links (s : State) (p : Nat) (x : Port) : (s.setPort p x).links = s.links := rfl
@[simp] theorem State.setPort_tim (s : State) (p : Nat) (x : Port) : (s.setPort p x).tim = s.tim := rfl
@[simp] theorem State.setPort_cal (s : State) (p : Nat) (x : Port) : (s.setPort p x).cal = s.cal := rfl
@[simp] theorem State.setPort_sol (s : State) (p : Nat) (x : Port) : (s.setPort p x).sol = s.sol := rfl
@[simp] theorem State.setPort_fns (s : State) (p : Nat) (x : Port) : (s.setPort p x).fns = s.fns := rfl
@[simp] theorem State.setPort_host (s : State) (p : Nat) (x : Port) : (s.setPort p x).host = s.host := rfl
@[simp] theorem State.setPort_cmds (s : State) (p : Nat) (x : Port) : (s.setPort p x).cmds = s.cmds := rfl
@[simp] theorem State.setPort_nextCmd (s : State) (p : Nat) (x : Port) : (s.setPort p x).nextCmd = s.nextCmd := rfl
@[simp] theorem State.setPort_ctxs (s : State) (p : Nat) (x : Port) : (s.setPort p x).ctxs = s.ctxs := rfl
@[simp] theorem State.setPort_parts (s : State) (p : Nat) (x : Port) : (s.setPort p x).parts = s.parts := rfl
@[simp] theorem State.setPort_scheds (s : State) (p : Nat) (x : Port) : (s.setPort p x).scheds = s.scheds := rfl
@[simp] theorem State.setPort_hdTlb (s : State) (p : Nat) (x : Port) : (s.setPort p x).hdTlb = s.hdTlb := rfl
@[simp] theorem State.setPort_saved (s : State) (p : Nat) (x : Port) : (s.setPort p x).saved = s.saved := rfl
@[simp] theorem State.setPort_pwr (s : State) (p : Nat) (x : Port) : (s.setPort p x).pwr = s.pwr := rfl
@[simp] theorem State.setPort_log (s : State) (p : Nat) (x : Port) : (s.setPort p x).log = s.log := rfl
@[simp] theorem State.setPort_recov (s : State) (p : Nat) (x : Port) : (s.setPort p x).recov = s.recov := rfl
@[simp] theorem State.setPort_mw (s : State) (p : Nat) (x : Port) : (s.setPort p x).mw = s.mw := rfl
@[simp] theorem State.setPort_sec (s : State) (p : Nat) (x : Port) : (s.setPort p x).sec = s.sec := rfl
@[simp] theorem State.setPort_sup (s : State) (p : Nat) (x : Port) : (s.setPort p x).sup = s.sup := rfl

/-! setLink. -/

@[simp] theorem State.setLink_pending (s : State) (n : Nat) (x : DieLink) : (s.setLink n x).pending = s.pending := rfl
@[simp] theorem State.setLink_free (s : State) (n : Nat) (x : DieLink) : (s.setLink n x).free = s.free := rfl
@[simp] theorem State.setLink_hub (s : State) (n : Nat) (x : DieLink) : (s.setLink n x).hub = s.hub := rfl
@[simp] theorem State.setLink_cores (s : State) (n : Nat) (x : DieLink) : (s.setLink n x).cores = s.cores := rfl
@[simp] theorem State.setLink_mem (s : State) (n : Nat) (x : DieLink) : (s.setLink n x).mem = s.mem := rfl
@[simp] theorem State.setLink_cache (s : State) (n : Nat) (x : DieLink) : (s.setLink n x).cache = s.cache := rfl
@[simp] theorem State.setLink_tim (s : State) (n : Nat) (x : DieLink) : (s.setLink n x).tim = s.tim := rfl
@[simp] theorem State.setLink_cal (s : State) (n : Nat) (x : DieLink) : (s.setLink n x).cal = s.cal := rfl
@[simp] theorem State.setLink_fab (s : State) (n : Nat) (x : DieLink) : (s.setLink n x).fab = s.fab := rfl
@[simp] theorem State.setLink_sol (s : State) (n : Nat) (x : DieLink) : (s.setLink n x).sol = s.sol := rfl
@[simp] theorem State.setLink_fns (s : State) (n : Nat) (x : DieLink) : (s.setLink n x).fns = s.fns := rfl
@[simp] theorem State.setLink_host (s : State) (n : Nat) (x : DieLink) : (s.setLink n x).host = s.host := rfl
@[simp] theorem State.setLink_cmds (s : State) (n : Nat) (x : DieLink) : (s.setLink n x).cmds = s.cmds := rfl
@[simp] theorem State.setLink_nextCmd (s : State) (n : Nat) (x : DieLink) : (s.setLink n x).nextCmd = s.nextCmd := rfl
@[simp] theorem State.setLink_ctxs (s : State) (n : Nat) (x : DieLink) : (s.setLink n x).ctxs = s.ctxs := rfl
@[simp] theorem State.setLink_parts (s : State) (n : Nat) (x : DieLink) : (s.setLink n x).parts = s.parts := rfl
@[simp] theorem State.setLink_scheds (s : State) (n : Nat) (x : DieLink) : (s.setLink n x).scheds = s.scheds := rfl
@[simp] theorem State.setLink_hdTlb (s : State) (n : Nat) (x : DieLink) : (s.setLink n x).hdTlb = s.hdTlb := rfl
@[simp] theorem State.setLink_saved (s : State) (n : Nat) (x : DieLink) : (s.setLink n x).saved = s.saved := rfl
@[simp] theorem State.setLink_pwr (s : State) (n : Nat) (x : DieLink) : (s.setLink n x).pwr = s.pwr := rfl
@[simp] theorem State.setLink_log (s : State) (n : Nat) (x : DieLink) : (s.setLink n x).log = s.log := rfl
@[simp] theorem State.setLink_recov (s : State) (n : Nat) (x : DieLink) : (s.setLink n x).recov = s.recov := rfl
@[simp] theorem State.setLink_mw (s : State) (n : Nat) (x : DieLink) : (s.setLink n x).mw = s.mw := rfl
@[simp] theorem State.setLink_sec (s : State) (n : Nat) (x : DieLink) : (s.setLink n x).sec = s.sec := rfl
@[simp] theorem State.setLink_sup (s : State) (n : Nat) (x : DieLink) : (s.setLink n x).sup = s.sup := rfl

/-! setSite. -/

@[simp] theorem State.setSite_pending (s : State) (n : Nat) (x : Site) : (s.setSite n x).pending = s.pending := rfl
@[simp] theorem State.setSite_free (s : State) (n : Nat) (x : Site) : (s.setSite n x).free = s.free := rfl
@[simp] theorem State.setSite_hub (s : State) (n : Nat) (x : Site) : (s.setSite n x).hub = s.hub := rfl
@[simp] theorem State.setSite_cores (s : State) (n : Nat) (x : Site) : (s.setSite n x).cores = s.cores := rfl
@[simp] theorem State.setSite_mem (s : State) (n : Nat) (x : Site) : (s.setSite n x).mem = s.mem := rfl
@[simp] theorem State.setSite_cache (s : State) (n : Nat) (x : Site) : (s.setSite n x).cache = s.cache := rfl
@[simp] theorem State.setSite_tim (s : State) (n : Nat) (x : Site) : (s.setSite n x).tim = s.tim := rfl
@[simp] theorem State.setSite_cal (s : State) (n : Nat) (x : Site) : (s.setSite n x).cal = s.cal := rfl
@[simp] theorem State.setSite_fab (s : State) (n : Nat) (x : Site) : (s.setSite n x).fab = s.fab := rfl
@[simp] theorem State.setSite_sol (s : State) (n : Nat) (x : Site) : (s.setSite n x).sol = s.sol := rfl
@[simp] theorem State.setSite_fns (s : State) (n : Nat) (x : Site) : (s.setSite n x).fns = s.fns := rfl
@[simp] theorem State.setSite_host (s : State) (n : Nat) (x : Site) : (s.setSite n x).host = s.host := rfl
@[simp] theorem State.setSite_cmds (s : State) (n : Nat) (x : Site) : (s.setSite n x).cmds = s.cmds := rfl
@[simp] theorem State.setSite_nextCmd (s : State) (n : Nat) (x : Site) : (s.setSite n x).nextCmd = s.nextCmd := rfl
@[simp] theorem State.setSite_ctxs (s : State) (n : Nat) (x : Site) : (s.setSite n x).ctxs = s.ctxs := rfl
@[simp] theorem State.setSite_parts (s : State) (n : Nat) (x : Site) : (s.setSite n x).parts = s.parts := rfl
@[simp] theorem State.setSite_scheds (s : State) (n : Nat) (x : Site) : (s.setSite n x).scheds = s.scheds := rfl
@[simp] theorem State.setSite_hdTlb (s : State) (n : Nat) (x : Site) : (s.setSite n x).hdTlb = s.hdTlb := rfl
@[simp] theorem State.setSite_saved (s : State) (n : Nat) (x : Site) : (s.setSite n x).saved = s.saved := rfl
@[simp] theorem State.setSite_pwr (s : State) (n : Nat) (x : Site) : (s.setSite n x).pwr = s.pwr := rfl
@[simp] theorem State.setSite_log (s : State) (n : Nat) (x : Site) : (s.setSite n x).log = s.log := rfl
@[simp] theorem State.setSite_recov (s : State) (n : Nat) (x : Site) : (s.setSite n x).recov = s.recov := rfl
@[simp] theorem State.setSite_mw (s : State) (n : Nat) (x : Site) : (s.setSite n x).mw = s.mw := rfl
@[simp] theorem State.setSite_sec (s : State) (n : Nat) (x : Site) : (s.setSite n x).sec = s.sec := rfl
@[simp] theorem State.setSite_sup (s : State) (n : Nat) (x : Site) : (s.setSite n x).sup = s.sup := rfl

/-! setSched. -/

@[simp] theorem State.setSched_pending (s : State) (g : Nat) (x : Schedule) : (s.setSched g x).pending = s.pending := rfl
@[simp] theorem State.setSched_free (s : State) (g : Nat) (x : Schedule) : (s.setSched g x).free = s.free := rfl
@[simp] theorem State.setSched_hub (s : State) (g : Nat) (x : Schedule) : (s.setSched g x).hub = s.hub := rfl
@[simp] theorem State.setSched_cores (s : State) (g : Nat) (x : Schedule) : (s.setSched g x).cores = s.cores := rfl
@[simp] theorem State.setSched_mem (s : State) (g : Nat) (x : Schedule) : (s.setSched g x).mem = s.mem := rfl
@[simp] theorem State.setSched_cache (s : State) (g : Nat) (x : Schedule) : (s.setSched g x).cache = s.cache := rfl
@[simp] theorem State.setSched_links (s : State) (g : Nat) (x : Schedule) : (s.setSched g x).links = s.links := rfl
@[simp] theorem State.setSched_tim (s : State) (g : Nat) (x : Schedule) : (s.setSched g x).tim = s.tim := rfl
@[simp] theorem State.setSched_cal (s : State) (g : Nat) (x : Schedule) : (s.setSched g x).cal = s.cal := rfl
@[simp] theorem State.setSched_fab (s : State) (g : Nat) (x : Schedule) : (s.setSched g x).fab = s.fab := rfl
@[simp] theorem State.setSched_fns (s : State) (g : Nat) (x : Schedule) : (s.setSched g x).fns = s.fns := rfl
@[simp] theorem State.setSched_host (s : State) (g : Nat) (x : Schedule) : (s.setSched g x).host = s.host := rfl
@[simp] theorem State.setSched_cmds (s : State) (g : Nat) (x : Schedule) : (s.setSched g x).cmds = s.cmds := rfl
@[simp] theorem State.setSched_nextCmd (s : State) (g : Nat) (x : Schedule) : (s.setSched g x).nextCmd = s.nextCmd := rfl
@[simp] theorem State.setSched_ctxs (s : State) (g : Nat) (x : Schedule) : (s.setSched g x).ctxs = s.ctxs := rfl
@[simp] theorem State.setSched_parts (s : State) (g : Nat) (x : Schedule) : (s.setSched g x).parts = s.parts := rfl
@[simp] theorem State.setSched_scheds (s : State) (g : Nat) (x : Schedule) : (s.setSched g x).scheds = s.scheds := rfl
@[simp] theorem State.setSched_hdTlb (s : State) (g : Nat) (x : Schedule) : (s.setSched g x).hdTlb = s.hdTlb := rfl
@[simp] theorem State.setSched_saved (s : State) (g : Nat) (x : Schedule) : (s.setSched g x).saved = s.saved := rfl
@[simp] theorem State.setSched_pwr (s : State) (g : Nat) (x : Schedule) : (s.setSched g x).pwr = s.pwr := rfl
@[simp] theorem State.setSched_log (s : State) (g : Nat) (x : Schedule) : (s.setSched g x).log = s.log := rfl
@[simp] theorem State.setSched_recov (s : State) (g : Nat) (x : Schedule) : (s.setSched g x).recov = s.recov := rfl
@[simp] theorem State.setSched_mw (s : State) (g : Nat) (x : Schedule) : (s.setSched g x).mw = s.mw := rfl
@[simp] theorem State.setSched_sec (s : State) (g : Nat) (x : Schedule) : (s.setSched g x).sec = s.sec := rfl
@[simp] theorem State.setSched_sup (s : State) (g : Nat) (x : Schedule) : (s.setSched g x).sup = s.sup := rfl

/-! setPlan. -/

@[simp] theorem State.setPlan_pending (s : State) (n : Nat) (p : Sched) : (s.setPlan n p).pending = s.pending := rfl
@[simp] theorem State.setPlan_free (s : State) (n : Nat) (p : Sched) : (s.setPlan n p).free = s.free := rfl
@[simp] theorem State.setPlan_hub (s : State) (n : Nat) (p : Sched) : (s.setPlan n p).hub = s.hub := rfl
@[simp] theorem State.setPlan_cores (s : State) (n : Nat) (p : Sched) : (s.setPlan n p).cores = s.cores := rfl
@[simp] theorem State.setPlan_mem (s : State) (n : Nat) (p : Sched) : (s.setPlan n p).mem = s.mem := rfl
@[simp] theorem State.setPlan_cache (s : State) (n : Nat) (p : Sched) : (s.setPlan n p).cache = s.cache := rfl
@[simp] theorem State.setPlan_links (s : State) (n : Nat) (p : Sched) : (s.setPlan n p).links = s.links := rfl
@[simp] theorem State.setPlan_tim (s : State) (n : Nat) (p : Sched) : (s.setPlan n p).tim = s.tim := rfl
@[simp] theorem State.setPlan_cal (s : State) (n : Nat) (p : Sched) : (s.setPlan n p).cal = s.cal := rfl
@[simp] theorem State.setPlan_fab (s : State) (n : Nat) (p : Sched) : (s.setPlan n p).fab = s.fab := rfl
@[simp] theorem State.setPlan_sol (s : State) (n : Nat) (p : Sched) : (s.setPlan n p).sol = s.sol := rfl
@[simp] theorem State.setPlan_fns (s : State) (n : Nat) (p : Sched) : (s.setPlan n p).fns = s.fns := rfl
@[simp] theorem State.setPlan_host (s : State) (n : Nat) (p : Sched) : (s.setPlan n p).host = s.host := rfl
@[simp] theorem State.setPlan_cmds (s : State) (n : Nat) (p : Sched) : (s.setPlan n p).cmds = s.cmds := rfl
@[simp] theorem State.setPlan_nextCmd (s : State) (n : Nat) (p : Sched) : (s.setPlan n p).nextCmd = s.nextCmd := rfl
@[simp] theorem State.setPlan_ctxs (s : State) (n : Nat) (p : Sched) : (s.setPlan n p).ctxs = s.ctxs := rfl
@[simp] theorem State.setPlan_parts (s : State) (n : Nat) (p : Sched) : (s.setPlan n p).parts = s.parts := rfl
@[simp] theorem State.setPlan_hdTlb (s : State) (n : Nat) (p : Sched) : (s.setPlan n p).hdTlb = s.hdTlb := rfl
@[simp] theorem State.setPlan_saved (s : State) (n : Nat) (p : Sched) : (s.setPlan n p).saved = s.saved := rfl
@[simp] theorem State.setPlan_pwr (s : State) (n : Nat) (p : Sched) : (s.setPlan n p).pwr = s.pwr := rfl
@[simp] theorem State.setPlan_log (s : State) (n : Nat) (p : Sched) : (s.setPlan n p).log = s.log := rfl
@[simp] theorem State.setPlan_recov (s : State) (n : Nat) (p : Sched) : (s.setPlan n p).recov = s.recov := rfl
@[simp] theorem State.setPlan_mw (s : State) (n : Nat) (p : Sched) : (s.setPlan n p).mw = s.mw := rfl
@[simp] theorem State.setPlan_sec (s : State) (n : Nat) (p : Sched) : (s.setPlan n p).sec = s.sec := rfl
@[simp] theorem State.setPlan_sup (s : State) (n : Nat) (p : Sched) : (s.setPlan n p).sup = s.sup := rfl

/-! modCore. -/

@[simp] theorem State.modCore_pending (s : State) (n : Nat) (f : Core → Core) : (s.modCore n f).pending = s.pending := rfl
@[simp] theorem State.modCore_free (s : State) (n : Nat) (f : Core → Core) : (s.modCore n f).free = s.free := rfl
@[simp] theorem State.modCore_hub (s : State) (n : Nat) (f : Core → Core) : (s.modCore n f).hub = s.hub := rfl
@[simp] theorem State.modCore_mem (s : State) (n : Nat) (f : Core → Core) : (s.modCore n f).mem = s.mem := rfl
@[simp] theorem State.modCore_cache (s : State) (n : Nat) (f : Core → Core) : (s.modCore n f).cache = s.cache := rfl
@[simp] theorem State.modCore_links (s : State) (n : Nat) (f : Core → Core) : (s.modCore n f).links = s.links := rfl
@[simp] theorem State.modCore_tim (s : State) (n : Nat) (f : Core → Core) : (s.modCore n f).tim = s.tim := rfl
@[simp] theorem State.modCore_cal (s : State) (n : Nat) (f : Core → Core) : (s.modCore n f).cal = s.cal := rfl
@[simp] theorem State.modCore_fab (s : State) (n : Nat) (f : Core → Core) : (s.modCore n f).fab = s.fab := rfl
@[simp] theorem State.modCore_sol (s : State) (n : Nat) (f : Core → Core) : (s.modCore n f).sol = s.sol := rfl
@[simp] theorem State.modCore_fns (s : State) (n : Nat) (f : Core → Core) : (s.modCore n f).fns = s.fns := rfl
@[simp] theorem State.modCore_host (s : State) (n : Nat) (f : Core → Core) : (s.modCore n f).host = s.host := rfl
@[simp] theorem State.modCore_cmds (s : State) (n : Nat) (f : Core → Core) : (s.modCore n f).cmds = s.cmds := rfl
@[simp] theorem State.modCore_nextCmd (s : State) (n : Nat) (f : Core → Core) : (s.modCore n f).nextCmd = s.nextCmd := rfl
@[simp] theorem State.modCore_ctxs (s : State) (n : Nat) (f : Core → Core) : (s.modCore n f).ctxs = s.ctxs := rfl
@[simp] theorem State.modCore_parts (s : State) (n : Nat) (f : Core → Core) : (s.modCore n f).parts = s.parts := rfl
@[simp] theorem State.modCore_scheds (s : State) (n : Nat) (f : Core → Core) : (s.modCore n f).scheds = s.scheds := rfl
@[simp] theorem State.modCore_hdTlb (s : State) (n : Nat) (f : Core → Core) : (s.modCore n f).hdTlb = s.hdTlb := rfl
@[simp] theorem State.modCore_saved (s : State) (n : Nat) (f : Core → Core) : (s.modCore n f).saved = s.saved := rfl
@[simp] theorem State.modCore_pwr (s : State) (n : Nat) (f : Core → Core) : (s.modCore n f).pwr = s.pwr := rfl
@[simp] theorem State.modCore_log (s : State) (n : Nat) (f : Core → Core) : (s.modCore n f).log = s.log := rfl
@[simp] theorem State.modCore_recov (s : State) (n : Nat) (f : Core → Core) : (s.modCore n f).recov = s.recov := rfl
@[simp] theorem State.modCore_mw (s : State) (n : Nat) (f : Core → Core) : (s.modCore n f).mw = s.mw := rfl
@[simp] theorem State.modCore_sec (s : State) (n : Nat) (f : Core → Core) : (s.modCore n f).sec = s.sec := rfl
@[simp] theorem State.modCore_sup (s : State) (n : Nat) (f : Core → Core) : (s.modCore n f).sup = s.sup := rfl

/-! modCtx. -/

@[simp] theorem State.modCtx_pending (s : State) (n : Nat) (f : Ctx → Ctx) : (s.modCtx n f).pending = s.pending := rfl
@[simp] theorem State.modCtx_free (s : State) (n : Nat) (f : Ctx → Ctx) : (s.modCtx n f).free = s.free := rfl
@[simp] theorem State.modCtx_hub (s : State) (n : Nat) (f : Ctx → Ctx) : (s.modCtx n f).hub = s.hub := rfl
@[simp] theorem State.modCtx_cores (s : State) (n : Nat) (f : Ctx → Ctx) : (s.modCtx n f).cores = s.cores := rfl
@[simp] theorem State.modCtx_mem (s : State) (n : Nat) (f : Ctx → Ctx) : (s.modCtx n f).mem = s.mem := rfl
@[simp] theorem State.modCtx_cache (s : State) (n : Nat) (f : Ctx → Ctx) : (s.modCtx n f).cache = s.cache := rfl
@[simp] theorem State.modCtx_links (s : State) (n : Nat) (f : Ctx → Ctx) : (s.modCtx n f).links = s.links := rfl
@[simp] theorem State.modCtx_tim (s : State) (n : Nat) (f : Ctx → Ctx) : (s.modCtx n f).tim = s.tim := rfl
@[simp] theorem State.modCtx_cal (s : State) (n : Nat) (f : Ctx → Ctx) : (s.modCtx n f).cal = s.cal := rfl
@[simp] theorem State.modCtx_fab (s : State) (n : Nat) (f : Ctx → Ctx) : (s.modCtx n f).fab = s.fab := rfl
@[simp] theorem State.modCtx_sol (s : State) (n : Nat) (f : Ctx → Ctx) : (s.modCtx n f).sol = s.sol := rfl
@[simp] theorem State.modCtx_fns (s : State) (n : Nat) (f : Ctx → Ctx) : (s.modCtx n f).fns = s.fns := rfl
@[simp] theorem State.modCtx_host (s : State) (n : Nat) (f : Ctx → Ctx) : (s.modCtx n f).host = s.host := rfl
@[simp] theorem State.modCtx_cmds (s : State) (n : Nat) (f : Ctx → Ctx) : (s.modCtx n f).cmds = s.cmds := rfl
@[simp] theorem State.modCtx_nextCmd (s : State) (n : Nat) (f : Ctx → Ctx) : (s.modCtx n f).nextCmd = s.nextCmd := rfl
@[simp] theorem State.modCtx_parts (s : State) (n : Nat) (f : Ctx → Ctx) : (s.modCtx n f).parts = s.parts := rfl
@[simp] theorem State.modCtx_scheds (s : State) (n : Nat) (f : Ctx → Ctx) : (s.modCtx n f).scheds = s.scheds := rfl
@[simp] theorem State.modCtx_hdTlb (s : State) (n : Nat) (f : Ctx → Ctx) : (s.modCtx n f).hdTlb = s.hdTlb := rfl
@[simp] theorem State.modCtx_saved (s : State) (n : Nat) (f : Ctx → Ctx) : (s.modCtx n f).saved = s.saved := rfl
@[simp] theorem State.modCtx_pwr (s : State) (n : Nat) (f : Ctx → Ctx) : (s.modCtx n f).pwr = s.pwr := rfl
@[simp] theorem State.modCtx_log (s : State) (n : Nat) (f : Ctx → Ctx) : (s.modCtx n f).log = s.log := rfl
@[simp] theorem State.modCtx_recov (s : State) (n : Nat) (f : Ctx → Ctx) : (s.modCtx n f).recov = s.recov := rfl
@[simp] theorem State.modCtx_mw (s : State) (n : Nat) (f : Ctx → Ctx) : (s.modCtx n f).mw = s.mw := rfl
@[simp] theorem State.modCtx_sec (s : State) (n : Nat) (f : Ctx → Ctx) : (s.modCtx n f).sec = s.sec := rfl
@[simp] theorem State.modCtx_sup (s : State) (n : Nat) (f : Ctx → Ctx) : (s.modCtx n f).sup = s.sup := rfl

/-! modFn. -/

@[simp] theorem State.modFn_pending (s : State) (n : Nat) (f : HostFn → HostFn) : (s.modFn n f).pending = s.pending := rfl
@[simp] theorem State.modFn_free (s : State) (n : Nat) (f : HostFn → HostFn) : (s.modFn n f).free = s.free := rfl
@[simp] theorem State.modFn_hub (s : State) (n : Nat) (f : HostFn → HostFn) : (s.modFn n f).hub = s.hub := rfl
@[simp] theorem State.modFn_cores (s : State) (n : Nat) (f : HostFn → HostFn) : (s.modFn n f).cores = s.cores := rfl
@[simp] theorem State.modFn_mem (s : State) (n : Nat) (f : HostFn → HostFn) : (s.modFn n f).mem = s.mem := rfl
@[simp] theorem State.modFn_cache (s : State) (n : Nat) (f : HostFn → HostFn) : (s.modFn n f).cache = s.cache := rfl
@[simp] theorem State.modFn_links (s : State) (n : Nat) (f : HostFn → HostFn) : (s.modFn n f).links = s.links := rfl
@[simp] theorem State.modFn_tim (s : State) (n : Nat) (f : HostFn → HostFn) : (s.modFn n f).tim = s.tim := rfl
@[simp] theorem State.modFn_cal (s : State) (n : Nat) (f : HostFn → HostFn) : (s.modFn n f).cal = s.cal := rfl
@[simp] theorem State.modFn_fab (s : State) (n : Nat) (f : HostFn → HostFn) : (s.modFn n f).fab = s.fab := rfl
@[simp] theorem State.modFn_sol (s : State) (n : Nat) (f : HostFn → HostFn) : (s.modFn n f).sol = s.sol := rfl
@[simp] theorem State.modFn_host (s : State) (n : Nat) (f : HostFn → HostFn) : (s.modFn n f).host = s.host := rfl
@[simp] theorem State.modFn_cmds (s : State) (n : Nat) (f : HostFn → HostFn) : (s.modFn n f).cmds = s.cmds := rfl
@[simp] theorem State.modFn_nextCmd (s : State) (n : Nat) (f : HostFn → HostFn) : (s.modFn n f).nextCmd = s.nextCmd := rfl
@[simp] theorem State.modFn_ctxs (s : State) (n : Nat) (f : HostFn → HostFn) : (s.modFn n f).ctxs = s.ctxs := rfl
@[simp] theorem State.modFn_parts (s : State) (n : Nat) (f : HostFn → HostFn) : (s.modFn n f).parts = s.parts := rfl
@[simp] theorem State.modFn_scheds (s : State) (n : Nat) (f : HostFn → HostFn) : (s.modFn n f).scheds = s.scheds := rfl
@[simp] theorem State.modFn_hdTlb (s : State) (n : Nat) (f : HostFn → HostFn) : (s.modFn n f).hdTlb = s.hdTlb := rfl
@[simp] theorem State.modFn_saved (s : State) (n : Nat) (f : HostFn → HostFn) : (s.modFn n f).saved = s.saved := rfl
@[simp] theorem State.modFn_pwr (s : State) (n : Nat) (f : HostFn → HostFn) : (s.modFn n f).pwr = s.pwr := rfl
@[simp] theorem State.modFn_log (s : State) (n : Nat) (f : HostFn → HostFn) : (s.modFn n f).log = s.log := rfl
@[simp] theorem State.modFn_recov (s : State) (n : Nat) (f : HostFn → HostFn) : (s.modFn n f).recov = s.recov := rfl
@[simp] theorem State.modFn_mw (s : State) (n : Nat) (f : HostFn → HostFn) : (s.modFn n f).mw = s.mw := rfl
@[simp] theorem State.modFn_sec (s : State) (n : Nat) (f : HostFn → HostFn) : (s.modFn n f).sec = s.sec := rfl
@[simp] theorem State.modFn_sup (s : State) (n : Nat) (f : HostFn → HostFn) : (s.modFn n f).sup = s.sup := rfl

/-! modSlice. -/

@[simp] theorem State.modSlice_pending (s : State) (n : Nat) (f : Slice → Slice) : (s.modSlice n f).pending = s.pending := rfl
@[simp] theorem State.modSlice_free (s : State) (n : Nat) (f : Slice → Slice) : (s.modSlice n f).free = s.free := rfl
@[simp] theorem State.modSlice_hub (s : State) (n : Nat) (f : Slice → Slice) : (s.modSlice n f).hub = s.hub := rfl
@[simp] theorem State.modSlice_cores (s : State) (n : Nat) (f : Slice → Slice) : (s.modSlice n f).cores = s.cores := rfl
@[simp] theorem State.modSlice_mem (s : State) (n : Nat) (f : Slice → Slice) : (s.modSlice n f).mem = s.mem := rfl
@[simp] theorem State.modSlice_links (s : State) (n : Nat) (f : Slice → Slice) : (s.modSlice n f).links = s.links := rfl
@[simp] theorem State.modSlice_tim (s : State) (n : Nat) (f : Slice → Slice) : (s.modSlice n f).tim = s.tim := rfl
@[simp] theorem State.modSlice_cal (s : State) (n : Nat) (f : Slice → Slice) : (s.modSlice n f).cal = s.cal := rfl
@[simp] theorem State.modSlice_fab (s : State) (n : Nat) (f : Slice → Slice) : (s.modSlice n f).fab = s.fab := rfl
@[simp] theorem State.modSlice_sol (s : State) (n : Nat) (f : Slice → Slice) : (s.modSlice n f).sol = s.sol := rfl
@[simp] theorem State.modSlice_fns (s : State) (n : Nat) (f : Slice → Slice) : (s.modSlice n f).fns = s.fns := rfl
@[simp] theorem State.modSlice_host (s : State) (n : Nat) (f : Slice → Slice) : (s.modSlice n f).host = s.host := rfl
@[simp] theorem State.modSlice_cmds (s : State) (n : Nat) (f : Slice → Slice) : (s.modSlice n f).cmds = s.cmds := rfl
@[simp] theorem State.modSlice_nextCmd (s : State) (n : Nat) (f : Slice → Slice) : (s.modSlice n f).nextCmd = s.nextCmd := rfl
@[simp] theorem State.modSlice_ctxs (s : State) (n : Nat) (f : Slice → Slice) : (s.modSlice n f).ctxs = s.ctxs := rfl
@[simp] theorem State.modSlice_parts (s : State) (n : Nat) (f : Slice → Slice) : (s.modSlice n f).parts = s.parts := rfl
@[simp] theorem State.modSlice_scheds (s : State) (n : Nat) (f : Slice → Slice) : (s.modSlice n f).scheds = s.scheds := rfl
@[simp] theorem State.modSlice_hdTlb (s : State) (n : Nat) (f : Slice → Slice) : (s.modSlice n f).hdTlb = s.hdTlb := rfl
@[simp] theorem State.modSlice_saved (s : State) (n : Nat) (f : Slice → Slice) : (s.modSlice n f).saved = s.saved := rfl
@[simp] theorem State.modSlice_pwr (s : State) (n : Nat) (f : Slice → Slice) : (s.modSlice n f).pwr = s.pwr := rfl
@[simp] theorem State.modSlice_log (s : State) (n : Nat) (f : Slice → Slice) : (s.modSlice n f).log = s.log := rfl
@[simp] theorem State.modSlice_recov (s : State) (n : Nat) (f : Slice → Slice) : (s.modSlice n f).recov = s.recov := rfl
@[simp] theorem State.modSlice_mw (s : State) (n : Nat) (f : Slice → Slice) : (s.modSlice n f).mw = s.mw := rfl
@[simp] theorem State.modSlice_sec (s : State) (n : Nat) (f : Slice → Slice) : (s.modSlice n f).sec = s.sec := rfl
@[simp] theorem State.modSlice_sup (s : State) (n : Nat) (f : Slice → Slice) : (s.modSlice n f).sup = s.sup := rfl

/-! modCmd. -/

@[simp] theorem State.modCmd_pending (s : State) (id : Nat) (f : Cmd → Cmd) : (s.modCmd id f).pending = s.pending := rfl
@[simp] theorem State.modCmd_free (s : State) (id : Nat) (f : Cmd → Cmd) : (s.modCmd id f).free = s.free := rfl
@[simp] theorem State.modCmd_hub (s : State) (id : Nat) (f : Cmd → Cmd) : (s.modCmd id f).hub = s.hub := rfl
@[simp] theorem State.modCmd_cores (s : State) (id : Nat) (f : Cmd → Cmd) : (s.modCmd id f).cores = s.cores := rfl
@[simp] theorem State.modCmd_mem (s : State) (id : Nat) (f : Cmd → Cmd) : (s.modCmd id f).mem = s.mem := rfl
@[simp] theorem State.modCmd_cache (s : State) (id : Nat) (f : Cmd → Cmd) : (s.modCmd id f).cache = s.cache := rfl
@[simp] theorem State.modCmd_links (s : State) (id : Nat) (f : Cmd → Cmd) : (s.modCmd id f).links = s.links := rfl
@[simp] theorem State.modCmd_tim (s : State) (id : Nat) (f : Cmd → Cmd) : (s.modCmd id f).tim = s.tim := rfl
@[simp] theorem State.modCmd_cal (s : State) (id : Nat) (f : Cmd → Cmd) : (s.modCmd id f).cal = s.cal := rfl
@[simp] theorem State.modCmd_fab (s : State) (id : Nat) (f : Cmd → Cmd) : (s.modCmd id f).fab = s.fab := rfl
@[simp] theorem State.modCmd_sol (s : State) (id : Nat) (f : Cmd → Cmd) : (s.modCmd id f).sol = s.sol := rfl
@[simp] theorem State.modCmd_fns (s : State) (id : Nat) (f : Cmd → Cmd) : (s.modCmd id f).fns = s.fns := rfl
@[simp] theorem State.modCmd_host (s : State) (id : Nat) (f : Cmd → Cmd) : (s.modCmd id f).host = s.host := rfl
@[simp] theorem State.modCmd_nextCmd (s : State) (id : Nat) (f : Cmd → Cmd) : (s.modCmd id f).nextCmd = s.nextCmd := rfl
@[simp] theorem State.modCmd_ctxs (s : State) (id : Nat) (f : Cmd → Cmd) : (s.modCmd id f).ctxs = s.ctxs := rfl
@[simp] theorem State.modCmd_parts (s : State) (id : Nat) (f : Cmd → Cmd) : (s.modCmd id f).parts = s.parts := rfl
@[simp] theorem State.modCmd_scheds (s : State) (id : Nat) (f : Cmd → Cmd) : (s.modCmd id f).scheds = s.scheds := rfl
@[simp] theorem State.modCmd_hdTlb (s : State) (id : Nat) (f : Cmd → Cmd) : (s.modCmd id f).hdTlb = s.hdTlb := rfl
@[simp] theorem State.modCmd_saved (s : State) (id : Nat) (f : Cmd → Cmd) : (s.modCmd id f).saved = s.saved := rfl
@[simp] theorem State.modCmd_pwr (s : State) (id : Nat) (f : Cmd → Cmd) : (s.modCmd id f).pwr = s.pwr := rfl
@[simp] theorem State.modCmd_log (s : State) (id : Nat) (f : Cmd → Cmd) : (s.modCmd id f).log = s.log := rfl
@[simp] theorem State.modCmd_recov (s : State) (id : Nat) (f : Cmd → Cmd) : (s.modCmd id f).recov = s.recov := rfl
@[simp] theorem State.modCmd_mw (s : State) (id : Nat) (f : Cmd → Cmd) : (s.modCmd id f).mw = s.mw := rfl
@[simp] theorem State.modCmd_sec (s : State) (id : Nat) (f : Cmd → Cmd) : (s.modCmd id f).sec = s.sec := rfl
@[simp] theorem State.modCmd_sup (s : State) (id : Nat) (f : Cmd → Cmd) : (s.modCmd id f).sup = s.sup := rfl

/-! modTim. -/

@[simp] theorem State.modTim_pending (s : State) (f : Tim → Tim) : (s.modTim f).pending = s.pending := rfl
@[simp] theorem State.modTim_free (s : State) (f : Tim → Tim) : (s.modTim f).free = s.free := rfl
@[simp] theorem State.modTim_hub (s : State) (f : Tim → Tim) : (s.modTim f).hub = s.hub := rfl
@[simp] theorem State.modTim_cores (s : State) (f : Tim → Tim) : (s.modTim f).cores = s.cores := rfl
@[simp] theorem State.modTim_mem (s : State) (f : Tim → Tim) : (s.modTim f).mem = s.mem := rfl
@[simp] theorem State.modTim_cache (s : State) (f : Tim → Tim) : (s.modTim f).cache = s.cache := rfl
@[simp] theorem State.modTim_links (s : State) (f : Tim → Tim) : (s.modTim f).links = s.links := rfl
@[simp] theorem State.modTim_cal (s : State) (f : Tim → Tim) : (s.modTim f).cal = s.cal := rfl
@[simp] theorem State.modTim_fab (s : State) (f : Tim → Tim) : (s.modTim f).fab = s.fab := rfl
@[simp] theorem State.modTim_sol (s : State) (f : Tim → Tim) : (s.modTim f).sol = s.sol := rfl
@[simp] theorem State.modTim_fns (s : State) (f : Tim → Tim) : (s.modTim f).fns = s.fns := rfl
@[simp] theorem State.modTim_host (s : State) (f : Tim → Tim) : (s.modTim f).host = s.host := rfl
@[simp] theorem State.modTim_cmds (s : State) (f : Tim → Tim) : (s.modTim f).cmds = s.cmds := rfl
@[simp] theorem State.modTim_nextCmd (s : State) (f : Tim → Tim) : (s.modTim f).nextCmd = s.nextCmd := rfl
@[simp] theorem State.modTim_ctxs (s : State) (f : Tim → Tim) : (s.modTim f).ctxs = s.ctxs := rfl
@[simp] theorem State.modTim_parts (s : State) (f : Tim → Tim) : (s.modTim f).parts = s.parts := rfl
@[simp] theorem State.modTim_scheds (s : State) (f : Tim → Tim) : (s.modTim f).scheds = s.scheds := rfl
@[simp] theorem State.modTim_hdTlb (s : State) (f : Tim → Tim) : (s.modTim f).hdTlb = s.hdTlb := rfl
@[simp] theorem State.modTim_saved (s : State) (f : Tim → Tim) : (s.modTim f).saved = s.saved := rfl
@[simp] theorem State.modTim_pwr (s : State) (f : Tim → Tim) : (s.modTim f).pwr = s.pwr := rfl
@[simp] theorem State.modTim_log (s : State) (f : Tim → Tim) : (s.modTim f).log = s.log := rfl
@[simp] theorem State.modTim_recov (s : State) (f : Tim → Tim) : (s.modTim f).recov = s.recov := rfl
@[simp] theorem State.modTim_mw (s : State) (f : Tim → Tim) : (s.modTim f).mw = s.mw := rfl
@[simp] theorem State.modTim_sec (s : State) (f : Tim → Tim) : (s.modTim f).sec = s.sec := rfl
@[simp] theorem State.modTim_sup (s : State) (f : Tim → Tim) : (s.modTim f).sup = s.sup := rfl

/-! modPwr. -/

@[simp] theorem State.modPwr_pending (s : State) (f : Power → Power) : (s.modPwr f).pending = s.pending := rfl
@[simp] theorem State.modPwr_free (s : State) (f : Power → Power) : (s.modPwr f).free = s.free := rfl
@[simp] theorem State.modPwr_hub (s : State) (f : Power → Power) : (s.modPwr f).hub = s.hub := rfl
@[simp] theorem State.modPwr_cores (s : State) (f : Power → Power) : (s.modPwr f).cores = s.cores := rfl
@[simp] theorem State.modPwr_mem (s : State) (f : Power → Power) : (s.modPwr f).mem = s.mem := rfl
@[simp] theorem State.modPwr_cache (s : State) (f : Power → Power) : (s.modPwr f).cache = s.cache := rfl
@[simp] theorem State.modPwr_links (s : State) (f : Power → Power) : (s.modPwr f).links = s.links := rfl
@[simp] theorem State.modPwr_tim (s : State) (f : Power → Power) : (s.modPwr f).tim = s.tim := rfl
@[simp] theorem State.modPwr_cal (s : State) (f : Power → Power) : (s.modPwr f).cal = s.cal := rfl
@[simp] theorem State.modPwr_fab (s : State) (f : Power → Power) : (s.modPwr f).fab = s.fab := rfl
@[simp] theorem State.modPwr_sol (s : State) (f : Power → Power) : (s.modPwr f).sol = s.sol := rfl
@[simp] theorem State.modPwr_fns (s : State) (f : Power → Power) : (s.modPwr f).fns = s.fns := rfl
@[simp] theorem State.modPwr_host (s : State) (f : Power → Power) : (s.modPwr f).host = s.host := rfl
@[simp] theorem State.modPwr_cmds (s : State) (f : Power → Power) : (s.modPwr f).cmds = s.cmds := rfl
@[simp] theorem State.modPwr_nextCmd (s : State) (f : Power → Power) : (s.modPwr f).nextCmd = s.nextCmd := rfl
@[simp] theorem State.modPwr_ctxs (s : State) (f : Power → Power) : (s.modPwr f).ctxs = s.ctxs := rfl
@[simp] theorem State.modPwr_parts (s : State) (f : Power → Power) : (s.modPwr f).parts = s.parts := rfl
@[simp] theorem State.modPwr_scheds (s : State) (f : Power → Power) : (s.modPwr f).scheds = s.scheds := rfl
@[simp] theorem State.modPwr_hdTlb (s : State) (f : Power → Power) : (s.modPwr f).hdTlb = s.hdTlb := rfl
@[simp] theorem State.modPwr_saved (s : State) (f : Power → Power) : (s.modPwr f).saved = s.saved := rfl
@[simp] theorem State.modPwr_log (s : State) (f : Power → Power) : (s.modPwr f).log = s.log := rfl
@[simp] theorem State.modPwr_recov (s : State) (f : Power → Power) : (s.modPwr f).recov = s.recov := rfl
@[simp] theorem State.modPwr_mw (s : State) (f : Power → Power) : (s.modPwr f).mw = s.mw := rfl
@[simp] theorem State.modPwr_sec (s : State) (f : Power → Power) : (s.modPwr f).sec = s.sec := rfl
@[simp] theorem State.modPwr_sup (s : State) (f : Power → Power) : (s.modPwr f).sup = s.sup := rfl

/-! modSup. -/

@[simp] theorem State.modSup_pending (s : State) (f : Supplies → Supplies) : (s.modSup f).pending = s.pending := rfl
@[simp] theorem State.modSup_free (s : State) (f : Supplies → Supplies) : (s.modSup f).free = s.free := rfl
@[simp] theorem State.modSup_hub (s : State) (f : Supplies → Supplies) : (s.modSup f).hub = s.hub := rfl
@[simp] theorem State.modSup_cores (s : State) (f : Supplies → Supplies) : (s.modSup f).cores = s.cores := rfl
@[simp] theorem State.modSup_mem (s : State) (f : Supplies → Supplies) : (s.modSup f).mem = s.mem := rfl
@[simp] theorem State.modSup_cache (s : State) (f : Supplies → Supplies) : (s.modSup f).cache = s.cache := rfl
@[simp] theorem State.modSup_links (s : State) (f : Supplies → Supplies) : (s.modSup f).links = s.links := rfl
@[simp] theorem State.modSup_tim (s : State) (f : Supplies → Supplies) : (s.modSup f).tim = s.tim := rfl
@[simp] theorem State.modSup_cal (s : State) (f : Supplies → Supplies) : (s.modSup f).cal = s.cal := rfl
@[simp] theorem State.modSup_fab (s : State) (f : Supplies → Supplies) : (s.modSup f).fab = s.fab := rfl
@[simp] theorem State.modSup_sol (s : State) (f : Supplies → Supplies) : (s.modSup f).sol = s.sol := rfl
@[simp] theorem State.modSup_fns (s : State) (f : Supplies → Supplies) : (s.modSup f).fns = s.fns := rfl
@[simp] theorem State.modSup_host (s : State) (f : Supplies → Supplies) : (s.modSup f).host = s.host := rfl
@[simp] theorem State.modSup_cmds (s : State) (f : Supplies → Supplies) : (s.modSup f).cmds = s.cmds := rfl
@[simp] theorem State.modSup_nextCmd (s : State) (f : Supplies → Supplies) : (s.modSup f).nextCmd = s.nextCmd := rfl
@[simp] theorem State.modSup_ctxs (s : State) (f : Supplies → Supplies) : (s.modSup f).ctxs = s.ctxs := rfl
@[simp] theorem State.modSup_parts (s : State) (f : Supplies → Supplies) : (s.modSup f).parts = s.parts := rfl
@[simp] theorem State.modSup_scheds (s : State) (f : Supplies → Supplies) : (s.modSup f).scheds = s.scheds := rfl
@[simp] theorem State.modSup_hdTlb (s : State) (f : Supplies → Supplies) : (s.modSup f).hdTlb = s.hdTlb := rfl
@[simp] theorem State.modSup_saved (s : State) (f : Supplies → Supplies) : (s.modSup f).saved = s.saved := rfl
@[simp] theorem State.modSup_pwr (s : State) (f : Supplies → Supplies) : (s.modSup f).pwr = s.pwr := rfl
@[simp] theorem State.modSup_log (s : State) (f : Supplies → Supplies) : (s.modSup f).log = s.log := rfl
@[simp] theorem State.modSup_recov (s : State) (f : Supplies → Supplies) : (s.modSup f).recov = s.recov := rfl
@[simp] theorem State.modSup_mw (s : State) (f : Supplies → Supplies) : (s.modSup f).mw = s.mw := rfl
@[simp] theorem State.modSup_sec (s : State) (f : Supplies → Supplies) : (s.modSup f).sec = s.sec := rfl

/-! send. -/

@[simp] theorem State.send_pending (s : State) (ms : List Msg) : (s.send ms).pending = s.pending := rfl
@[simp] theorem State.send_free (s : State) (ms : List Msg) : (s.send ms).free = s.free := rfl
@[simp] theorem State.send_hub (s : State) (ms : List Msg) : (s.send ms).hub = s.hub := rfl
@[simp] theorem State.send_cores (s : State) (ms : List Msg) : (s.send ms).cores = s.cores := rfl
@[simp] theorem State.send_mem (s : State) (ms : List Msg) : (s.send ms).mem = s.mem := rfl
@[simp] theorem State.send_links (s : State) (ms : List Msg) : (s.send ms).links = s.links := rfl
@[simp] theorem State.send_tim (s : State) (ms : List Msg) : (s.send ms).tim = s.tim := rfl
@[simp] theorem State.send_cal (s : State) (ms : List Msg) : (s.send ms).cal = s.cal := rfl
@[simp] theorem State.send_fab (s : State) (ms : List Msg) : (s.send ms).fab = s.fab := rfl
@[simp] theorem State.send_sol (s : State) (ms : List Msg) : (s.send ms).sol = s.sol := rfl
@[simp] theorem State.send_fns (s : State) (ms : List Msg) : (s.send ms).fns = s.fns := rfl
@[simp] theorem State.send_host (s : State) (ms : List Msg) : (s.send ms).host = s.host := rfl
@[simp] theorem State.send_cmds (s : State) (ms : List Msg) : (s.send ms).cmds = s.cmds := rfl
@[simp] theorem State.send_nextCmd (s : State) (ms : List Msg) : (s.send ms).nextCmd = s.nextCmd := rfl
@[simp] theorem State.send_ctxs (s : State) (ms : List Msg) : (s.send ms).ctxs = s.ctxs := rfl
@[simp] theorem State.send_parts (s : State) (ms : List Msg) : (s.send ms).parts = s.parts := rfl
@[simp] theorem State.send_scheds (s : State) (ms : List Msg) : (s.send ms).scheds = s.scheds := rfl
@[simp] theorem State.send_hdTlb (s : State) (ms : List Msg) : (s.send ms).hdTlb = s.hdTlb := rfl
@[simp] theorem State.send_saved (s : State) (ms : List Msg) : (s.send ms).saved = s.saved := rfl
@[simp] theorem State.send_pwr (s : State) (ms : List Msg) : (s.send ms).pwr = s.pwr := rfl
@[simp] theorem State.send_log (s : State) (ms : List Msg) : (s.send ms).log = s.log := rfl
@[simp] theorem State.send_recov (s : State) (ms : List Msg) : (s.send ms).recov = s.recov := rfl
@[simp] theorem State.send_mw (s : State) (ms : List Msg) : (s.send ms).mw = s.mw := rfl
@[simp] theorem State.send_sec (s : State) (ms : List Msg) : (s.send ms).sec = s.sec := rfl
@[simp] theorem State.send_sup (s : State) (ms : List Msg) : (s.send ms).sup = s.sup := rfl

/-! setQueue. -/

@[simp] theorem State.setQueue_pending (s : State) (n : Nat) (e : Eng) (q : Queue) : (s.setQueue n e q).pending = s.pending := rfl
@[simp] theorem State.setQueue_free (s : State) (n : Nat) (e : Eng) (q : Queue) : (s.setQueue n e q).free = s.free := rfl
@[simp] theorem State.setQueue_hub (s : State) (n : Nat) (e : Eng) (q : Queue) : (s.setQueue n e q).hub = s.hub := rfl
@[simp] theorem State.setQueue_mem (s : State) (n : Nat) (e : Eng) (q : Queue) : (s.setQueue n e q).mem = s.mem := rfl
@[simp] theorem State.setQueue_cache (s : State) (n : Nat) (e : Eng) (q : Queue) : (s.setQueue n e q).cache = s.cache := rfl
@[simp] theorem State.setQueue_links (s : State) (n : Nat) (e : Eng) (q : Queue) : (s.setQueue n e q).links = s.links := rfl
@[simp] theorem State.setQueue_tim (s : State) (n : Nat) (e : Eng) (q : Queue) : (s.setQueue n e q).tim = s.tim := rfl
@[simp] theorem State.setQueue_cal (s : State) (n : Nat) (e : Eng) (q : Queue) : (s.setQueue n e q).cal = s.cal := rfl
@[simp] theorem State.setQueue_fab (s : State) (n : Nat) (e : Eng) (q : Queue) : (s.setQueue n e q).fab = s.fab := rfl
@[simp] theorem State.setQueue_sol (s : State) (n : Nat) (e : Eng) (q : Queue) : (s.setQueue n e q).sol = s.sol := rfl
@[simp] theorem State.setQueue_fns (s : State) (n : Nat) (e : Eng) (q : Queue) : (s.setQueue n e q).fns = s.fns := rfl
@[simp] theorem State.setQueue_host (s : State) (n : Nat) (e : Eng) (q : Queue) : (s.setQueue n e q).host = s.host := rfl
@[simp] theorem State.setQueue_cmds (s : State) (n : Nat) (e : Eng) (q : Queue) : (s.setQueue n e q).cmds = s.cmds := rfl
@[simp] theorem State.setQueue_nextCmd (s : State) (n : Nat) (e : Eng) (q : Queue) : (s.setQueue n e q).nextCmd = s.nextCmd := rfl
@[simp] theorem State.setQueue_ctxs (s : State) (n : Nat) (e : Eng) (q : Queue) : (s.setQueue n e q).ctxs = s.ctxs := rfl
@[simp] theorem State.setQueue_parts (s : State) (n : Nat) (e : Eng) (q : Queue) : (s.setQueue n e q).parts = s.parts := rfl
@[simp] theorem State.setQueue_scheds (s : State) (n : Nat) (e : Eng) (q : Queue) : (s.setQueue n e q).scheds = s.scheds := rfl
@[simp] theorem State.setQueue_hdTlb (s : State) (n : Nat) (e : Eng) (q : Queue) : (s.setQueue n e q).hdTlb = s.hdTlb := rfl
@[simp] theorem State.setQueue_saved (s : State) (n : Nat) (e : Eng) (q : Queue) : (s.setQueue n e q).saved = s.saved := rfl
@[simp] theorem State.setQueue_pwr (s : State) (n : Nat) (e : Eng) (q : Queue) : (s.setQueue n e q).pwr = s.pwr := rfl
@[simp] theorem State.setQueue_log (s : State) (n : Nat) (e : Eng) (q : Queue) : (s.setQueue n e q).log = s.log := rfl
@[simp] theorem State.setQueue_recov (s : State) (n : Nat) (e : Eng) (q : Queue) : (s.setQueue n e q).recov = s.recov := rfl
@[simp] theorem State.setQueue_mw (s : State) (n : Nat) (e : Eng) (q : Queue) : (s.setQueue n e q).mw = s.mw := rfl
@[simp] theorem State.setQueue_sec (s : State) (n : Nat) (e : Eng) (q : Queue) : (s.setQueue n e q).sec = s.sec := rfl
@[simp] theorem State.setQueue_sup (s : State) (n : Nat) (e : Eng) (q : Queue) : (s.setQueue n e q).sup = s.sup := rfl

/-! modQueue. -/

@[simp] theorem State.modQueue_pending (s : State) (n : Nat) (e : Eng) (f : Queue → Queue) : (s.modQueue n e f).pending = s.pending := rfl
@[simp] theorem State.modQueue_free (s : State) (n : Nat) (e : Eng) (f : Queue → Queue) : (s.modQueue n e f).free = s.free := rfl
@[simp] theorem State.modQueue_hub (s : State) (n : Nat) (e : Eng) (f : Queue → Queue) : (s.modQueue n e f).hub = s.hub := rfl
@[simp] theorem State.modQueue_mem (s : State) (n : Nat) (e : Eng) (f : Queue → Queue) : (s.modQueue n e f).mem = s.mem := rfl
@[simp] theorem State.modQueue_cache (s : State) (n : Nat) (e : Eng) (f : Queue → Queue) : (s.modQueue n e f).cache = s.cache := rfl
@[simp] theorem State.modQueue_links (s : State) (n : Nat) (e : Eng) (f : Queue → Queue) : (s.modQueue n e f).links = s.links := rfl
@[simp] theorem State.modQueue_tim (s : State) (n : Nat) (e : Eng) (f : Queue → Queue) : (s.modQueue n e f).tim = s.tim := rfl
@[simp] theorem State.modQueue_cal (s : State) (n : Nat) (e : Eng) (f : Queue → Queue) : (s.modQueue n e f).cal = s.cal := rfl
@[simp] theorem State.modQueue_fab (s : State) (n : Nat) (e : Eng) (f : Queue → Queue) : (s.modQueue n e f).fab = s.fab := rfl
@[simp] theorem State.modQueue_sol (s : State) (n : Nat) (e : Eng) (f : Queue → Queue) : (s.modQueue n e f).sol = s.sol := rfl
@[simp] theorem State.modQueue_fns (s : State) (n : Nat) (e : Eng) (f : Queue → Queue) : (s.modQueue n e f).fns = s.fns := rfl
@[simp] theorem State.modQueue_host (s : State) (n : Nat) (e : Eng) (f : Queue → Queue) : (s.modQueue n e f).host = s.host := rfl
@[simp] theorem State.modQueue_cmds (s : State) (n : Nat) (e : Eng) (f : Queue → Queue) : (s.modQueue n e f).cmds = s.cmds := rfl
@[simp] theorem State.modQueue_nextCmd (s : State) (n : Nat) (e : Eng) (f : Queue → Queue) : (s.modQueue n e f).nextCmd = s.nextCmd := rfl
@[simp] theorem State.modQueue_ctxs (s : State) (n : Nat) (e : Eng) (f : Queue → Queue) : (s.modQueue n e f).ctxs = s.ctxs := rfl
@[simp] theorem State.modQueue_parts (s : State) (n : Nat) (e : Eng) (f : Queue → Queue) : (s.modQueue n e f).parts = s.parts := rfl
@[simp] theorem State.modQueue_scheds (s : State) (n : Nat) (e : Eng) (f : Queue → Queue) : (s.modQueue n e f).scheds = s.scheds := rfl
@[simp] theorem State.modQueue_hdTlb (s : State) (n : Nat) (e : Eng) (f : Queue → Queue) : (s.modQueue n e f).hdTlb = s.hdTlb := rfl
@[simp] theorem State.modQueue_saved (s : State) (n : Nat) (e : Eng) (f : Queue → Queue) : (s.modQueue n e f).saved = s.saved := rfl
@[simp] theorem State.modQueue_pwr (s : State) (n : Nat) (e : Eng) (f : Queue → Queue) : (s.modQueue n e f).pwr = s.pwr := rfl
@[simp] theorem State.modQueue_log (s : State) (n : Nat) (e : Eng) (f : Queue → Queue) : (s.modQueue n e f).log = s.log := rfl
@[simp] theorem State.modQueue_recov (s : State) (n : Nat) (e : Eng) (f : Queue → Queue) : (s.modQueue n e f).recov = s.recov := rfl
@[simp] theorem State.modQueue_mw (s : State) (n : Nat) (e : Eng) (f : Queue → Queue) : (s.modQueue n e f).mw = s.mw := rfl
@[simp] theorem State.modQueue_sec (s : State) (n : Nat) (e : Eng) (f : Queue → Queue) : (s.modQueue n e f).sec = s.sec := rfl
@[simp] theorem State.modQueue_sup (s : State) (n : Nat) (e : Eng) (f : Queue → Queue) : (s.modQueue n e f).sup = s.sup := rfl

/-! count. -/

@[simp] theorem State.count_pending (s : State) (n k b : Nat) : (s.count n k b).pending = s.pending := rfl
@[simp] theorem State.count_free (s : State) (n k b : Nat) : (s.count n k b).free = s.free := rfl
@[simp] theorem State.count_hub (s : State) (n k b : Nat) : (s.count n k b).hub = s.hub := rfl
@[simp] theorem State.count_cores (s : State) (n k b : Nat) : (s.count n k b).cores = s.cores := rfl
@[simp] theorem State.count_mem (s : State) (n k b : Nat) : (s.count n k b).mem = s.mem := rfl
@[simp] theorem State.count_links (s : State) (n k b : Nat) : (s.count n k b).links = s.links := rfl
@[simp] theorem State.count_tim (s : State) (n k b : Nat) : (s.count n k b).tim = s.tim := rfl
@[simp] theorem State.count_cal (s : State) (n k b : Nat) : (s.count n k b).cal = s.cal := rfl
@[simp] theorem State.count_fab (s : State) (n k b : Nat) : (s.count n k b).fab = s.fab := rfl
@[simp] theorem State.count_sol (s : State) (n k b : Nat) : (s.count n k b).sol = s.sol := rfl
@[simp] theorem State.count_fns (s : State) (n k b : Nat) : (s.count n k b).fns = s.fns := rfl
@[simp] theorem State.count_host (s : State) (n k b : Nat) : (s.count n k b).host = s.host := rfl
@[simp] theorem State.count_cmds (s : State) (n k b : Nat) : (s.count n k b).cmds = s.cmds := rfl
@[simp] theorem State.count_nextCmd (s : State) (n k b : Nat) : (s.count n k b).nextCmd = s.nextCmd := rfl
@[simp] theorem State.count_ctxs (s : State) (n k b : Nat) : (s.count n k b).ctxs = s.ctxs := rfl
@[simp] theorem State.count_parts (s : State) (n k b : Nat) : (s.count n k b).parts = s.parts := rfl
@[simp] theorem State.count_scheds (s : State) (n k b : Nat) : (s.count n k b).scheds = s.scheds := rfl
@[simp] theorem State.count_hdTlb (s : State) (n k b : Nat) : (s.count n k b).hdTlb = s.hdTlb := rfl
@[simp] theorem State.count_saved (s : State) (n k b : Nat) : (s.count n k b).saved = s.saved := rfl
@[simp] theorem State.count_pwr (s : State) (n k b : Nat) : (s.count n k b).pwr = s.pwr := rfl
@[simp] theorem State.count_log (s : State) (n k b : Nat) : (s.count n k b).log = s.log := rfl
@[simp] theorem State.count_recov (s : State) (n k b : Nat) : (s.count n k b).recov = s.recov := rfl
@[simp] theorem State.count_mw (s : State) (n k b : Nat) : (s.count n k b).mw = s.mw := rfl
@[simp] theorem State.count_sec (s : State) (n k b : Nat) : (s.count n k b).sec = s.sec := rfl
@[simp] theorem State.count_sup (s : State) (n k b : Nat) : (s.count n k b).sup = s.sup := rfl

/-! hostWrite. -/

@[simp] theorem State.hostWrite_pending (s : State) (fn a : Nat) (bs : List Byte) : (s.hostWrite fn a bs).pending = s.pending := rfl
@[simp] theorem State.hostWrite_free (s : State) (fn a : Nat) (bs : List Byte) : (s.hostWrite fn a bs).free = s.free := rfl
@[simp] theorem State.hostWrite_hub (s : State) (fn a : Nat) (bs : List Byte) : (s.hostWrite fn a bs).hub = s.hub := rfl
@[simp] theorem State.hostWrite_cores (s : State) (fn a : Nat) (bs : List Byte) : (s.hostWrite fn a bs).cores = s.cores := rfl
@[simp] theorem State.hostWrite_mem (s : State) (fn a : Nat) (bs : List Byte) : (s.hostWrite fn a bs).mem = s.mem := rfl
@[simp] theorem State.hostWrite_cache (s : State) (fn a : Nat) (bs : List Byte) : (s.hostWrite fn a bs).cache = s.cache := rfl
@[simp] theorem State.hostWrite_links (s : State) (fn a : Nat) (bs : List Byte) : (s.hostWrite fn a bs).links = s.links := rfl
@[simp] theorem State.hostWrite_tim (s : State) (fn a : Nat) (bs : List Byte) : (s.hostWrite fn a bs).tim = s.tim := rfl
@[simp] theorem State.hostWrite_cal (s : State) (fn a : Nat) (bs : List Byte) : (s.hostWrite fn a bs).cal = s.cal := rfl
@[simp] theorem State.hostWrite_fab (s : State) (fn a : Nat) (bs : List Byte) : (s.hostWrite fn a bs).fab = s.fab := rfl
@[simp] theorem State.hostWrite_sol (s : State) (fn a : Nat) (bs : List Byte) : (s.hostWrite fn a bs).sol = s.sol := rfl
@[simp] theorem State.hostWrite_fns (s : State) (fn a : Nat) (bs : List Byte) : (s.hostWrite fn a bs).fns = s.fns := rfl
@[simp] theorem State.hostWrite_cmds (s : State) (fn a : Nat) (bs : List Byte) : (s.hostWrite fn a bs).cmds = s.cmds := rfl
@[simp] theorem State.hostWrite_nextCmd (s : State) (fn a : Nat) (bs : List Byte) : (s.hostWrite fn a bs).nextCmd = s.nextCmd := rfl
@[simp] theorem State.hostWrite_ctxs (s : State) (fn a : Nat) (bs : List Byte) : (s.hostWrite fn a bs).ctxs = s.ctxs := rfl
@[simp] theorem State.hostWrite_parts (s : State) (fn a : Nat) (bs : List Byte) : (s.hostWrite fn a bs).parts = s.parts := rfl
@[simp] theorem State.hostWrite_scheds (s : State) (fn a : Nat) (bs : List Byte) : (s.hostWrite fn a bs).scheds = s.scheds := rfl
@[simp] theorem State.hostWrite_hdTlb (s : State) (fn a : Nat) (bs : List Byte) : (s.hostWrite fn a bs).hdTlb = s.hdTlb := rfl
@[simp] theorem State.hostWrite_saved (s : State) (fn a : Nat) (bs : List Byte) : (s.hostWrite fn a bs).saved = s.saved := rfl
@[simp] theorem State.hostWrite_pwr (s : State) (fn a : Nat) (bs : List Byte) : (s.hostWrite fn a bs).pwr = s.pwr := rfl
@[simp] theorem State.hostWrite_log (s : State) (fn a : Nat) (bs : List Byte) : (s.hostWrite fn a bs).log = s.log := rfl
@[simp] theorem State.hostWrite_recov (s : State) (fn a : Nat) (bs : List Byte) : (s.hostWrite fn a bs).recov = s.recov := rfl
@[simp] theorem State.hostWrite_mw (s : State) (fn a : Nat) (bs : List Byte) : (s.hostWrite fn a bs).mw = s.mw := rfl
@[simp] theorem State.hostWrite_sec (s : State) (fn a : Nat) (bs : List Byte) : (s.hostWrite fn a bs).sec = s.sec := rfl
@[simp] theorem State.hostWrite_sup (s : State) (fn a : Nat) (bs : List Byte) : (s.hostWrite fn a bs).sup = s.sup := rfl

/-! setRing. -/

@[simp] theorem State.setRing_pending (s : State) (fn n : Nat) (r : Ring) : (s.setRing fn n r).pending = s.pending := rfl
@[simp] theorem State.setRing_free (s : State) (fn n : Nat) (r : Ring) : (s.setRing fn n r).free = s.free := rfl
@[simp] theorem State.setRing_hub (s : State) (fn n : Nat) (r : Ring) : (s.setRing fn n r).hub = s.hub := rfl
@[simp] theorem State.setRing_cores (s : State) (fn n : Nat) (r : Ring) : (s.setRing fn n r).cores = s.cores := rfl
@[simp] theorem State.setRing_mem (s : State) (fn n : Nat) (r : Ring) : (s.setRing fn n r).mem = s.mem := rfl
@[simp] theorem State.setRing_cache (s : State) (fn n : Nat) (r : Ring) : (s.setRing fn n r).cache = s.cache := rfl
@[simp] theorem State.setRing_links (s : State) (fn n : Nat) (r : Ring) : (s.setRing fn n r).links = s.links := rfl
@[simp] theorem State.setRing_tim (s : State) (fn n : Nat) (r : Ring) : (s.setRing fn n r).tim = s.tim := rfl
@[simp] theorem State.setRing_cal (s : State) (fn n : Nat) (r : Ring) : (s.setRing fn n r).cal = s.cal := rfl
@[simp] theorem State.setRing_fab (s : State) (fn n : Nat) (r : Ring) : (s.setRing fn n r).fab = s.fab := rfl
@[simp] theorem State.setRing_sol (s : State) (fn n : Nat) (r : Ring) : (s.setRing fn n r).sol = s.sol := rfl
@[simp] theorem State.setRing_host (s : State) (fn n : Nat) (r : Ring) : (s.setRing fn n r).host = s.host := rfl
@[simp] theorem State.setRing_cmds (s : State) (fn n : Nat) (r : Ring) : (s.setRing fn n r).cmds = s.cmds := rfl
@[simp] theorem State.setRing_nextCmd (s : State) (fn n : Nat) (r : Ring) : (s.setRing fn n r).nextCmd = s.nextCmd := rfl
@[simp] theorem State.setRing_ctxs (s : State) (fn n : Nat) (r : Ring) : (s.setRing fn n r).ctxs = s.ctxs := rfl
@[simp] theorem State.setRing_parts (s : State) (fn n : Nat) (r : Ring) : (s.setRing fn n r).parts = s.parts := rfl
@[simp] theorem State.setRing_scheds (s : State) (fn n : Nat) (r : Ring) : (s.setRing fn n r).scheds = s.scheds := rfl
@[simp] theorem State.setRing_hdTlb (s : State) (fn n : Nat) (r : Ring) : (s.setRing fn n r).hdTlb = s.hdTlb := rfl
@[simp] theorem State.setRing_saved (s : State) (fn n : Nat) (r : Ring) : (s.setRing fn n r).saved = s.saved := rfl
@[simp] theorem State.setRing_pwr (s : State) (fn n : Nat) (r : Ring) : (s.setRing fn n r).pwr = s.pwr := rfl
@[simp] theorem State.setRing_log (s : State) (fn n : Nat) (r : Ring) : (s.setRing fn n r).log = s.log := rfl
@[simp] theorem State.setRing_recov (s : State) (fn n : Nat) (r : Ring) : (s.setRing fn n r).recov = s.recov := rfl
@[simp] theorem State.setRing_mw (s : State) (fn n : Nat) (r : Ring) : (s.setRing fn n r).mw = s.mw := rfl
@[simp] theorem State.setRing_sec (s : State) (fn n : Nat) (r : Ring) : (s.setRing fn n r).sec = s.sec := rfl
@[simp] theorem State.setRing_sup (s : State) (fn n : Nat) (r : Ring) : (s.setRing fn n r).sup = s.sup := rfl

/-! What the tables answer. -/

@[simp] theorem State.core_setCore (s : State) (n : Nat) (x : Core) : (s.setCore n x).core n = x := by simp [State.core, State.setCore]
theorem State.core_setCore_other (s : State) {n m : Nat} (x : Core) (h : n ≠ m) : (s.setCore n x).core m = s.core m := by
  simp [State.core, State.setCore, tabGet_tabSet_other _ _ _ h]

@[simp] theorem State.ctx_setCtx (s : State) (n : Nat) (x : Ctx) : (s.setCtx n x).ctx n = x := by simp [State.ctx, State.setCtx]
theorem State.ctx_setCtx_other (s : State) {n m : Nat} (x : Ctx) (h : n ≠ m) : (s.setCtx n x).ctx m = s.ctx m := by
  simp [State.ctx, State.setCtx, tabGet_tabSet_other _ _ _ h]

@[simp] theorem State.part_setPart (s : State) (n : Nat) (x : Part) : (s.setPart n x).part n = x := by simp [State.part, State.setPart]
theorem State.part_setPart_other (s : State) {n m : Nat} (x : Part) (h : n ≠ m) : (s.setPart n x).part m = s.part m := by
  simp [State.part, State.setPart, tabGet_tabSet_other _ _ _ h]

@[simp] theorem State.fn_setFn (s : State) (n : Nat) (x : HostFn) : (s.setFn n x).fn n = x := by simp [State.fn, State.setFn]
theorem State.fn_setFn_other (s : State) {n m : Nat} (x : HostFn) (h : n ≠ m) : (s.setFn n x).fn m = s.fn m := by
  simp [State.fn, State.setFn, tabGet_tabSet_other _ _ _ h]

@[simp] theorem State.slice_setSlice (s : State) (n : Nat) (x : Slice) : (s.setSlice n x).slice n = x := by simp [State.slice, State.setSlice]
theorem State.slice_setSlice_other (s : State) {n m : Nat} (x : Slice) (h : n ≠ m) : (s.setSlice n x).slice m = s.slice m := by
  simp [State.slice, State.setSlice, tabGet_tabSet_other _ _ _ h]

@[simp] theorem State.chan_setChan (s : State) (n : Nat) (x : Chan) : (s.setChan n x).chan n = x := by simp [State.chan, State.setChan]
theorem State.chan_setChan_other (s : State) {n m : Nat} (x : Chan) (h : n ≠ m) : (s.setChan n x).chan m = s.chan m := by
  simp [State.chan, State.setChan, tabGet_tabSet_other _ _ _ h]

@[simp] theorem State.port_setPort (s : State) (n : Nat) (x : Port) : (s.setPort n x).port n = x := by simp [State.port, State.setPort]
theorem State.port_setPort_other (s : State) {n m : Nat} (x : Port) (h : n ≠ m) : (s.setPort n x).port m = s.port m := by
  simp [State.port, State.setPort, tabGet_tabSet_other _ _ _ h]

@[simp] theorem State.link_setLink (s : State) (n : Nat) (x : DieLink) : (s.setLink n x).link n = x := by simp [State.link, State.setLink]
theorem State.link_setLink_other (s : State) {n m : Nat} (x : DieLink) (h : n ≠ m) : (s.setLink n x).link m = s.link m := by
  simp [State.link, State.setLink, tabGet_tabSet_other _ _ _ h]

@[simp] theorem State.site_setSite (s : State) (n : Nat) (x : Site) : (s.setSite n x).site n = x := by simp [State.site, State.setSite]
theorem State.site_setSite_other (s : State) {n m : Nat} (x : Site) (h : n ≠ m) : (s.setSite n x).site m = s.site m := by
  simp [State.site, State.setSite, tabGet_tabSet_other _ _ _ h]

@[simp] theorem State.sched_setSched (s : State) (n : Nat) (x : Schedule) : (s.setSched n x).sched n = x := by simp [State.sched, State.setSched]
theorem State.sched_setSched_other (s : State) {n m : Nat} (x : Schedule) (h : n ≠ m) : (s.setSched n x).sched m = s.sched m := by
  simp [State.sched, State.setSched, tabGet_tabSet_other _ _ _ h]

@[simp] theorem State.plan_setPlan (s : State) (n : Nat) (x : Sched) : (s.setPlan n x).plan n = x := by simp [State.plan, State.setPlan]
theorem State.plan_setPlan_other (s : State) {n m : Nat} (x : Sched) (h : n ≠ m) : (s.setPlan n x).plan m = s.plan m := by
  simp [State.plan, State.setPlan, tabGet_tabSet_other _ _ _ h]

@[simp] theorem State.core_setCtx (s : State) (n m : Nat) (c : Ctx) : (s.setCtx n c).core m = s.core m := rfl
@[simp] theorem State.core_setPart (s : State) (n m : Nat) (p : Part) : (s.setPart n p).core m = s.core m := rfl
@[simp] theorem State.core_setFn (s : State) (n m : Nat) (f : HostFn) : (s.setFn n f).core m = s.core m := rfl
@[simp] theorem State.core_setSlice (s : State) (n m : Nat) (x : Slice) : (s.setSlice n x).core m = s.core m := rfl
@[simp] theorem State.core_setChan (s : State) (n m : Nat) (x : Chan) : (s.setChan n x).core m = s.core m := rfl
@[simp] theorem State.core_setPort (s : State) (m : Nat) (p : Nat) (x : Port) : (s.setPort p x).core m = s.core m := rfl
@[simp] theorem State.core_setLink (s : State) (n m : Nat) (x : DieLink) : (s.setLink n x).core m = s.core m := rfl
@[simp] theorem State.core_setSite (s : State) (n m : Nat) (x : Site) : (s.setSite n x).core m = s.core m := rfl
@[simp] theorem State.core_setSched (s : State) (m : Nat) (g : Nat) (x : Schedule) : (s.setSched g x).core m = s.core m := rfl
@[simp] theorem State.core_setPlan (s : State) (n m : Nat) (p : Sched) : (s.setPlan n p).core m = s.core m := rfl
@[simp] theorem State.core_modCtx (s : State) (n m : Nat) (f : Ctx → Ctx) : (s.modCtx n f).core m = s.core m := rfl
@[simp] theorem State.core_modFn (s : State) (n m : Nat) (f : HostFn → HostFn) : (s.modFn n f).core m = s.core m := rfl
@[simp] theorem State.core_modSlice (s : State) (n m : Nat) (f : Slice → Slice) : (s.modSlice n f).core m = s.core m := rfl
@[simp] theorem State.core_modCmd (s : State) (m : Nat) (id : Nat) (f : Cmd → Cmd) : (s.modCmd id f).core m = s.core m := rfl
@[simp] theorem State.core_modTim (s : State) (m : Nat) (f : Tim → Tim) : (s.modTim f).core m = s.core m := rfl
@[simp] theorem State.core_modPwr (s : State) (m : Nat) (f : Power → Power) : (s.modPwr f).core m = s.core m := rfl
@[simp] theorem State.core_modSup (s : State) (m : Nat) (f : Supplies → Supplies) : (s.modSup f).core m = s.core m := rfl
@[simp] theorem State.core_send (s : State) (m : Nat) (ms : List Msg) : (s.send ms).core m = s.core m := rfl
@[simp] theorem State.core_count (s : State) (m : Nat) (n k b : Nat) : (s.count n k b).core m = s.core m := rfl
@[simp] theorem State.core_hostWrite (s : State) (m : Nat) (fn a : Nat) (bs : List Byte) : (s.hostWrite fn a bs).core m = s.core m := rfl
@[simp] theorem State.core_setRing (s : State) (m : Nat) (fn n : Nat) (r : Ring) : (s.setRing fn n r).core m = s.core m := rfl
@[simp] theorem State.ctx_setCore (s : State) (n m : Nat) (c : Core) : (s.setCore n c).ctx m = s.ctx m := rfl
@[simp] theorem State.ctx_setPart (s : State) (n m : Nat) (p : Part) : (s.setPart n p).ctx m = s.ctx m := rfl
@[simp] theorem State.ctx_setFn (s : State) (n m : Nat) (f : HostFn) : (s.setFn n f).ctx m = s.ctx m := rfl
@[simp] theorem State.ctx_setSlice (s : State) (n m : Nat) (x : Slice) : (s.setSlice n x).ctx m = s.ctx m := rfl
@[simp] theorem State.ctx_setChan (s : State) (n m : Nat) (x : Chan) : (s.setChan n x).ctx m = s.ctx m := rfl
@[simp] theorem State.ctx_setPort (s : State) (m : Nat) (p : Nat) (x : Port) : (s.setPort p x).ctx m = s.ctx m := rfl
@[simp] theorem State.ctx_setLink (s : State) (n m : Nat) (x : DieLink) : (s.setLink n x).ctx m = s.ctx m := rfl
@[simp] theorem State.ctx_setSite (s : State) (n m : Nat) (x : Site) : (s.setSite n x).ctx m = s.ctx m := rfl
@[simp] theorem State.ctx_setSched (s : State) (m : Nat) (g : Nat) (x : Schedule) : (s.setSched g x).ctx m = s.ctx m := rfl
@[simp] theorem State.ctx_setPlan (s : State) (n m : Nat) (p : Sched) : (s.setPlan n p).ctx m = s.ctx m := rfl
@[simp] theorem State.ctx_modCore (s : State) (n m : Nat) (f : Core → Core) : (s.modCore n f).ctx m = s.ctx m := rfl
@[simp] theorem State.ctx_modFn (s : State) (n m : Nat) (f : HostFn → HostFn) : (s.modFn n f).ctx m = s.ctx m := rfl
@[simp] theorem State.ctx_modSlice (s : State) (n m : Nat) (f : Slice → Slice) : (s.modSlice n f).ctx m = s.ctx m := rfl
@[simp] theorem State.ctx_modCmd (s : State) (m : Nat) (id : Nat) (f : Cmd → Cmd) : (s.modCmd id f).ctx m = s.ctx m := rfl
@[simp] theorem State.ctx_modTim (s : State) (m : Nat) (f : Tim → Tim) : (s.modTim f).ctx m = s.ctx m := rfl
@[simp] theorem State.ctx_modPwr (s : State) (m : Nat) (f : Power → Power) : (s.modPwr f).ctx m = s.ctx m := rfl
@[simp] theorem State.ctx_modSup (s : State) (m : Nat) (f : Supplies → Supplies) : (s.modSup f).ctx m = s.ctx m := rfl
@[simp] theorem State.ctx_send (s : State) (m : Nat) (ms : List Msg) : (s.send ms).ctx m = s.ctx m := rfl
@[simp] theorem State.ctx_setQueue (s : State) (n m : Nat) (e : Eng) (q : Queue) : (s.setQueue n e q).ctx m = s.ctx m := rfl
@[simp] theorem State.ctx_modQueue (s : State) (n m : Nat) (e : Eng) (f : Queue → Queue) : (s.modQueue n e f).ctx m = s.ctx m := rfl
@[simp] theorem State.ctx_count (s : State) (m : Nat) (n k b : Nat) : (s.count n k b).ctx m = s.ctx m := rfl
@[simp] theorem State.ctx_hostWrite (s : State) (m : Nat) (fn a : Nat) (bs : List Byte) : (s.hostWrite fn a bs).ctx m = s.ctx m := rfl
@[simp] theorem State.ctx_setRing (s : State) (m : Nat) (fn n : Nat) (r : Ring) : (s.setRing fn n r).ctx m = s.ctx m := rfl
@[simp] theorem State.part_setCore (s : State) (n m : Nat) (c : Core) : (s.setCore n c).part m = s.part m := rfl
@[simp] theorem State.part_setCtx (s : State) (n m : Nat) (c : Ctx) : (s.setCtx n c).part m = s.part m := rfl
@[simp] theorem State.part_setFn (s : State) (n m : Nat) (f : HostFn) : (s.setFn n f).part m = s.part m := rfl
@[simp] theorem State.part_setSlice (s : State) (n m : Nat) (x : Slice) : (s.setSlice n x).part m = s.part m := rfl
@[simp] theorem State.part_setChan (s : State) (n m : Nat) (x : Chan) : (s.setChan n x).part m = s.part m := rfl
@[simp] theorem State.part_setPort (s : State) (m : Nat) (p : Nat) (x : Port) : (s.setPort p x).part m = s.part m := rfl
@[simp] theorem State.part_setLink (s : State) (n m : Nat) (x : DieLink) : (s.setLink n x).part m = s.part m := rfl
@[simp] theorem State.part_setSite (s : State) (n m : Nat) (x : Site) : (s.setSite n x).part m = s.part m := rfl
@[simp] theorem State.part_setSched (s : State) (m : Nat) (g : Nat) (x : Schedule) : (s.setSched g x).part m = s.part m := rfl
@[simp] theorem State.part_setPlan (s : State) (n m : Nat) (p : Sched) : (s.setPlan n p).part m = s.part m := rfl
@[simp] theorem State.part_modCore (s : State) (n m : Nat) (f : Core → Core) : (s.modCore n f).part m = s.part m := rfl
@[simp] theorem State.part_modCtx (s : State) (n m : Nat) (f : Ctx → Ctx) : (s.modCtx n f).part m = s.part m := rfl
@[simp] theorem State.part_modFn (s : State) (n m : Nat) (f : HostFn → HostFn) : (s.modFn n f).part m = s.part m := rfl
@[simp] theorem State.part_modSlice (s : State) (n m : Nat) (f : Slice → Slice) : (s.modSlice n f).part m = s.part m := rfl
@[simp] theorem State.part_modCmd (s : State) (m : Nat) (id : Nat) (f : Cmd → Cmd) : (s.modCmd id f).part m = s.part m := rfl
@[simp] theorem State.part_modTim (s : State) (m : Nat) (f : Tim → Tim) : (s.modTim f).part m = s.part m := rfl
@[simp] theorem State.part_modPwr (s : State) (m : Nat) (f : Power → Power) : (s.modPwr f).part m = s.part m := rfl
@[simp] theorem State.part_modSup (s : State) (m : Nat) (f : Supplies → Supplies) : (s.modSup f).part m = s.part m := rfl
@[simp] theorem State.part_send (s : State) (m : Nat) (ms : List Msg) : (s.send ms).part m = s.part m := rfl
@[simp] theorem State.part_setQueue (s : State) (n m : Nat) (e : Eng) (q : Queue) : (s.setQueue n e q).part m = s.part m := rfl
@[simp] theorem State.part_modQueue (s : State) (n m : Nat) (e : Eng) (f : Queue → Queue) : (s.modQueue n e f).part m = s.part m := rfl
@[simp] theorem State.part_count (s : State) (m : Nat) (n k b : Nat) : (s.count n k b).part m = s.part m := rfl
@[simp] theorem State.part_hostWrite (s : State) (m : Nat) (fn a : Nat) (bs : List Byte) : (s.hostWrite fn a bs).part m = s.part m := rfl
@[simp] theorem State.part_setRing (s : State) (m : Nat) (fn n : Nat) (r : Ring) : (s.setRing fn n r).part m = s.part m := rfl
@[simp] theorem State.fn_setCore (s : State) (n m : Nat) (c : Core) : (s.setCore n c).fn m = s.fn m := rfl
@[simp] theorem State.fn_setCtx (s : State) (n m : Nat) (c : Ctx) : (s.setCtx n c).fn m = s.fn m := rfl
@[simp] theorem State.fn_setPart (s : State) (n m : Nat) (p : Part) : (s.setPart n p).fn m = s.fn m := rfl
@[simp] theorem State.fn_setSlice (s : State) (n m : Nat) (x : Slice) : (s.setSlice n x).fn m = s.fn m := rfl
@[simp] theorem State.fn_setChan (s : State) (n m : Nat) (x : Chan) : (s.setChan n x).fn m = s.fn m := rfl
@[simp] theorem State.fn_setPort (s : State) (m : Nat) (p : Nat) (x : Port) : (s.setPort p x).fn m = s.fn m := rfl
@[simp] theorem State.fn_setLink (s : State) (n m : Nat) (x : DieLink) : (s.setLink n x).fn m = s.fn m := rfl
@[simp] theorem State.fn_setSite (s : State) (n m : Nat) (x : Site) : (s.setSite n x).fn m = s.fn m := rfl
@[simp] theorem State.fn_setSched (s : State) (m : Nat) (g : Nat) (x : Schedule) : (s.setSched g x).fn m = s.fn m := rfl
@[simp] theorem State.fn_setPlan (s : State) (n m : Nat) (p : Sched) : (s.setPlan n p).fn m = s.fn m := rfl
@[simp] theorem State.fn_modCore (s : State) (n m : Nat) (f : Core → Core) : (s.modCore n f).fn m = s.fn m := rfl
@[simp] theorem State.fn_modCtx (s : State) (n m : Nat) (f : Ctx → Ctx) : (s.modCtx n f).fn m = s.fn m := rfl
@[simp] theorem State.fn_modSlice (s : State) (n m : Nat) (f : Slice → Slice) : (s.modSlice n f).fn m = s.fn m := rfl
@[simp] theorem State.fn_modCmd (s : State) (m : Nat) (id : Nat) (f : Cmd → Cmd) : (s.modCmd id f).fn m = s.fn m := rfl
@[simp] theorem State.fn_modTim (s : State) (m : Nat) (f : Tim → Tim) : (s.modTim f).fn m = s.fn m := rfl
@[simp] theorem State.fn_modPwr (s : State) (m : Nat) (f : Power → Power) : (s.modPwr f).fn m = s.fn m := rfl
@[simp] theorem State.fn_modSup (s : State) (m : Nat) (f : Supplies → Supplies) : (s.modSup f).fn m = s.fn m := rfl
@[simp] theorem State.fn_send (s : State) (m : Nat) (ms : List Msg) : (s.send ms).fn m = s.fn m := rfl
@[simp] theorem State.fn_setQueue (s : State) (n m : Nat) (e : Eng) (q : Queue) : (s.setQueue n e q).fn m = s.fn m := rfl
@[simp] theorem State.fn_modQueue (s : State) (n m : Nat) (e : Eng) (f : Queue → Queue) : (s.modQueue n e f).fn m = s.fn m := rfl
@[simp] theorem State.fn_count (s : State) (m : Nat) (n k b : Nat) : (s.count n k b).fn m = s.fn m := rfl
@[simp] theorem State.fn_hostWrite (s : State) (m : Nat) (fn a : Nat) (bs : List Byte) : (s.hostWrite fn a bs).fn m = s.fn m := rfl
@[simp] theorem State.slice_setCore (s : State) (n m : Nat) (c : Core) : (s.setCore n c).slice m = s.slice m := rfl
@[simp] theorem State.slice_setCtx (s : State) (n m : Nat) (c : Ctx) : (s.setCtx n c).slice m = s.slice m := rfl
@[simp] theorem State.slice_setPart (s : State) (n m : Nat) (p : Part) : (s.setPart n p).slice m = s.slice m := rfl
@[simp] theorem State.slice_setFn (s : State) (n m : Nat) (f : HostFn) : (s.setFn n f).slice m = s.slice m := rfl
@[simp] theorem State.slice_setChan (s : State) (n m : Nat) (x : Chan) : (s.setChan n x).slice m = s.slice m := rfl
@[simp] theorem State.slice_setPort (s : State) (m : Nat) (p : Nat) (x : Port) : (s.setPort p x).slice m = s.slice m := rfl
@[simp] theorem State.slice_setLink (s : State) (n m : Nat) (x : DieLink) : (s.setLink n x).slice m = s.slice m := rfl
@[simp] theorem State.slice_setSite (s : State) (n m : Nat) (x : Site) : (s.setSite n x).slice m = s.slice m := rfl
@[simp] theorem State.slice_setSched (s : State) (m : Nat) (g : Nat) (x : Schedule) : (s.setSched g x).slice m = s.slice m := rfl
@[simp] theorem State.slice_setPlan (s : State) (n m : Nat) (p : Sched) : (s.setPlan n p).slice m = s.slice m := rfl
@[simp] theorem State.slice_modCore (s : State) (n m : Nat) (f : Core → Core) : (s.modCore n f).slice m = s.slice m := rfl
@[simp] theorem State.slice_modCtx (s : State) (n m : Nat) (f : Ctx → Ctx) : (s.modCtx n f).slice m = s.slice m := rfl
@[simp] theorem State.slice_modFn (s : State) (n m : Nat) (f : HostFn → HostFn) : (s.modFn n f).slice m = s.slice m := rfl
@[simp] theorem State.slice_modCmd (s : State) (m : Nat) (id : Nat) (f : Cmd → Cmd) : (s.modCmd id f).slice m = s.slice m := rfl
@[simp] theorem State.slice_modTim (s : State) (m : Nat) (f : Tim → Tim) : (s.modTim f).slice m = s.slice m := rfl
@[simp] theorem State.slice_modPwr (s : State) (m : Nat) (f : Power → Power) : (s.modPwr f).slice m = s.slice m := rfl
@[simp] theorem State.slice_modSup (s : State) (m : Nat) (f : Supplies → Supplies) : (s.modSup f).slice m = s.slice m := rfl
@[simp] theorem State.slice_setQueue (s : State) (n m : Nat) (e : Eng) (q : Queue) : (s.setQueue n e q).slice m = s.slice m := rfl
@[simp] theorem State.slice_modQueue (s : State) (n m : Nat) (e : Eng) (f : Queue → Queue) : (s.modQueue n e f).slice m = s.slice m := rfl
@[simp] theorem State.slice_hostWrite (s : State) (m : Nat) (fn a : Nat) (bs : List Byte) : (s.hostWrite fn a bs).slice m = s.slice m := rfl
@[simp] theorem State.slice_setRing (s : State) (m : Nat) (fn n : Nat) (r : Ring) : (s.setRing fn n r).slice m = s.slice m := rfl
@[simp] theorem State.chan_setCore (s : State) (n m : Nat) (c : Core) : (s.setCore n c).chan m = s.chan m := rfl
@[simp] theorem State.chan_setCtx (s : State) (n m : Nat) (c : Ctx) : (s.setCtx n c).chan m = s.chan m := rfl
@[simp] theorem State.chan_setPart (s : State) (n m : Nat) (p : Part) : (s.setPart n p).chan m = s.chan m := rfl
@[simp] theorem State.chan_setFn (s : State) (n m : Nat) (f : HostFn) : (s.setFn n f).chan m = s.chan m := rfl
@[simp] theorem State.chan_setSlice (s : State) (n m : Nat) (x : Slice) : (s.setSlice n x).chan m = s.chan m := rfl
@[simp] theorem State.chan_setPort (s : State) (m : Nat) (p : Nat) (x : Port) : (s.setPort p x).chan m = s.chan m := rfl
@[simp] theorem State.chan_setLink (s : State) (n m : Nat) (x : DieLink) : (s.setLink n x).chan m = s.chan m := rfl
@[simp] theorem State.chan_setSite (s : State) (n m : Nat) (x : Site) : (s.setSite n x).chan m = s.chan m := rfl
@[simp] theorem State.chan_setSched (s : State) (m : Nat) (g : Nat) (x : Schedule) : (s.setSched g x).chan m = s.chan m := rfl
@[simp] theorem State.chan_setPlan (s : State) (n m : Nat) (p : Sched) : (s.setPlan n p).chan m = s.chan m := rfl
@[simp] theorem State.chan_modCore (s : State) (n m : Nat) (f : Core → Core) : (s.modCore n f).chan m = s.chan m := rfl
@[simp] theorem State.chan_modCtx (s : State) (n m : Nat) (f : Ctx → Ctx) : (s.modCtx n f).chan m = s.chan m := rfl
@[simp] theorem State.chan_modFn (s : State) (n m : Nat) (f : HostFn → HostFn) : (s.modFn n f).chan m = s.chan m := rfl
@[simp] theorem State.chan_modSlice (s : State) (n m : Nat) (f : Slice → Slice) : (s.modSlice n f).chan m = s.chan m := rfl
@[simp] theorem State.chan_modCmd (s : State) (m : Nat) (id : Nat) (f : Cmd → Cmd) : (s.modCmd id f).chan m = s.chan m := rfl
@[simp] theorem State.chan_modTim (s : State) (m : Nat) (f : Tim → Tim) : (s.modTim f).chan m = s.chan m := rfl
@[simp] theorem State.chan_modPwr (s : State) (m : Nat) (f : Power → Power) : (s.modPwr f).chan m = s.chan m := rfl
@[simp] theorem State.chan_modSup (s : State) (m : Nat) (f : Supplies → Supplies) : (s.modSup f).chan m = s.chan m := rfl
@[simp] theorem State.chan_send (s : State) (m : Nat) (ms : List Msg) : (s.send ms).chan m = s.chan m := rfl
@[simp] theorem State.chan_setQueue (s : State) (n m : Nat) (e : Eng) (q : Queue) : (s.setQueue n e q).chan m = s.chan m := rfl
@[simp] theorem State.chan_modQueue (s : State) (n m : Nat) (e : Eng) (f : Queue → Queue) : (s.modQueue n e f).chan m = s.chan m := rfl
@[simp] theorem State.chan_count (s : State) (m : Nat) (n k b : Nat) : (s.count n k b).chan m = s.chan m := rfl
@[simp] theorem State.chan_hostWrite (s : State) (m : Nat) (fn a : Nat) (bs : List Byte) : (s.hostWrite fn a bs).chan m = s.chan m := rfl
@[simp] theorem State.chan_setRing (s : State) (m : Nat) (fn n : Nat) (r : Ring) : (s.setRing fn n r).chan m = s.chan m := rfl
@[simp] theorem State.port_setCore (s : State) (n m : Nat) (c : Core) : (s.setCore n c).port m = s.port m := rfl
@[simp] theorem State.port_setCtx (s : State) (n m : Nat) (c : Ctx) : (s.setCtx n c).port m = s.port m := rfl
@[simp] theorem State.port_setPart (s : State) (n m : Nat) (p : Part) : (s.setPart n p).port m = s.port m := rfl
@[simp] theorem State.port_setFn (s : State) (n m : Nat) (f : HostFn) : (s.setFn n f).port m = s.port m := rfl
@[simp] theorem State.port_setSlice (s : State) (n m : Nat) (x : Slice) : (s.setSlice n x).port m = s.port m := rfl
@[simp] theorem State.port_setChan (s : State) (n m : Nat) (x : Chan) : (s.setChan n x).port m = s.port m := rfl
@[simp] theorem State.port_setLink (s : State) (n m : Nat) (x : DieLink) : (s.setLink n x).port m = s.port m := rfl
@[simp] theorem State.port_setSite (s : State) (n m : Nat) (x : Site) : (s.setSite n x).port m = s.port m := rfl
@[simp] theorem State.port_setSched (s : State) (m : Nat) (g : Nat) (x : Schedule) : (s.setSched g x).port m = s.port m := rfl
@[simp] theorem State.port_setPlan (s : State) (n m : Nat) (p : Sched) : (s.setPlan n p).port m = s.port m := rfl
@[simp] theorem State.port_modCore (s : State) (n m : Nat) (f : Core → Core) : (s.modCore n f).port m = s.port m := rfl
@[simp] theorem State.port_modCtx (s : State) (n m : Nat) (f : Ctx → Ctx) : (s.modCtx n f).port m = s.port m := rfl
@[simp] theorem State.port_modFn (s : State) (n m : Nat) (f : HostFn → HostFn) : (s.modFn n f).port m = s.port m := rfl
@[simp] theorem State.port_modSlice (s : State) (n m : Nat) (f : Slice → Slice) : (s.modSlice n f).port m = s.port m := rfl
@[simp] theorem State.port_modCmd (s : State) (m : Nat) (id : Nat) (f : Cmd → Cmd) : (s.modCmd id f).port m = s.port m := rfl
@[simp] theorem State.port_modTim (s : State) (m : Nat) (f : Tim → Tim) : (s.modTim f).port m = s.port m := rfl
@[simp] theorem State.port_modPwr (s : State) (m : Nat) (f : Power → Power) : (s.modPwr f).port m = s.port m := rfl
@[simp] theorem State.port_modSup (s : State) (m : Nat) (f : Supplies → Supplies) : (s.modSup f).port m = s.port m := rfl
@[simp] theorem State.port_send (s : State) (m : Nat) (ms : List Msg) : (s.send ms).port m = s.port m := rfl
@[simp] theorem State.port_setQueue (s : State) (n m : Nat) (e : Eng) (q : Queue) : (s.setQueue n e q).port m = s.port m := rfl
@[simp] theorem State.port_modQueue (s : State) (n m : Nat) (e : Eng) (f : Queue → Queue) : (s.modQueue n e f).port m = s.port m := rfl
@[simp] theorem State.port_count (s : State) (m : Nat) (n k b : Nat) : (s.count n k b).port m = s.port m := rfl
@[simp] theorem State.port_hostWrite (s : State) (m : Nat) (fn a : Nat) (bs : List Byte) : (s.hostWrite fn a bs).port m = s.port m := rfl
@[simp] theorem State.port_setRing (s : State) (m : Nat) (fn n : Nat) (r : Ring) : (s.setRing fn n r).port m = s.port m := rfl
@[simp] theorem State.link_setCore (s : State) (n m : Nat) (c : Core) : (s.setCore n c).link m = s.link m := rfl
@[simp] theorem State.link_setCtx (s : State) (n m : Nat) (c : Ctx) : (s.setCtx n c).link m = s.link m := rfl
@[simp] theorem State.link_setPart (s : State) (n m : Nat) (p : Part) : (s.setPart n p).link m = s.link m := rfl
@[simp] theorem State.link_setFn (s : State) (n m : Nat) (f : HostFn) : (s.setFn n f).link m = s.link m := rfl
@[simp] theorem State.link_setSlice (s : State) (n m : Nat) (x : Slice) : (s.setSlice n x).link m = s.link m := rfl
@[simp] theorem State.link_setChan (s : State) (n m : Nat) (x : Chan) : (s.setChan n x).link m = s.link m := rfl
@[simp] theorem State.link_setPort (s : State) (m : Nat) (p : Nat) (x : Port) : (s.setPort p x).link m = s.link m := rfl
@[simp] theorem State.link_setSite (s : State) (n m : Nat) (x : Site) : (s.setSite n x).link m = s.link m := rfl
@[simp] theorem State.link_setSched (s : State) (m : Nat) (g : Nat) (x : Schedule) : (s.setSched g x).link m = s.link m := rfl
@[simp] theorem State.link_setPlan (s : State) (n m : Nat) (p : Sched) : (s.setPlan n p).link m = s.link m := rfl
@[simp] theorem State.link_modCore (s : State) (n m : Nat) (f : Core → Core) : (s.modCore n f).link m = s.link m := rfl
@[simp] theorem State.link_modCtx (s : State) (n m : Nat) (f : Ctx → Ctx) : (s.modCtx n f).link m = s.link m := rfl
@[simp] theorem State.link_modFn (s : State) (n m : Nat) (f : HostFn → HostFn) : (s.modFn n f).link m = s.link m := rfl
@[simp] theorem State.link_modSlice (s : State) (n m : Nat) (f : Slice → Slice) : (s.modSlice n f).link m = s.link m := rfl
@[simp] theorem State.link_modCmd (s : State) (m : Nat) (id : Nat) (f : Cmd → Cmd) : (s.modCmd id f).link m = s.link m := rfl
@[simp] theorem State.link_modTim (s : State) (m : Nat) (f : Tim → Tim) : (s.modTim f).link m = s.link m := rfl
@[simp] theorem State.link_modPwr (s : State) (m : Nat) (f : Power → Power) : (s.modPwr f).link m = s.link m := rfl
@[simp] theorem State.link_modSup (s : State) (m : Nat) (f : Supplies → Supplies) : (s.modSup f).link m = s.link m := rfl
@[simp] theorem State.link_send (s : State) (m : Nat) (ms : List Msg) : (s.send ms).link m = s.link m := rfl
@[simp] theorem State.link_setQueue (s : State) (n m : Nat) (e : Eng) (q : Queue) : (s.setQueue n e q).link m = s.link m := rfl
@[simp] theorem State.link_modQueue (s : State) (n m : Nat) (e : Eng) (f : Queue → Queue) : (s.modQueue n e f).link m = s.link m := rfl
@[simp] theorem State.link_count (s : State) (m : Nat) (n k b : Nat) : (s.count n k b).link m = s.link m := rfl
@[simp] theorem State.link_hostWrite (s : State) (m : Nat) (fn a : Nat) (bs : List Byte) : (s.hostWrite fn a bs).link m = s.link m := rfl
@[simp] theorem State.link_setRing (s : State) (m : Nat) (fn n : Nat) (r : Ring) : (s.setRing fn n r).link m = s.link m := rfl
@[simp] theorem State.site_setCore (s : State) (n m : Nat) (c : Core) : (s.setCore n c).site m = s.site m := rfl
@[simp] theorem State.site_setCtx (s : State) (n m : Nat) (c : Ctx) : (s.setCtx n c).site m = s.site m := rfl
@[simp] theorem State.site_setPart (s : State) (n m : Nat) (p : Part) : (s.setPart n p).site m = s.site m := rfl
@[simp] theorem State.site_setFn (s : State) (n m : Nat) (f : HostFn) : (s.setFn n f).site m = s.site m := rfl
@[simp] theorem State.site_setSlice (s : State) (n m : Nat) (x : Slice) : (s.setSlice n x).site m = s.site m := rfl
@[simp] theorem State.site_setChan (s : State) (n m : Nat) (x : Chan) : (s.setChan n x).site m = s.site m := rfl
@[simp] theorem State.site_setPort (s : State) (m : Nat) (p : Nat) (x : Port) : (s.setPort p x).site m = s.site m := rfl
@[simp] theorem State.site_setLink (s : State) (n m : Nat) (x : DieLink) : (s.setLink n x).site m = s.site m := rfl
@[simp] theorem State.site_setSched (s : State) (m : Nat) (g : Nat) (x : Schedule) : (s.setSched g x).site m = s.site m := rfl
@[simp] theorem State.site_setPlan (s : State) (n m : Nat) (p : Sched) : (s.setPlan n p).site m = s.site m := rfl
@[simp] theorem State.site_modCore (s : State) (n m : Nat) (f : Core → Core) : (s.modCore n f).site m = s.site m := rfl
@[simp] theorem State.site_modCtx (s : State) (n m : Nat) (f : Ctx → Ctx) : (s.modCtx n f).site m = s.site m := rfl
@[simp] theorem State.site_modFn (s : State) (n m : Nat) (f : HostFn → HostFn) : (s.modFn n f).site m = s.site m := rfl
@[simp] theorem State.site_modSlice (s : State) (n m : Nat) (f : Slice → Slice) : (s.modSlice n f).site m = s.site m := rfl
@[simp] theorem State.site_modCmd (s : State) (m : Nat) (id : Nat) (f : Cmd → Cmd) : (s.modCmd id f).site m = s.site m := rfl
@[simp] theorem State.site_modTim (s : State) (m : Nat) (f : Tim → Tim) : (s.modTim f).site m = s.site m := rfl
@[simp] theorem State.site_modPwr (s : State) (m : Nat) (f : Power → Power) : (s.modPwr f).site m = s.site m := rfl
@[simp] theorem State.site_modSup (s : State) (m : Nat) (f : Supplies → Supplies) : (s.modSup f).site m = s.site m := rfl
@[simp] theorem State.site_send (s : State) (m : Nat) (ms : List Msg) : (s.send ms).site m = s.site m := rfl
@[simp] theorem State.site_setQueue (s : State) (n m : Nat) (e : Eng) (q : Queue) : (s.setQueue n e q).site m = s.site m := rfl
@[simp] theorem State.site_modQueue (s : State) (n m : Nat) (e : Eng) (f : Queue → Queue) : (s.modQueue n e f).site m = s.site m := rfl
@[simp] theorem State.site_count (s : State) (m : Nat) (n k b : Nat) : (s.count n k b).site m = s.site m := rfl
@[simp] theorem State.site_hostWrite (s : State) (m : Nat) (fn a : Nat) (bs : List Byte) : (s.hostWrite fn a bs).site m = s.site m := rfl
@[simp] theorem State.site_setRing (s : State) (m : Nat) (fn n : Nat) (r : Ring) : (s.setRing fn n r).site m = s.site m := rfl
@[simp] theorem State.sched_setCore (s : State) (n m : Nat) (c : Core) : (s.setCore n c).sched m = s.sched m := rfl
@[simp] theorem State.sched_setCtx (s : State) (n m : Nat) (c : Ctx) : (s.setCtx n c).sched m = s.sched m := rfl
@[simp] theorem State.sched_setPart (s : State) (n m : Nat) (p : Part) : (s.setPart n p).sched m = s.sched m := rfl
@[simp] theorem State.sched_setFn (s : State) (n m : Nat) (f : HostFn) : (s.setFn n f).sched m = s.sched m := rfl
@[simp] theorem State.sched_setSlice (s : State) (n m : Nat) (x : Slice) : (s.setSlice n x).sched m = s.sched m := rfl
@[simp] theorem State.sched_setChan (s : State) (n m : Nat) (x : Chan) : (s.setChan n x).sched m = s.sched m := rfl
@[simp] theorem State.sched_setPort (s : State) (m : Nat) (p : Nat) (x : Port) : (s.setPort p x).sched m = s.sched m := rfl
@[simp] theorem State.sched_setLink (s : State) (n m : Nat) (x : DieLink) : (s.setLink n x).sched m = s.sched m := rfl
@[simp] theorem State.sched_setSite (s : State) (n m : Nat) (x : Site) : (s.setSite n x).sched m = s.sched m := rfl
@[simp] theorem State.sched_setPlan (s : State) (n m : Nat) (p : Sched) : (s.setPlan n p).sched m = s.sched m := rfl
@[simp] theorem State.sched_modCore (s : State) (n m : Nat) (f : Core → Core) : (s.modCore n f).sched m = s.sched m := rfl
@[simp] theorem State.sched_modCtx (s : State) (n m : Nat) (f : Ctx → Ctx) : (s.modCtx n f).sched m = s.sched m := rfl
@[simp] theorem State.sched_modFn (s : State) (n m : Nat) (f : HostFn → HostFn) : (s.modFn n f).sched m = s.sched m := rfl
@[simp] theorem State.sched_modSlice (s : State) (n m : Nat) (f : Slice → Slice) : (s.modSlice n f).sched m = s.sched m := rfl
@[simp] theorem State.sched_modCmd (s : State) (m : Nat) (id : Nat) (f : Cmd → Cmd) : (s.modCmd id f).sched m = s.sched m := rfl
@[simp] theorem State.sched_modTim (s : State) (m : Nat) (f : Tim → Tim) : (s.modTim f).sched m = s.sched m := rfl
@[simp] theorem State.sched_modPwr (s : State) (m : Nat) (f : Power → Power) : (s.modPwr f).sched m = s.sched m := rfl
@[simp] theorem State.sched_modSup (s : State) (m : Nat) (f : Supplies → Supplies) : (s.modSup f).sched m = s.sched m := rfl
@[simp] theorem State.sched_send (s : State) (m : Nat) (ms : List Msg) : (s.send ms).sched m = s.sched m := rfl
@[simp] theorem State.sched_setQueue (s : State) (n m : Nat) (e : Eng) (q : Queue) : (s.setQueue n e q).sched m = s.sched m := rfl
@[simp] theorem State.sched_modQueue (s : State) (n m : Nat) (e : Eng) (f : Queue → Queue) : (s.modQueue n e f).sched m = s.sched m := rfl
@[simp] theorem State.sched_count (s : State) (m : Nat) (n k b : Nat) : (s.count n k b).sched m = s.sched m := rfl
@[simp] theorem State.sched_hostWrite (s : State) (m : Nat) (fn a : Nat) (bs : List Byte) : (s.hostWrite fn a bs).sched m = s.sched m := rfl
@[simp] theorem State.sched_setRing (s : State) (m : Nat) (fn n : Nat) (r : Ring) : (s.setRing fn n r).sched m = s.sched m := rfl
@[simp] theorem State.plan_setCore (s : State) (n m : Nat) (c : Core) : (s.setCore n c).plan m = s.plan m := rfl
@[simp] theorem State.plan_setCtx (s : State) (n m : Nat) (c : Ctx) : (s.setCtx n c).plan m = s.plan m := rfl
@[simp] theorem State.plan_setPart (s : State) (n m : Nat) (p : Part) : (s.setPart n p).plan m = s.plan m := rfl
@[simp] theorem State.plan_setFn (s : State) (n m : Nat) (f : HostFn) : (s.setFn n f).plan m = s.plan m := rfl
@[simp] theorem State.plan_setSlice (s : State) (n m : Nat) (x : Slice) : (s.setSlice n x).plan m = s.plan m := rfl
@[simp] theorem State.plan_setChan (s : State) (n m : Nat) (x : Chan) : (s.setChan n x).plan m = s.plan m := rfl
@[simp] theorem State.plan_setPort (s : State) (m : Nat) (p : Nat) (x : Port) : (s.setPort p x).plan m = s.plan m := rfl
@[simp] theorem State.plan_setLink (s : State) (n m : Nat) (x : DieLink) : (s.setLink n x).plan m = s.plan m := rfl
@[simp] theorem State.plan_setSite (s : State) (n m : Nat) (x : Site) : (s.setSite n x).plan m = s.plan m := rfl
@[simp] theorem State.plan_setSched (s : State) (m : Nat) (g : Nat) (x : Schedule) : (s.setSched g x).plan m = s.plan m := rfl
@[simp] theorem State.plan_modCore (s : State) (n m : Nat) (f : Core → Core) : (s.modCore n f).plan m = s.plan m := rfl
@[simp] theorem State.plan_modCtx (s : State) (n m : Nat) (f : Ctx → Ctx) : (s.modCtx n f).plan m = s.plan m := rfl
@[simp] theorem State.plan_modFn (s : State) (n m : Nat) (f : HostFn → HostFn) : (s.modFn n f).plan m = s.plan m := rfl
@[simp] theorem State.plan_modSlice (s : State) (n m : Nat) (f : Slice → Slice) : (s.modSlice n f).plan m = s.plan m := rfl
@[simp] theorem State.plan_modCmd (s : State) (m : Nat) (id : Nat) (f : Cmd → Cmd) : (s.modCmd id f).plan m = s.plan m := rfl
@[simp] theorem State.plan_modTim (s : State) (m : Nat) (f : Tim → Tim) : (s.modTim f).plan m = s.plan m := rfl
@[simp] theorem State.plan_modPwr (s : State) (m : Nat) (f : Power → Power) : (s.modPwr f).plan m = s.plan m := rfl
@[simp] theorem State.plan_modSup (s : State) (m : Nat) (f : Supplies → Supplies) : (s.modSup f).plan m = s.plan m := rfl
@[simp] theorem State.plan_send (s : State) (m : Nat) (ms : List Msg) : (s.send ms).plan m = s.plan m := rfl
@[simp] theorem State.plan_setQueue (s : State) (n m : Nat) (e : Eng) (q : Queue) : (s.setQueue n e q).plan m = s.plan m := rfl
@[simp] theorem State.plan_modQueue (s : State) (n m : Nat) (e : Eng) (f : Queue → Queue) : (s.modQueue n e f).plan m = s.plan m := rfl
@[simp] theorem State.plan_count (s : State) (m : Nat) (n k b : Nat) : (s.count n k b).plan m = s.plan m := rfl
@[simp] theorem State.plan_hostWrite (s : State) (m : Nat) (fn a : Nat) (bs : List Byte) : (s.hostWrite fn a bs).plan m = s.plan m := rfl
@[simp] theorem State.plan_setRing (s : State) (m : Nat) (fn n : Nat) (r : Ring) : (s.setRing fn n r).plan m = s.plan m := rfl
@[simp] theorem State.now_setCore (s : State) (n : Nat) (c : Core) : (s.setCore n c).now = s.now := rfl
@[simp] theorem State.cmd?_setCore (s : State) (n : Nat) (c : Core) (i : Nat) : (s.setCore n c).cmd? i = s.cmd? i := rfl
@[simp] theorem State.now_setCtx (s : State) (n : Nat) (c : Ctx) : (s.setCtx n c).now = s.now := rfl
@[simp] theorem State.cmd?_setCtx (s : State) (n : Nat) (c : Ctx) (i : Nat) : (s.setCtx n c).cmd? i = s.cmd? i := rfl
@[simp] theorem State.now_setPart (s : State) (n : Nat) (p : Part) : (s.setPart n p).now = s.now := rfl
@[simp] theorem State.cmd?_setPart (s : State) (n : Nat) (p : Part) (i : Nat) : (s.setPart n p).cmd? i = s.cmd? i := rfl
@[simp] theorem State.now_setFn (s : State) (n : Nat) (f : HostFn) : (s.setFn n f).now = s.now := rfl
@[simp] theorem State.cmd?_setFn (s : State) (n : Nat) (f : HostFn) (i : Nat) : (s.setFn n f).cmd? i = s.cmd? i := rfl
@[simp] theorem State.now_setSlice (s : State) (n : Nat) (x : Slice) : (s.setSlice n x).now = s.now := rfl
@[simp] theorem State.cmd?_setSlice (s : State) (n : Nat) (x : Slice) (i : Nat) : (s.setSlice n x).cmd? i = s.cmd? i := rfl
@[simp] theorem State.now_setChan (s : State) (n : Nat) (x : Chan) : (s.setChan n x).now = s.now := rfl
@[simp] theorem State.cmd?_setChan (s : State) (n : Nat) (x : Chan) (i : Nat) : (s.setChan n x).cmd? i = s.cmd? i := rfl
@[simp] theorem State.now_setPort (s : State) (p : Nat) (x : Port) : (s.setPort p x).now = s.now := rfl
@[simp] theorem State.cmd?_setPort (s : State) (p : Nat) (x : Port) (i : Nat) : (s.setPort p x).cmd? i = s.cmd? i := rfl
@[simp] theorem State.now_setLink (s : State) (n : Nat) (x : DieLink) : (s.setLink n x).now = s.now := rfl
@[simp] theorem State.cmd?_setLink (s : State) (n : Nat) (x : DieLink) (i : Nat) : (s.setLink n x).cmd? i = s.cmd? i := rfl
@[simp] theorem State.now_setSite (s : State) (n : Nat) (x : Site) : (s.setSite n x).now = s.now := rfl
@[simp] theorem State.cmd?_setSite (s : State) (n : Nat) (x : Site) (i : Nat) : (s.setSite n x).cmd? i = s.cmd? i := rfl
@[simp] theorem State.now_setSched (s : State) (g : Nat) (x : Schedule) : (s.setSched g x).now = s.now := rfl
@[simp] theorem State.cmd?_setSched (s : State) (g : Nat) (x : Schedule) (i : Nat) : (s.setSched g x).cmd? i = s.cmd? i := rfl
@[simp] theorem State.now_setPlan (s : State) (n : Nat) (p : Sched) : (s.setPlan n p).now = s.now := rfl
@[simp] theorem State.cmd?_setPlan (s : State) (n : Nat) (p : Sched) (i : Nat) : (s.setPlan n p).cmd? i = s.cmd? i := rfl
@[simp] theorem State.now_modCore (s : State) (n : Nat) (f : Core → Core) : (s.modCore n f).now = s.now := rfl
@[simp] theorem State.cmd?_modCore (s : State) (n : Nat) (f : Core → Core) (i : Nat) : (s.modCore n f).cmd? i = s.cmd? i := rfl
@[simp] theorem State.now_modCtx (s : State) (n : Nat) (f : Ctx → Ctx) : (s.modCtx n f).now = s.now := rfl
@[simp] theorem State.cmd?_modCtx (s : State) (n : Nat) (f : Ctx → Ctx) (i : Nat) : (s.modCtx n f).cmd? i = s.cmd? i := rfl
@[simp] theorem State.now_modFn (s : State) (n : Nat) (f : HostFn → HostFn) : (s.modFn n f).now = s.now := rfl
@[simp] theorem State.cmd?_modFn (s : State) (n : Nat) (f : HostFn → HostFn) (i : Nat) : (s.modFn n f).cmd? i = s.cmd? i := rfl
@[simp] theorem State.now_modSlice (s : State) (n : Nat) (f : Slice → Slice) : (s.modSlice n f).now = s.now := rfl
@[simp] theorem State.cmd?_modSlice (s : State) (n : Nat) (f : Slice → Slice) (i : Nat) : (s.modSlice n f).cmd? i = s.cmd? i := rfl
@[simp] theorem State.now_modCmd (s : State) (id : Nat) (f : Cmd → Cmd) : (s.modCmd id f).now = s.now := rfl
@[simp] theorem State.cmd?_modTim (s : State) (f : Tim → Tim) (i : Nat) : (s.modTim f).cmd? i = s.cmd? i := rfl
@[simp] theorem State.now_modPwr (s : State) (f : Power → Power) : (s.modPwr f).now = s.now := rfl
@[simp] theorem State.cmd?_modPwr (s : State) (f : Power → Power) (i : Nat) : (s.modPwr f).cmd? i = s.cmd? i := rfl
@[simp] theorem State.now_modSup (s : State) (f : Supplies → Supplies) : (s.modSup f).now = s.now := rfl
@[simp] theorem State.cmd?_modSup (s : State) (f : Supplies → Supplies) (i : Nat) : (s.modSup f).cmd? i = s.cmd? i := rfl
@[simp] theorem State.now_send (s : State) (ms : List Msg) : (s.send ms).now = s.now := rfl
@[simp] theorem State.cmd?_send (s : State) (ms : List Msg) (i : Nat) : (s.send ms).cmd? i = s.cmd? i := rfl
@[simp] theorem State.now_setQueue (s : State) (n : Nat) (e : Eng) (q : Queue) : (s.setQueue n e q).now = s.now := rfl
@[simp] theorem State.cmd?_setQueue (s : State) (n : Nat) (e : Eng) (q : Queue) (i : Nat) : (s.setQueue n e q).cmd? i = s.cmd? i := rfl
@[simp] theorem State.now_modQueue (s : State) (n : Nat) (e : Eng) (f : Queue → Queue) : (s.modQueue n e f).now = s.now := rfl
@[simp] theorem State.cmd?_modQueue (s : State) (n : Nat) (e : Eng) (f : Queue → Queue) (i : Nat) : (s.modQueue n e f).cmd? i = s.cmd? i := rfl
@[simp] theorem State.now_count (s : State) (n k b : Nat) : (s.count n k b).now = s.now := rfl
@[simp] theorem State.cmd?_count (s : State) (n k b : Nat) (i : Nat) : (s.count n k b).cmd? i = s.cmd? i := rfl
@[simp] theorem State.now_hostWrite (s : State) (fn a : Nat) (bs : List Byte) : (s.hostWrite fn a bs).now = s.now := rfl
@[simp] theorem State.cmd?_hostWrite (s : State) (fn a : Nat) (bs : List Byte) (i : Nat) : (s.hostWrite fn a bs).cmd? i = s.cmd? i := rfl
@[simp] theorem State.now_setRing (s : State) (fn n : Nat) (r : Ring) : (s.setRing fn n r).now = s.now := rfl
@[simp] theorem State.cmd?_setRing (s : State) (fn n : Nat) (r : Ring) (i : Nat) : (s.setRing fn n r).cmd? i = s.cmd? i := rfl
@[simp] theorem State.setCore_setCore (s : State) (n : Nat) (x y : Core) : (s.setCore n x).setCore n y = s.setCore n y := by simp [State.setCore, tabSet_tabSet]
@[simp] theorem State.setCtx_setCtx (s : State) (n : Nat) (x y : Ctx) : (s.setCtx n x).setCtx n y = s.setCtx n y := by simp [State.setCtx, tabSet_tabSet]
@[simp] theorem State.setPart_setPart (s : State) (n : Nat) (x y : Part) : (s.setPart n x).setPart n y = s.setPart n y := by simp [State.setPart, tabSet_tabSet]
@[simp] theorem State.setFn_setFn (s : State) (n : Nat) (x y : HostFn) : (s.setFn n x).setFn n y = s.setFn n y := by simp [State.setFn, tabSet_tabSet]
@[simp] theorem State.setSlice_setSlice (s : State) (n : Nat) (x y : Slice) : (s.setSlice n x).setSlice n y = s.setSlice n y := by simp [State.setSlice, tabSet_tabSet]
@[simp] theorem State.setChan_setChan (s : State) (n : Nat) (x y : Chan) : (s.setChan n x).setChan n y = s.setChan n y := by simp [State.setChan, tabSet_tabSet]
@[simp] theorem State.setPort_setPort (s : State) (n : Nat) (x y : Port) : (s.setPort n x).setPort n y = s.setPort n y := by simp [State.setPort, tabSet_tabSet]
@[simp] theorem State.setLink_setLink (s : State) (n : Nat) (x y : DieLink) : (s.setLink n x).setLink n y = s.setLink n y := by simp [State.setLink, tabSet_tabSet]
@[simp] theorem State.setSite_setSite (s : State) (n : Nat) (x y : Site) : (s.setSite n x).setSite n y = s.setSite n y := by simp [State.setSite, tabSet_tabSet]
@[simp] theorem State.setSched_setSched (s : State) (n : Nat) (x y : Schedule) : (s.setSched n x).setSched n y = s.setSched n y := by simp [State.setSched, tabSet_tabSet]
@[simp] theorem State.setPlan_setPlan (s : State) (n : Nat) (x y : Sched) : (s.setPlan n x).setPlan n y = s.setPlan n y := by simp [State.setPlan, tabSet_tabSet]

@[simp] theorem State.core_modCore (s : State) (n : Nat) (f : Core → Core) : (s.modCore n f).core n = f (s.core n) := by simp [State.modCore]
theorem State.core_modCore_other (s : State) {n m : Nat} (f : Core → Core) (h : n ≠ m) : (s.modCore n f).core m = s.core m := by
  simp [State.modCore, State.core_setCore_other _ _ h]
@[simp] theorem State.ctx_modCtx (s : State) (n : Nat) (f : Ctx → Ctx) : (s.modCtx n f).ctx n = f (s.ctx n) := by simp [State.modCtx]
theorem State.ctx_modCtx_other (s : State) {n m : Nat} (f : Ctx → Ctx) (h : n ≠ m) : (s.modCtx n f).ctx m = s.ctx m := by
  simp [State.modCtx, State.ctx_setCtx_other _ _ h]
@[simp] theorem State.fn_modFn (s : State) (n : Nat) (f : HostFn → HostFn) : (s.modFn n f).fn n = f (s.fn n) := by simp [State.modFn]
theorem State.fn_modFn_other (s : State) {n m : Nat} (f : HostFn → HostFn) (h : n ≠ m) : (s.modFn n f).fn m = s.fn m := by
  simp [State.modFn, State.fn_setFn_other _ _ h]
@[simp] theorem State.slice_modSlice (s : State) (n : Nat) (f : Slice → Slice) : (s.modSlice n f).slice n = f (s.slice n) := by simp [State.modSlice]
theorem State.slice_modSlice_other (s : State) {n m : Nat} (f : Slice → Slice) (h : n ≠ m) : (s.modSlice n f).slice m = s.slice m := by
  simp [State.modSlice, State.slice_setSlice_other _ _ h]

theorem Eng.num_inj {a b : Eng} (h : a.num = b.num) : a = b := by cases a <;> cases b <;> simp_all [Eng.num]

@[simp] theorem Core.queue_setQueue (c : Core) (e : Eng) (q : Queue) : (c.setQueue e q).queue e = q := by simp [Core.queue, Core.setQueue]
theorem Core.queue_setQueue_other (c : Core) {d e : Eng} (q : Queue) (h : e ≠ d) : (c.setQueue e q).queue d = c.queue d := by
  simp [Core.queue, Core.setQueue, tabGet_tabSet_other _ _ _ fun x => h (Eng.num_inj x)]
@[simp] theorem State.queue_setQueue (s : State) (n : Nat) (e : Eng) (q : Queue) : (s.setQueue n e q).queue n e = q := by
  simp [State.queue, State.setQueue]
@[simp] theorem State.queue_modQueue (s : State) (n : Nat) (e : Eng) (f : Queue → Queue) : (s.modQueue n e f).queue n e = f (s.queue n e) := by
  simp [State.modQueue]

/-! setQueue of a core. -/

@[simp] theorem Core.setQueue_context (c : Core) (e : Eng) (q : Queue) : (c.setQueue e q).context = c.context := rfl
@[simp] theorem Core.setQueue_partition (c : Core) (e : Eng) (q : Queue) : (c.setQueue e q).partition = c.partition := rfl
@[simp] theorem Core.setQueue_resident (c : Core) (e : Eng) (q : Queue) : (c.setQueue e q).resident = c.resident := rfl
@[simp] theorem Core.setQueue_running (c : Core) (e : Eng) (q : Queue) : (c.setQueue e q).running = c.running := rfl
@[simp] theorem Core.setQueue_faulted (c : Core) (e : Eng) (q : Queue) : (c.setQueue e q).faulted = c.faulted := rfl
@[simp] theorem Core.setQueue_faultQueue (c : Core) (e : Eng) (q : Queue) : (c.setQueue e q).faultQueue = c.faultQueue := rfl
@[simp] theorem Core.setQueue_faultReason (c : Core) (e : Eng) (q : Queue) : (c.setQueue e q).faultReason = c.faultReason := rfl
@[simp] theorem Core.setQueue_lastStatus (c : Core) (e : Eng) (q : Queue) : (c.setQueue e q).lastStatus = c.lastStatus := rfl
@[simp] theorem Core.setQueue_l1Units (c : Core) (e : Eng) (q : Queue) : (c.setQueue e q).l1Units = c.l1Units := rfl
@[simp] theorem Core.setQueue_assigned (c : Core) (e : Eng) (q : Queue) : (c.setQueue e q).assigned = c.assigned := rfl
@[simp] theorem Core.setQueue_busy (c : Core) (e : Eng) (q : Queue) : (c.setQueue e q).busy = c.busy := rfl
@[simp] theorem Core.setQueue_waited (c : Core) (e : Eng) (q : Queue) : (c.setQueue e q).waited = c.waited := rfl
@[simp] theorem Core.setQueue_sems (c : Core) (e : Eng) (q : Queue) : (c.setQueue e q).sems = c.sems := rfl
@[simp] theorem Core.setQueue_granted (c : Core) (e : Eng) (q : Queue) : (c.setQueue e q).granted = c.granted := rfl
@[simp] theorem Core.setQueue_prev (c : Core) (e : Eng) (q : Queue) : (c.setQueue e q).prev = c.prev := rfl
@[simp] theorem Core.setQueue_cmd (c : Core) (e : Eng) (q : Queue) : (c.setQueue e q).cmd = c.cmd := rfl
@[simp] theorem Core.setQueue_model (c : Core) (e : Eng) (q : Queue) : (c.setQueue e q).model = c.model := rfl
@[simp] theorem Core.setQueue_index (c : Core) (e : Eng) (q : Queue) : (c.setQueue e q).index = c.index := rfl
@[simp] theorem Core.setQueue_kernel (c : Core) (e : Eng) (q : Queue) : (c.setQueue e q).kernel = c.kernel := rfl
@[simp] theorem Core.setQueue_resided (c : Core) (e : Eng) (q : Queue) : (c.setQueue e q).resided = c.resided := rfl
@[simp] theorem Core.setQueue_rest (c : Core) (e : Eng) (q : Queue) : (c.setQueue e q).rest = c.rest := rfl
@[simp] theorem Core.setQueue_sp (c : Core) (e : Eng) (q : Queue) : (c.setQueue e q).sp = c.sp := rfl
@[simp] theorem Core.setQueue_mxe (c : Core) (e : Eng) (q : Queue) : (c.setQueue e q).mxe = c.mxe := rfl
@[simp] theorem Core.setQueue_vxe (c : Core) (e : Eng) (q : Queue) : (c.setQueue e q).vxe = c.vxe := rfl
@[simp] theorem Core.setQueue_tge (c : Core) (e : Eng) (q : Queue) : (c.setQueue e q).tge = c.tge := rfl
@[simp] theorem Core.setQueue_cpe0 (c : Core) (e : Eng) (q : Queue) : (c.setQueue e q).cpe0 = c.cpe0 := rfl
@[simp] theorem Core.setQueue_cpe1 (c : Core) (e : Eng) (q : Queue) : (c.setQueue e q).cpe1 = c.cpe1 := rfl
@[simp] theorem Core.setQueue_l1 (c : Core) (e : Eng) (q : Queue) : (c.setQueue e q).l1 = c.l1 := rfl
@[simp] theorem Core.setQueue_tlb (c : Core) (e : Eng) (q : Queue) : (c.setQueue e q).tlb = c.tlb := rfl
@[simp] theorem Core.setQueue_redStatus (c : Core) (e : Eng) (q : Queue) : (c.setQueue e q).redStatus = c.redStatus := rfl
@[simp] theorem Core.setQueue_sendq (c : Core) (e : Eng) (q : Queue) : (c.setQueue e q).sendq = c.sendq := rfl
@[simp] theorem Core.setQueue_level (c : Core) (e : Eng) (q : Queue) : (c.setQueue e q).level = c.level := rfl
@[simp] theorem Core.setQueue_nextLevel (c : Core) (e : Eng) (q : Queue) : (c.setQueue e q).nextLevel = c.nextLevel := rfl
@[simp] theorem Core.setQueue_counts (c : Core) (e : Eng) (q : Queue) : (c.setQueue e q).counts = c.counts := rfl
@[simp] theorem Core.setQueue_energy (c : Core) (e : Eng) (q : Queue) : (c.setQueue e q).energy = c.energy := rfl
@[simp] theorem Core.setQueue_leak (c : Core) (e : Eng) (q : Queue) : (c.setQueue e q).leak = c.leak := rfl
@[simp] theorem Core.setQueue_stopped (c : Core) (e : Eng) (q : Queue) : (c.setQueue e q).stopped = c.stopped := rfl

end Sys2Proof.Machine
end

