-- ==== Sys2Proof/Laws/Faults.lean ====
section
/-! SUPPORT. What recording a fault and taking a context fault do (R19, R20, R411, R444, R445). -/

namespace Sys2Proof.Machine

/-- A record goes to the next number, with the time of detection. -/
theorem State.record_at (s : State) (r : FaultRec) :
    tabGet? (s.record r).2.log.recs s.log.next.toNat = some { r with time := s.tim.now } := by
  simp [State.record]

@[simp] theorem State.record_fst (s : State) (r : FaultRec) : (s.record r).1 = s.log.next.toNat := rfl
@[simp] theorem State.record_next (s : State) (r : FaultRec) : (s.record r).2.log.next = s.log.next + 1 := rfl
@[simp] theorem State.record_core (s : State) (r : FaultRec) (n : Nat) : (s.record r).2.core n = s.core n := rfl
@[simp] theorem State.record_ctx (s : State) (r : FaultRec) (n : Nat) : (s.record r).2.ctx n = s.ctx n := rfl

/-- Naming a command in a record changes nothing else of it. -/
theorem FaultRec.ofCmd_same (r : FaultRec) (c : Option Cmd) :
    (r.ofCmd c).cls = r.cls ∧ (r.ofCmd c).cause = r.cause ∧ (r.ofCmd c).status = r.status ∧ (r.ofCmd c).context = r.context ∧
      (r.ofCmd c).partition = r.partition ∧ (r.ofCmd c).core = r.core ∧ (r.ofCmd c).queue = r.queue ∧
      (r.ofCmd c).tagValid = r.tagValid := by
  cases c <;> simp [FaultRec.ofCmd]

/-- The record of a context fault that stands in the log after it (R445). -/
theorem State.faultQueue_record (s : State) (n q : Nat) (f : CtxFault) :
    ∃ r, tabGet? (s.faultQueue n q f).log.recs s.log.next.toNat = some r ∧ r.cls = 1 ∧ r.cause = BitVec.ofNat 8 f.reason.code ∧
      r.status = BitVec.ofNat 8 f.status ∧ r.context = (s.core n).context ∧ r.partition = (s.core n).partition ∧
      r.core = BitVec.ofNat 16 n ∧ r.queue = BitVec.ofNat 8 q ∧ r.tagValid = true ∧ r.time = s.tim.now := by
  unfold State.faultQueue
  simp only [State.modCtx, State.setCtx_log, State.setCore_log]
  split
  all_goals
    refine ⟨_, by simp [State.record]; rfl, ?_⟩
    simp [FaultRec.ofCmd_same]

/-- What a context fault does to its core, and that it leaves every other core and the memory (R70, R411). -/
theorem State.faultQueue_core (s : State) (n q : Nat) (f : CtxFault) :
    (s.faultQueue n q f).core n = { s.core n with
      faulted := true, faultQueue := BitVec.ofNat 3 q, faultReason := BitVec.ofNat 6 f.reason.code
      lastStatus := BitVec.ofNat 8 Status.faulted.code, stopped := true } := by
  simp [State.faultQueue, State.modCtx]

theorem State.faultQueue_core_other (s : State) {n m : Nat} (q : Nat) (f : CtxFault) (h : m ≠ n) :
    (s.faultQueue n q f).core m = s.core m := by
  unfold State.faultQueue
  simp only [State.modCtx, State.core, State.setCtx_cores, State.setCore, tabGet_tabSet_other _ _ _ (Ne.symm h)]
  split <;> rfl

@[simp] theorem State.faultQueue_mem (s : State) (n q : Nat) (f : CtxFault) : (s.faultQueue n q f).mem = s.mem := by
  unfold State.faultQueue; simp only [State.modCtx, State.setCtx_mem, State.setCore_mem]; split <;> rfl
@[simp] theorem State.faultQueue_next (s : State) (n q : Nat) (f : CtxFault) : (s.faultQueue n q f).log.next = s.log.next + 1 := by
  unfold State.faultQueue; simp only [State.modCtx, State.setCtx_log, State.setCore_log]; split <;> rfl
@[simp] theorem State.faultQueue_cache (s : State) (n q : Nat) (f : CtxFault) : (s.faultQueue n q f).cache = s.cache := by
  unfold State.faultQueue; simp only [State.modCtx, State.setCtx_cache, State.setCore_cache]; split <;> rfl

/-- The context of the core is torn down, unless a teardown is under way (R411). -/
theorem State.faultQueue_ctx (s : State) (n q : Nat) (f : CtxFault) :
    let x := s.ctx (s.core n).context.toNat
    (s.faultQueue n q f).ctx (s.core n).context.toNat = if x.tear.isSome then x else { x with
      state := .tearing
      tear := some { cause := .fault, cmd := some (s.core n).cmd, reason := f.reason.code, started := s.now
                     record := some s.log.next.toNat } } := by
  intro x
  unfold State.faultQueue
  simp only [State.modCtx, State.ctx_setCtx]
  split <;> rfl

/-! Faults of class 2 and 3 (R20). -/

/-- Changing a record changes the log alone, and not its length. -/
theorem State.modRecord_same (s : State) (n : Nat) (f : FaultRec → FaultRec) : ∃ L, s.modRecord n f = { s with log := L } ∧ L.next = s.log.next := by
  unfold State.modRecord; split
  · exact ⟨s.log, rfl, rfl⟩
  · refine ⟨_, rfl, ?_⟩; rfl
theorem State.modRecords_same (ns : List Nat) (s : State) (f : FaultRec → FaultRec) : ∃ L, ns.foldl (fun s n => s.modRecord n f) s = { s with log := L } ∧ L.next = s.log.next := by
  induction ns generalizing s with
  | nil => exact ⟨s.log, rfl, rfl⟩
  | cons n t ih =>
    obtain ⟨L, e, h⟩ := ih (s.modRecord n f)
    obtain ⟨K, e2, h2⟩ := State.modRecord_same s n f
    refine ⟨L, ?_, ?_⟩
    · rw [List.foldl_cons, e, e2]
    · rw [h, e2]; exact h2
/-- A fault of class 2 or 3 changes the log, which gains one record, the recovery, and HUB_BOOT_STATUS alone (R20). -/
theorem State.arise_same (s : State) (c : Nat) (r : FaultRec) :
    ∃ L R B, s.arise c r = { s with log := L, recov := R, hub := { s.hub with bootStatus := B } } ∧ L.next = s.log.next + 1 ∧
      (s.recov.state = 0 → s.recov.due < c → R.due = c) := by
  unfold State.arise
  dsimp only
  generalize hcur : (if s.recov.state = 0 then s.recov.due else s.recov.state.toNat + 1) = cur
  split
  · next h => refine ⟨_, s.recov, s.hub.bootStatus, rfl, rfl, ?_⟩; intro h0; simp [h0] at h
  · split
    · next h => split
                · refine ⟨_, _, _, rfl, rfl, ?_⟩; intro h0; simp [h0] at h
                · refine ⟨_, _, s.hub.bootStatus, rfl, rfl, ?_⟩; intro h0; simp [h0] at h
    · split
      · next hc =>
          refine ⟨_, _, s.hub.bootStatus, rfl, rfl, ?_⟩
          intro h0 hd; rw [if_pos h0] at hcur; omega
      · obtain ⟨L, e, h⟩ := State.modRecords_same (s.openFaults ++ if cur = 0 then [] else [s.recov.record]) s FaultRec.subsume
        rw [e]
        refine ⟨_, _, s.hub.bootStatus, rfl, ?_, fun _ _ => rfl⟩; rw [← h]; rfl

@[simp] theorem State.arise_mem (s : State) (c : Nat) (r : FaultRec) : (s.arise c r).mem = s.mem := by
  obtain ⟨L, R, B, e, -⟩ := s.arise_same c r; rw [e]
@[simp] theorem State.arise_cache (s : State) (c : Nat) (r : FaultRec) : (s.arise c r).cache = s.cache := by
  obtain ⟨L, R, B, e, -⟩ := s.arise_same c r; rw [e]
@[simp] theorem State.arise_cores (s : State) (c : Nat) (r : FaultRec) : (s.arise c r).cores = s.cores := by
  obtain ⟨L, R, B, e, -⟩ := s.arise_same c r; rw [e]
@[simp] theorem State.arise_ctxs (s : State) (c : Nat) (r : FaultRec) : (s.arise c r).ctxs = s.ctxs := by
  obtain ⟨L, R, B, e, -⟩ := s.arise_same c r; rw [e]
@[simp] theorem State.arise_parts (s : State) (c : Nat) (r : FaultRec) : (s.arise c r).parts = s.parts := by
  obtain ⟨L, R, B, e, -⟩ := s.arise_same c r; rw [e]
@[simp] theorem State.arise_links (s : State) (c : Nat) (r : FaultRec) : (s.arise c r).links = s.links := by
  obtain ⟨L, R, B, e, -⟩ := s.arise_same c r; rw [e]
@[simp] theorem State.arise_tim (s : State) (c : Nat) (r : FaultRec) : (s.arise c r).tim = s.tim := by
  obtain ⟨L, R, B, e, -⟩ := s.arise_same c r; rw [e]
@[simp] theorem State.arise_cal (s : State) (c : Nat) (r : FaultRec) : (s.arise c r).cal = s.cal := by
  obtain ⟨L, R, B, e, -⟩ := s.arise_same c r; rw [e]
@[simp] theorem State.arise_fab (s : State) (c : Nat) (r : FaultRec) : (s.arise c r).fab = s.fab := by
  obtain ⟨L, R, B, e, -⟩ := s.arise_same c r; rw [e]
@[simp] theorem State.arise_sol (s : State) (c : Nat) (r : FaultRec) : (s.arise c r).sol = s.sol := by
  obtain ⟨L, R, B, e, -⟩ := s.arise_same c r; rw [e]
@[simp] theorem State.arise_fns (s : State) (c : Nat) (r : FaultRec) : (s.arise c r).fns = s.fns := by
  obtain ⟨L, R, B, e, -⟩ := s.arise_same c r; rw [e]
@[simp] theorem State.arise_cmds (s : State) (c : Nat) (r : FaultRec) : (s.arise c r).cmds = s.cmds := by
  obtain ⟨L, R, B, e, -⟩ := s.arise_same c r; rw [e]
@[simp] theorem State.arise_sup (s : State) (c : Nat) (r : FaultRec) : (s.arise c r).sup = s.sup := by
  obtain ⟨L, R, B, e, -⟩ := s.arise_same c r; rw [e]
@[simp] theorem State.arise_pwr (s : State) (c : Nat) (r : FaultRec) : (s.arise c r).pwr = s.pwr := by
  obtain ⟨L, R, B, e, -⟩ := s.arise_same c r; rw [e]
@[simp] theorem State.arise_core (s : State) (c : Nat) (r : FaultRec) (n : Nat) : (s.arise c r).core n = s.core n := by
  simp [State.core]
@[simp] theorem State.arise_sched (s : State) (c : Nat) (r : FaultRec) (g : Nat) : (s.arise c r).sched g = s.sched g := by
  unfold State.sched; rw [State.arise_sol]
@[simp] theorem State.arise_next (s : State) (c : Nat) (r : FaultRec) : (s.arise c r).log.next = s.log.next + 1 := by
  obtain ⟨L, R, B, e, h, -⟩ := s.arise_same c r; rw [e]; exact h
theorem State.arise_due {s : State} {c : Nat} (r : FaultRec) (h : s.recov.state = 0) (hc : s.recov.due < c) : (s.arise c r).recov.due = c := by
  obtain ⟨L, R, B, e, -, hd⟩ := s.arise_same c r; rw [e]; exact hd h hc

end Sys2Proof.Machine
end

