-- ==== Sys2Proof/Laws/Commands.lean ====
section
/-! SUPPORT. What the ends of host commands change: the status word in the host's memory, the interrupt, and the list of commands. -/

namespace Sys2Proof.Machine

/-- Settling a status word changes the host's side and the commands alone (R376). -/
theorem State.settled_same (s : State) (c : Cmd) (w : Bool) : ∃ H C, s.settled c w = { s with host := H, cmds := C } ∧
    ∀ x ∈ C, ∃ y ∈ s.cmds, x = y ∨ x = { y with dirty := false } := by
  unfold State.settled
  split
  · refine ⟨if (w && c.interrupt) = true then { s.host with msix := s.host.msix ++ [(c.fn, c.vector)] } else s.host,
      s.cmds.filter fun x => x.id != c.id, ?_, ?_⟩
    · split <;> rfl
    · intro x hx
      exact ⟨x, (List.mem_filter.1 hx).1, Or.inl rfl⟩
  · refine ⟨s.host, _, rfl, ?_⟩
    intro x hx
    obtain ⟨y, hy, e⟩ := List.mem_map.1 hx
    refine ⟨y, hy, ?_⟩
    split at e
    · exact Or.inr e.symm
    · exact Or.inl e.symm

theorem State.hostWrite_same (s : State) (fn a : Nat) (bs : List Byte) : ∃ H, s.hostWrite fn a bs = { s with host := H } := by
  unfold State.hostWrite; exact ⟨_, rfl⟩

/-- A status word that goes to the host's memory (R374, R376). -/
theorem State.post_host {s : State} {id : Nat} (h : ∀ c ∈ s.cmds, c.id = id → c.statusVa = false) :
    ∃ H C, s.post id = { s with host := H, cmds := C } ∧ ∀ x ∈ C, ∃ y ∈ s.cmds, x = y ∨ x = { y with dirty := false } := by
  unfold State.post
  split
  · exact ⟨s.host, s.cmds, rfl, fun x hx => ⟨x, hx, Or.inl rfl⟩⟩
  · next c hc =>
    have hm := List.mem_of_find?_eq_some hc
    have hi : c.id = id := by simpa using List.find?_some hc
    split
    · exact s.settled_same c false
    · rw [h c hm hi, if_pos (by decide)]
      obtain ⟨H1, e1⟩ := s.hostWrite_same c.fn (c.statusAt + 8) (leBytes 8 c.word1)
      obtain ⟨H2, e2⟩ := ({ s with host := H1 } : State).hostWrite_same c.fn c.statusAt (leBytes 8 c.word0)
      rw [e1, e2]
      obtain ⟨H, C, e, k⟩ := State.settled_same { s with host := H2 } c true
      exact ⟨H, C, e, k⟩

/-- A command without a launch whose status word goes to the host's memory ends: the host's side and the commands change, no
more (R373 to R376). -/
theorem State.finish_host {s : State} {id : Nat} (st : Status) (d r : Nat)
    (h : ∀ c ∈ s.cmds, c.id = id → c.statusVa = false ∧ c.launch = none) :
    ∃ H C, s.finish id st d r = { s with host := H, cmds := C } ∧
      ∀ x ∈ C, ∃ y ∈ s.cmds, x.id = y.id ∧ x.statusVa = y.statusVa ∧ x.launch = y.launch := by
  unfold State.finish
  split
  · exact ⟨s.host, s.cmds, rfl, fun x hx => ⟨x, hx, rfl, rfl, rfl⟩⟩
  · next c hc =>
    have hm := List.mem_of_find?_eq_some hc
    have hi : c.id = id := by simpa using List.find?_some hc
    split
    · exact ⟨s.host, s.cmds, rfl, fun x hx => ⟨x, hx, rfl, rfl, rfl⟩⟩
    · rw [(h c hm hi).2]
      unfold State.update
      generalize hf : (fun (x : Cmd) => _) = f
      have hid : ∀ x, (f x).id = x.id ∧ (f x).statusVa = x.statusVa ∧ (f x).launch = x.launch := by
        intro x; rw [← hf]; dsimp only; split <;> exact ⟨rfl, rfl, rfl⟩
      have hc' : ∀ x ∈ (s.modCmd id f).cmds, ∃ y ∈ s.cmds, x.id = y.id ∧ x.statusVa = y.statusVa ∧ x.launch = y.launch := by
        intro x hx
        obtain ⟨y, hy, e⟩ := List.mem_map.1 hx
        refine ⟨y, hy, ?_⟩
        split at e
        · rw [← e]; exact hid y
        · rw [← e]; exact ⟨rfl, rfl, rfl⟩
      obtain ⟨H, C, e, k⟩ := State.post_host (s := s.modCmd id f) (id := id) (by
        intro x hx hxi
        obtain ⟨y, hy, e1, e2, e3⟩ := hc' x hx
        rw [e2]; exact (h y hy (e1 ▸ hxi)).1)
      refine ⟨H, C, e, fun x hx => ?_⟩
      obtain ⟨y, hy, e⟩ := k x hx
      obtain ⟨z, hz, q⟩ := hc' y hy
      refine ⟨z, hz, ?_⟩
      rcases e with e | e <;> rw [e] <;> exact q

/-! One command among the commands in hand. -/

theorem State.cmd?_modCmd {s : State} {id : Nat} {c : Cmd} {f : Cmd → Cmd} (h : s.cmd? id = some c) (hf : ∀ x, (f x).id = x.id) :
    (s.modCmd id f).cmd? id = some (f c) := by
  have hi : c.id = id := by simpa using List.find?_some h
  unfold State.cmd? State.modCmd at *
  dsimp only
  rw [List.find?_map]
  have : ((fun c : Cmd => c.id == id) ∘ fun c => if c.id = id then f c else c) = fun c => c.id == id := by
    funext x; simp only [Function.comp]; split <;> simp [hf]
  rw [this, h]
  simp [hi]

theorem State.modCmd_filter (s : State) (id : Nat) (f : Cmd → Cmd) (hf : ∀ x, (f x).id = x.id) :
    (s.modCmd id f).cmds.filter (fun x => x.id != id) = s.cmds.filter fun x => x.id != id := by
  unfold State.modCmd; dsimp only
  induction s.cmds with
  | nil => rfl
  | cons c t ih =>
    rw [List.map_cons]
    by_cases h : c.id = id
    · rw [if_pos h, List.filter_cons_of_neg (by simp [hf, h]), List.filter_cons_of_neg (by simp [h]), ih]
    · rw [if_neg h, List.filter_cons_of_pos (by simp [h]), List.filter_cons_of_pos (by simp [h]), ih]

/-- A command without a launch ends (R373 to R376): its status word, second half first, and its interrupt. -/
theorem State.finish_final {s : State} {c : Cmd} {st : Status} (detail result : Nat) (h1 : s.cmd? c.id = some c) (h2 : c.status = .pending)
   (h3 : c.statusVa = false) (h4 : c.mute = false) (h5 : c.launch = none) (h6 : st ≠ .pending) (h7 : st ≠ .partialResult) :
    let y := { c with status := st, detail := BitVec.ofNat 16 detail, started := true, waiting := false }
    let d := if c.progresses then y else { y with
      progress := BitVec.ofNat 32 result, mark := BitVec.ofNat 32 (result / 2 ^ 32) }
    s.finish c.id st detail result = { s with cmds := s.cmds.filter (fun x => x.id != c.id), host := { s.host with
       mem := memWrN (memWrN s.host.mem (hostAddr c.fn (c.statusAt + 8)) (leBytes 8 d.word1)) (hostAddr c.fn c.statusAt)
         (leBytes 8 d.word0)
       msix := s.host.msix ++ (if c.interrupt then [(c.fn, c.vector)] else []) } } := by
  intro y d
  unfold State.finish
  rw [h1]; dsimp only
  have hf : c.status.final = false := by rw [h2]; rfl
  rw [hf, if_neg (by decide), h5]
  dsimp only
  unfold State.update
  generalize hfun : (fun (x : Cmd) => _) = f
  have hid : ∀ x, (f x).id = x.id := by intro x; rw [← hfun]; dsimp only; split <;> rfl
  have hd : f c = d := by rw [← hfun]
  unfold State.post
  rw [State.cmd?_modCmd h1 hid, hd]
  dsimp only
  have e1 : d.mute = false := by simp only [d]; split <;> exact h4
  have e2 : d.statusVa = false := by simp only [d]; split <;> exact h3
  have e3 : d.fn = c.fn := by simp only [d]; split <;> rfl
  have e4 : d.statusAt = c.statusAt := by simp only [d]; split <;> rfl
  have e5 : d.status = st := by simp only [d]; split <;> rfl
  have e6 : d.interrupt = c.interrupt := by simp only [d]; split <;> rfl
  have e7 : d.vector = c.vector := by simp only [d]; split <;> rfl
  have e8 : d.id = c.id := by simp only [d]; split <;> rfl
  have e9 : d.status.final = true := by rw [e5]; cases st <;> simp_all [Status.final]
  rw [e1, e2, e3, e4, if_neg (by decide), if_pos (by decide)]
  unfold State.settled
  rw [e9, if_pos rfl, e8, e3, e6, e7]
  unfold State.dropCmd
  cases c.interrupt
  · simp only [Bool.and_false, Bool.false_eq_true, if_false, List.append_nil, State.hostWrite]
    rw [← State.modCmd_filter s c.id f hid]; rfl
  · simp only [Bool.and_self, if_true, State.hostWrite]
    rw [← State.modCmd_filter s c.id f hid]; rfl
/-- A status word that is not final goes to the host's memory (R374). -/
theorem State.post_pending {s : State} {c : Cmd} (h1 : s.cmd? c.id = some c) (h2 : c.status = .pending)
    (h3 : c.statusVa = false) (h4 : c.mute = false) :
    s.post c.id = { s with
      cmds := s.cmds.map (fun x => if x.id = c.id then { x with dirty := false } else x)
      host := { s.host with
        mem := memWrN (memWrN s.host.mem (hostAddr c.fn (c.statusAt + 8)) (leBytes 8 c.word1)) (hostAddr c.fn c.statusAt)
          (leBytes 8 c.word0) } } := by
  unfold State.post
  rw [h1]; dsimp only
  rw [h4, h3, if_neg (by decide), if_pos (by decide)]
  unfold State.settled
  rw [h2, if_neg (by decide)]
  simp only [State.hostWrite, State.modCmd]
/-! Rings. -/

@[simp] theorem State.ring_setRing (s : State) (f n : Nat) (r : Ring) : (s.setRing f n r).ring f n = r := by
  simp [State.setRing, State.ring]
theorem State.ring_setRing_other (s : State) {f n g m : Nat} (r : Ring) (h : g ≠ f ∨ m ≠ n) : (s.setRing f n r).ring g m = s.ring g m := by
  unfold State.ring State.setRing
  by_cases hg : f = g
  · subst hg
    rw [State.fn_modFn]; dsimp only
    rw [tabGet_tabSet_other _ _ _ (by omega)]
  · rw [State.fn_modFn_other _ _ hg]

/-! Taking a packet. -/

@[simp] theorem State.packetCmd_id (s : State) (f k : Nat) (p : Line) : (s.packetCmd f k p).id = s.nextCmd := rfl
@[simp] theorem State.packetCmd_status (s : State) (f k : Nat) (p : Line) : (s.packetCmd f k p).status = .pending := rfl
@[simp] theorem State.packetCmd_statusVa (s : State) (f k : Nat) (p : Line) : (s.packetCmd f k p).statusVa = (s.ring f k).statusVa := rfl
@[simp] theorem State.packetCmd_mute (s : State) (f k : Nat) (p : Line) : (s.packetCmd f k p).mute = false := rfl
@[simp] theorem State.packetCmd_launch (s : State) (f k : Nat) (p : Line) : (s.packetCmd f k p).launch = none := rfl
theorem State.packetCmd_clean (s : State) (f k : Nat) (p : Line) : { s.packetCmd f k p with dirty := false } = s.packetCmd f k p := rfl
@[simp] theorem State.holdPacket_cmds (s : State) (f k : Nat) (p : Line) :
    (s.holdPacket f k p).cmds = s.cmds ++ [s.packetCmd f k p] := rfl
@[simp] theorem State.holdPacket_mem (s : State) (f k : Nat) (p : Line) : (s.holdPacket f k p).mem = s.mem := rfl
@[simp] theorem State.holdPacket_cores (s : State) (f k : Nat) (p : Line) : (s.holdPacket f k p).cores = s.cores := rfl
@[simp] theorem State.holdPacket_host (s : State) (f k : Nat) (p : Line) : (s.holdPacket f k p).host = s.host := rfl
theorem State.holdPacket_fns (s : State) (f k : Nat) (p : Line) :
    (s.holdPacket f k p).fns = (s.setRing f k { s.ring f k with head := (s.ring f k).head + 1 }).fns := rfl

/-- Its status word, PENDING, goes to the host's memory (R374). -/
theorem State.post_held (s : State) (f k : Nat) (p : Line) (h1 : ∀ d ∈ s.cmds, d.id < s.nextCmd) (h2 : (s.ring f k).statusVa = false) :
    let c := s.packetCmd f k p
    (s.holdPacket f k p).post s.nextCmd = { s.holdPacket f k p with
      host := { s.host with
        mem := memWrN (memWrN s.host.mem (hostAddr c.fn (c.statusAt + 8)) (leBytes 8 c.word1)) (hostAddr c.fn c.statusAt)
          (leBytes 8 c.word0) } } := by
  intro c
  have hc : (s.holdPacket f k p).cmd? c.id = some c := by
    unfold State.cmd?
    rw [State.holdPacket_cmds, List.find?_append, List.find?_eq_none.2]
    · simp [c]
    · intro x hx; have := h1 x hx; simp [c]; omega
  have := State.post_pending (s := s.holdPacket f k p) (c := c) hc rfl h2 rfl
  rw [show s.nextCmd = c.id from rfl, this, State.holdPacket_host]
  congr 1
  rw [State.holdPacket_cmds, List.map_append]
  congr 1
  · conv => rhs; rw [← List.map_id s.cmds]
    apply List.map_congr_left
    intro x hx; have := h1 x hx; rw [if_neg (by show ¬ x.id = s.nextCmd; omega)]; rfl
  · rw [List.map_cons, List.map_nil, if_pos rfl, State.packetCmd_clean]

/-! Loading a schedule. -/

@[simp] theorem Image.load_state (m : Image) (x : Schedule) : (m.load x).state = 1 := rfl

theorem State.loadImage_reached {t v : State} {c : Cmd} {b : List Byte} {x : Schedule} (h : (imageOf b).load (t.sched (c.f 0x0C 1)) = x)
    (h1 : c.f 0x18 4 = imageLength (imageOf b).head) (h2 : State.allReach x.streams t = (.ok (), v)) :
    t.loadImage c b = v.endLoad c (imageOf b) x true := by
  unfold State.loadImage; dsimp only
  rw [h, if_neg (by rw [h1]; simp), h2]

end Sys2Proof.Machine
end

