-- ==== Sys2Proof/Laws/Home.lean ====
section
/-! SUPPORT. What a home slice does with a request for a line that it holds and that nothing holds up. -/

namespace Sys2Proof.Machine

/-! Messages and agents' lines: what the operations on them leave as it was. -/

@[simp] theorem State.setAgentLine_mem (s : State) (a l : Nat) (x : AgentLine) : (s.setAgentLine a l x).mem = s.mem := rfl
@[simp] theorem State.setAgentLine_cores (s : State) (a l : Nat) (x : AgentLine) : (s.setAgentLine a l x).cores = s.cores := rfl
@[simp] theorem State.setAgentLine_links (s : State) (a l : Nat) (x : AgentLine) : (s.setAgentLine a l x).links = s.links := rfl
@[simp] theorem State.setAgentLine_tim (s : State) (a l : Nat) (x : AgentLine) : (s.setAgentLine a l x).tim = s.tim := rfl
@[simp] theorem State.setAgentLine_fab (s : State) (a l : Nat) (x : AgentLine) : (s.setAgentLine a l x).fab = s.fab := rfl
@[simp] theorem State.setAgentLine_log (s : State) (a l : Nat) (x : AgentLine) : (s.setAgentLine a l x).log = s.log := rfl
@[simp] theorem State.setAgentLine_recov (s : State) (a l : Nat) (x : AgentLine) : (s.setAgentLine a l x).recov = s.recov := rfl
@[simp] theorem State.setAgentLine_sup (s : State) (a l : Nat) (x : AgentLine) : (s.setAgentLine a l x).sup = s.sup := rfl
@[simp] theorem State.setAgentLine_cmds (s : State) (a l : Nat) (x : AgentLine) : (s.setAgentLine a l x).cmds = s.cmds := rfl
@[simp] theorem State.core_setAgentLine (s : State) (a l n : Nat) (x : AgentLine) : (s.setAgentLine a l x).core n = s.core n := rfl
@[simp] theorem State.slice_setAgentLine (s : State) (a l n : Nat) (x : AgentLine) : (s.setAgentLine a l x).slice n = s.slice n := rfl
@[simp] theorem State.site_setAgentLine (s : State) (a l n : Nat) (x : AgentLine) : (s.setAgentLine a l x).site n = s.site n := rfl
@[simp] theorem State.ctx_setAgentLine (s : State) (a l n : Nat) (x : AgentLine) : (s.setAgentLine a l x).ctx n = s.ctx n := rfl
@[simp] theorem State.now_setAgentLine (s : State) (a l : Nat) (x : AgentLine) : (s.setAgentLine a l x).now = s.now := rfl
@[simp] theorem State.slice_send (s : State) (ms : List Msg) (n : Nat) : (s.send ms).slice n = s.slice n := rfl
@[simp] theorem State.send_msgs (s : State) (ms : List Msg) : (s.send ms).cache.msgs = s.cache.msgs ++ ms := rfl
@[simp] theorem State.slice_notify (s : State) (a n : Nat) : (s.notify a).slice n = s.slice n := rfl
@[simp] theorem State.notify_mem (s : State) (a : Nat) : (s.notify a).mem = s.mem := rfl
@[simp] theorem State.site_extendM (s : State) (k n : Nat) (d : List Byte) : (s.extendM k d).site n = s.site n := rfl
@[simp] theorem State.extendM_mem (s : State) (k : Nat) (d : List Byte) : (s.extendM k d).mem = s.mem := rfl
@[simp] theorem State.extendM_cores (s : State) (k : Nat) (d : List Byte) : (s.extendM k d).cores = s.cores := rfl
@[simp] theorem State.extendM_log (s : State) (k : Nat) (d : List Byte) : (s.extendM k d).log = s.log := rfl

/-- Taking a message off the network changes nothing but the messages. -/
theorem State.takeMsg_some {s t : State} {k : MsgKind} {a l : Nat} {m : Msg} (h : s.takeMsg k a l = some (m, t)) :
    t = { s with cache := { s.cache with msgs := s.cache.msgs.eraseP fun m => m.kind == k && m.dest == a && m.line == l } } := by
  unfold State.takeMsg at h
  dsimp only at h
  split at h
  · cases h
  · simp only [Option.some.injEq, Prod.mk.injEq] at h; exact h.2.symm

/-- A request that finds its line is served at once; an UPGRADE of an agent without a copy is an RD_UNIQUE (R214). -/
theorem State.accept_hit {s : State} {r : Req} {k : Nat} (h : s.homeHit r k) (hr : r.reread = false) :
    s.accept r false = some (s.servedAt
      (if r.kind = .upgrade ∧ holdsCopy ((s.slice (sliceOf r.line)).way k) r = false then { r with kind := .rdUnique } else r) k) := by
  obtain ⟨h1, h2, h3, h4, h5, h6, h7, h8, h9, h10, h11⟩ := h
  have h8' : (s.slice (sliceOf r.line)).forwarded.any (fun f => f.line == r.line) = false := by simpa using h8
  simp only [State.accept, h7, h8', h9, h10, State.servedAt]
  by_cases hx : r.kind = .upgrade <;> by_cases hy : holdsCopy ((s.slice (sliceOf r.line)).way k) r = true <;> simp_all

/-- A request that nothing holds up is taken when it arrives (R226). -/
theorem State.arrive_hit {s : State} {r : Req} {k : Nat} (h : s.homeHit r k) (take : Bool → State → Option State) {t : State}
    (ht : take false s = some t) : s.arrive r take = t := by
  obtain ⟨h1, h2, h3, h4, h5, h6, h7, h8, h9, h10, h11⟩ := h
  have h5' : (s.slice (sliceOf r.line)).retry.any (fun q => q.requester == r.requester) = false := by simpa using h5
  have h6' : (s.slice (sliceOf r.line)).credited.find? (fun q => q.1.requester == r.requester) = none := by simpa using h6
  simp [State.arrive, h1, h2, h3, h4, h5', h6', h7, h9, h10, ht]

/-- The same for a request of an agent outside (R190). -/
theorem State.request_hit {s : State} {r : Req} {k : Nat} (h : s.homeHit r k) (take : Bool → State → Option State) {t : State}
    (ht : take false s = some t) : s.request r take = t := by
  have h11 := h.2.2.2.2.2.2.2.2.2.2
  cases ha : reqAgent r.requester with
  | none => simp [State.request, ha, State.arrive_hit h take ht]
  | some a =>
    have := h11 a ha
    simp only [State.request, ha, this.1, State.arrive_hit h take ht]
    simp; intro h1 h2; exact absurd (this.2 h1) h2

/-! Ways, and what performing a request leaves (R186, R218). -/

theorem Slice.way_setWay (sl : Slice) (k j : Nat) (w : Way) : (sl.setWay k w).way j = if k = j then w else sl.way j := by
  unfold Slice.setWay Slice.way
  by_cases h : w = {}
  · simp only [h, ↓reduceIte, tabGet, tabGet?_tabDel]; split <;> rfl
  · simp only [h, ↓reduceIte, tabGet, tabGet?_tabSet]; split <;> rfl

@[simp] theorem Slice.way_count (sl : Slice) (k j n : Nat) : (sl.count k n).way j = sl.way j := rfl

/-- The way that a request is performed on. -/
theorem Slice.way_performed (sl : Slice) (k : Nat) (r : Req) : (sl.performed k r).way k =
    { sl.way k with
      data := (r.perform (sl.way k).data).1, st := if (r.perform (sl.way k).data).2.1 then .dirty else (sl.way k).st
      pinned := r.isRed, pinAt := if r.isRed then sl.order else (sl.way k).pinAt, marked := (sl.way k).marked && r.isRed
      dir := (dirAfter (sl.way k).dir (sl.way k).sh r).1, sh := (dirAfter (sl.way k).dir (sl.way k).sh r).2.1 } := by
  have h (sl : Slice) (w : Way) (x : Nat) : Slice.way { (sl.setWay k w).touch k with order := x } k = w := by
    exact (Slice.way_setWay sl k k w).trans (if_pos rfl)
  unfold Slice.performed
  dsimp only
  split <;> split <;> simp only [Slice.way_count, h]

/-- Invalidations change no line and no memory. -/
theorem State.invalidate_same (s : State) (n : Nat) (r : Req) (inv : List Nat) :
    (s.invalidate n r inv).2.mem = s.mem ∧ (s.invalidate n r inv).2.cores = s.cores ∧
      ∀ k, ((s.invalidate n r inv).2.slice n).way k = (s.slice n).way k := by
  unfold State.invalidate
  split
  · exact ⟨rfl, rfl, fun k => rfl⟩
  · refine ⟨rfl, rfl, fun k => ?_⟩
    show (((s.newId.2.send _).count n 9 _).slice n).way k = _
    simp only [State.count, State.slice_modSlice, Slice.way_count]
    rfl

/-- Performing a request without a last-use mark on a line that is not pinned. -/
theorem State.performAt_plain {s : State} {n k : Nat} {r : Req} {reread : Bool} (hl : r.lastUse = false)
    (hp : ((s.slice n).way k).pinned = false) :
    (s.performAt n k r reread).1.data = ((s.slice n).way k).data ∧ (s.performAt n k r reread).2.mem = s.mem ∧
      ((s.performAt n k r reread).2.slice n).way k = ((s.slice n).performed k r).way k := by
  have h : ((((s.slice n).way k).marked && ((s.slice n).way k).pinned) && !r.isRed) = false := by simp [hp]
  unfold State.performAt
  simp only [hl, h, Bool.or_false, Bool.false_eq_true, ↓reduceIte, true_and]
  refine ⟨?_, ?_⟩
  · rw [(State.invalidate_same _ _ _ _).1]; split <;> rfl
  · rw [(State.invalidate_same _ _ _ _).2.2]
    split
    · show ((s.setSlice n _).slice n).way k = _; simp
    · simp

/-! The coherent domain goes down (R230). -/

/-- Refusing what a slice holds sends FAULTs and empties its queues; it leaves the rest of the state. -/
theorem State.refuseAll_same (s : State) (n : Nat) :
    (s.refuseAll n).mem = s.mem ∧ (s.refuseAll n).cache.coh = s.cache.coh ∧ (s.refuseAll n).log = s.log ∧ (s.refuseAll n).recov = s.recov ∧
      (s.refuseAll n).cores = s.cores := by
  have key (rs : List Req) (s : State) : (rs.foldl State.answerFault s).mem = s.mem ∧ (rs.foldl State.answerFault s).cache.coh = s.cache.coh ∧
      (rs.foldl State.answerFault s).log = s.log ∧ (rs.foldl State.answerFault s).recov = s.recov ∧
      (rs.foldl State.answerFault s).cores = s.cores := by
    induction rs generalizing s with
    | nil => exact ⟨rfl, rfl, rfl, rfl, rfl⟩
    | cons r t ih => exact ih (s.answerFault r)
  exact key _ _

theorem State.refuseEach_same (ps : Tab Slice) (s : State) :
    let t := ps.foldl (fun s p => s.refuseAll p.1) s
    t.mem = s.mem ∧ t.cache.coh = s.cache.coh ∧ t.log = s.log ∧ t.recov = s.recov ∧ t.cores = s.cores := by
  induction ps generalizing s with
  | nil => exact ⟨rfl, rfl, rfl, rfl, rfl⟩
  | cons p t ih =>
    obtain ⟨a, b, c, d, e⟩ := ih (s.refuseAll p.1)
    obtain ⟨a', b', c', d', e'⟩ := s.refuseAll_same p.1
    exact ⟨a.trans a', b.trans b', c.trans c', d.trans d', e.trans e'⟩

end Sys2Proof.Machine
end

