-- ==== Sys2Proof/Laws/Memory.lean ====
section
/-! SUPPORT. What device memory holds after writes: bytes, runs of bytes, lines; and which operations keep its canonical form. -/

namespace Sys2Proof.Machine

/-- The number that the n low bytes of v spell is v modulo 2^(8n) (R6). -/
theorem leVal_leBytes (n v : Nat) : leVal (leBytes n v) = v % 2 ^ (8 * n) := by
  induction n generalizing v with
  | zero => simp [leBytes, leVal, Nat.mod_one]
  | succ n ih =>
    simp only [leBytes, leVal, ih, BitVec.toNat_ofNat]
    have h : 2 ^ (8 * (n + 1)) = 256 * 2 ^ (8 * n) := by rw [Nat.mul_add, Nat.pow_add, Nat.mul_comm]
    rw [h, Nat.mod_mul]

@[simp] theorem leBytes_length (n v : Nat) : (leBytes n v).length = n := by
  induction n generalizing v with
  | zero => rfl
  | succ n ih => simp [leBytes, ih]

theorem bytesLine_lineBytes (l : Line) : bytesLine (lineBytes l) = l := by
  unfold bytesLine lineBytes
  rw [leVal_leBytes]
  exact BitVec.eq_of_toNat_eq (by simp)

/-- What one byte reads after a run has been written. -/
theorem memRd_memWrN (bs : List Byte) (m : Mem) (a x : Nat) (h : memWf m = true) :
    memRd (memWrN m a bs) x = if a ≤ x ∧ x < a + bs.length then bs.getD (x - a) 0 else memRd m x := by
  induction bs generalizing m a with
  | nil => simp only [memWrN, List.length_nil]; rw [if_neg (by omega)]
  | cons b bs ih =>
    simp only [memWrN, List.length_cons]
    rw [ih _ _ (memWf_memWr m a b h), memRd_memWr m a x b h]
    by_cases h1 : a = x
    · subst h1; rw [if_neg (by omega), if_pos rfl, if_pos (by omega)]; simp
    · rw [if_neg h1]
      by_cases h2 : a + 1 ≤ x ∧ x < a + 1 + bs.length
      · rw [if_pos h2, if_pos (by omega)]
        have : x - a = (x - (a + 1)) + 1 := by omega
        rw [this, List.getD_cons_succ]
      · rw [if_neg h2, if_neg (by omega)]

/-- Runs of bytes that hold the same bytes read alike. -/
theorem memRdN_congr (m k : Mem) (a n : Nat) (h : ∀ x, a ≤ x → x < a + n → memRd m x = memRd k x) : memRdN m a n = memRdN k a n := by
  induction n generalizing a with
  | zero => rfl
  | succ n ih =>
    simp only [memRdN]
    rw [h a (by omega) (by omega), ih (a + 1) fun x h1 h2 => h x (by omega) (by omega)]

/-- A run that has been written reads back. -/
theorem memRdN_memWrN (bs : List Byte) (m : Mem) (a n : Nat) (hn : bs.length = n) (h : memWf m = true) :
    memRdN (memWrN m a bs) a n = bs := by
  subst hn
  have key (bs cs : List Byte) (a : Nat) (k : Mem) (hr : ∀ i, i < bs.length → memRd k (a + i) = bs.getD i 0) : memRdN k a bs.length = bs := by
    induction bs generalizing a with
    | nil => rfl
    | cons b bs ih =>
      simp only [List.length_cons, memRdN]
      rw [show memRd k a = b from by simpa using hr 0 (by simp), ih (a + 1) fun i hi => by
        have := hr (i + 1) (by simpa using hi)
        rw [List.getD_cons_succ] at this
        rw [← this]; congr 1; omega]
  refine key bs bs a _ fun i hi => ?_
  rw [memRd_memWrN bs m a _ h, if_pos (by omega)]; congr 1; omega

/-- A run that no written byte lies in reads as before. -/
theorem memRdN_memWrN_other (bs : List Byte) (m : Mem) (a b n : Nat) (hb : b + n ≤ a ∨ a + bs.length ≤ b) (h : memWf m = true) :
    memRdN (memWrN m a bs) b n = memRdN m b n :=
  memRdN_congr _ _ _ _ fun x h1 h2 => by rw [memRd_memWrN _ _ _ _ h, if_neg (by omega)]

/-! A line written to its channel (R241, R244). -/

theorem lineBytes_length (l : Line) : (lineBytes l).length = 64 := leBytes_length _ _

@[simp] theorem State.chanWrite_bytes (s : State) (a : Nat) (l : Line) :
    (s.chanWrite a l).mem.bytes = memWrN s.mem.bytes (64 * a) (lineBytes l) := by
  simp only [State.chanWrite, State.setChan]

@[simp] theorem State.chanWrite_cache (s : State) (a : Nat) (l : Line) : (s.chanWrite a l).cache = s.cache := by
  simp only [State.chanWrite, State.setChan]
@[simp] theorem State.chanWrite_cores (s : State) (a : Nat) (l : Line) : (s.chanWrite a l).cores = s.cores := by
  simp only [State.chanWrite, State.setChan]
@[simp] theorem State.chanWrite_ctxs (s : State) (a : Nat) (l : Line) : (s.chanWrite a l).ctxs = s.ctxs := by
  simp only [State.chanWrite, State.setChan]
@[simp] theorem State.chanWrite_parts (s : State) (a : Nat) (l : Line) : (s.chanWrite a l).parts = s.parts := by
  simp only [State.chanWrite, State.setChan]
@[simp] theorem State.chanWrite_links (s : State) (a : Nat) (l : Line) : (s.chanWrite a l).links = s.links := by
  simp only [State.chanWrite, State.setChan]
@[simp] theorem State.chanWrite_tim (s : State) (a : Nat) (l : Line) : (s.chanWrite a l).tim = s.tim := by
  simp only [State.chanWrite, State.setChan]
@[simp] theorem State.chanWrite_cal (s : State) (a : Nat) (l : Line) : (s.chanWrite a l).cal = s.cal := by
  simp only [State.chanWrite, State.setChan]
@[simp] theorem State.chanWrite_fab (s : State) (a : Nat) (l : Line) : (s.chanWrite a l).fab = s.fab := by
  simp only [State.chanWrite, State.setChan]
@[simp] theorem State.chanWrite_sol (s : State) (a : Nat) (l : Line) : (s.chanWrite a l).sol = s.sol := by
  simp only [State.chanWrite, State.setChan]
@[simp] theorem State.chanWrite_fns (s : State) (a : Nat) (l : Line) : (s.chanWrite a l).fns = s.fns := by
  simp only [State.chanWrite, State.setChan]
@[simp] theorem State.chanWrite_cmds (s : State) (a : Nat) (l : Line) : (s.chanWrite a l).cmds = s.cmds := by
  simp only [State.chanWrite, State.setChan]
@[simp] theorem State.chanWrite_log (s : State) (a : Nat) (l : Line) : (s.chanWrite a l).log = s.log := by
  simp only [State.chanWrite, State.setChan]
@[simp] theorem State.chanWrite_recov (s : State) (a : Nat) (l : Line) : (s.chanWrite a l).recov = s.recov := by
  simp only [State.chanWrite, State.setChan]
@[simp] theorem State.chanWrite_sup (s : State) (a : Nat) (l : Line) : (s.chanWrite a l).sup = s.sup := by
  simp only [State.chanWrite, State.setChan]
@[simp] theorem State.chanWrite_pwr (s : State) (a : Nat) (l : Line) : (s.chanWrite a l).pwr = s.pwr := by
  simp only [State.chanWrite, State.setChan]

theorem State.chanWrite_memLine_same {s : State} (h : s.memoryCanonical) (a : Nat) (l : Line) : (s.chanWrite a l).memLine a = l := by
  unfold State.memLine
  rw [State.chanWrite_bytes, memRdN_memWrN _ _ _ _ (lineBytes_length l) h, bytesLine_lineBytes]

theorem State.chanWrite_memLine_other {s : State} (h : s.memoryCanonical) {a b : Nat} (l : Line) (hb : b ≠ a) :
    (s.chanWrite a l).memLine b = s.memLine b := by
  unfold State.memLine
  rw [State.chanWrite_bytes, memRdN_memWrN_other _ _ _ _ _ (by rw [lineBytes_length]; omega) h]

theorem State.chanWrite_canonical {s : State} (h : s.memoryCanonical) (a : Nat) (l : Line) : (s.chanWrite a l).memoryCanonical := by
  unfold State.memoryCanonical
  rw [State.chanWrite_bytes]
  exact memWf_memWrN _ _ _ h

/-! Moving channels from one state to another (R250). -/

theorem moveChans_list (old new : BitVec 4) (s : State) (ls : List Nat) (_hne : old ≠ new) :
    (ls.foldl (fun s n => if (s.chan n).state = old then s.setChan n { s.chan n with state := new } else s) s).mem.bytes = s.mem.bytes ∧
      ∀ c, ((ls.foldl (fun s n => if (s.chan n).state = old then s.setChan n { s.chan n with state := new } else s) s).chan c).state =
        if c ∈ ls ∧ (s.chan c).state = old then new else (s.chan c).state := by
  induction ls generalizing s with
  | nil => exact ⟨rfl, fun c => by simp⟩
  | cons n ls ih =>
    simp only [List.foldl_cons]
    by_cases h : (s.chan n).state = old
    · simp only [h, ↓reduceIte]
      obtain ⟨h1, h2⟩ := ih (s.setChan n { s.chan n with state := new })
      refine ⟨h1, fun c => ?_⟩
      rw [h2 c]
      by_cases hc : n = c
      · subst hc; simp [h]
      · rw [State.chan_setChan_other _ _ hc]; simp [Ne.symm hc]
    · simp only [h, ↓reduceIte]
      obtain ⟨h1, h2⟩ := ih s
      refine ⟨h1, fun c => ?_⟩
      rw [h2 c]
      by_cases hc : c = n
      · subst hc; simp [h]
      · simp [hc]

theorem State.moveChans_bytes (s : State) {old new : BitVec 4} (hne : old ≠ new) : (s.moveChans old new).mem.bytes = s.mem.bytes := by
  unfold State.moveChans
  exact (moveChans_list old new s _ hne).1

theorem State.moveChans_state (s : State) {old new : BitVec 4} (hne : old ≠ new) {c : Nat} (hc : c < 256) :
    ((s.moveChans old new).chan c).state = if (s.chan c).state = old then new else (s.chan c).state := by
  unfold State.moveChans
  rw [(moveChans_list old new s _ hne).2 c]
  simp [hc]

end Sys2Proof.Machine
end

