-- ==== Sys2Proof/Laws/Power.lean ====
section
/-! SUPPORT. Power: what changes of throttle levels leave, what an estimate window and a step of the capping loop do to the cores, and
the level that a room allows. -/

namespace Sys2Proof.Machine

/-- t differs from s in its cores' throttle levels alone, in what these statements read. -/
structure State.LevelsOnly (s t : State) : Prop where
  tim : t.tim = s.tim
  mem : t.mem = s.mem
  sup : t.sup = s.sup
  sol : t.sol = s.sol
  parts : t.parts = s.parts
  core : ∀ n, (t.core n).energy = (s.core n).energy ∧ (t.core n).leak = (s.core n).leak ∧ (t.core n).counts = (s.core n).counts ∧
    (t.core n).sp = (s.core n).sp

theorem State.LevelsOnly.refl (s : State) : s.LevelsOnly s := ⟨rfl, rfl, rfl, rfl, rfl, fun _ => ⟨rfl, rfl, rfl, rfl⟩⟩

theorem State.LevelsOnly.trans {s t u : State} (h : s.LevelsOnly t) (k : t.LevelsOnly u) : s.LevelsOnly u :=
  ⟨k.tim.trans h.tim, k.mem.trans h.mem, k.sup.trans h.sup, k.sol.trans h.sol, k.parts.trans h.parts,
    fun n => ⟨(k.core n).1.trans (h.core n).1, (k.core n).2.1.trans (h.core n).2.1, (k.core n).2.2.1.trans (h.core n).2.2.1,
      (k.core n).2.2.2.trans (h.core n).2.2.2⟩⟩

theorem State.levelsOnly_fold {α : Type} (f : State → α → State) (hf : ∀ (s : State) (a : α), s.LevelsOnly (f s a)) (l : List α) (s : State) :
    s.LevelsOnly (l.foldl f s) := by
  induction l generalizing s with
  | nil => exact .refl s
  | cons a t ih => exact (hf s a).trans (ih (f s a))

theorem State.setLevel_levels (s : State) (n l : Nat) : s.LevelsOnly (s.setLevel n l) ∧ (s.setLevel n l).pwr = s.pwr := by
  unfold State.setLevel; dsimp only; split
  · exact ⟨.refl s, rfl⟩
  · refine ⟨⟨rfl, rfl, rfl, rfl, rfl, fun m => ?_⟩, rfl⟩
    by_cases h : n = m
    · subst h; rw [State.core_setCore]; exact ⟨rfl, rfl, rfl, rfl⟩
    · rw [State.core_setCore_other _ _ h]; exact ⟨rfl, rfl, rfl, rfl⟩

theorem State.setLevel_level (s : State) (n l : Nat) (h : l < 16) : ((s.setLevel n l).core n).level.toNat = l := by
  unfold State.setLevel; dsimp only; split
  · next h1 => simp at h1; rw [h1.1]; simp; omega
  · rw [State.core_setCore]; simp; omega

theorem State.setLevel_other (s : State) {n m : Nat} (l : Nat) (h : n ≠ m) : (s.setLevel n l).core m = s.core m := by
  unfold State.setLevel; dsimp only; split
  · rfl
  · rw [State.core_setCore_other _ _ h]

theorem State.pwr_fold {α : Type} (f : State → α → State) (hf : ∀ (s : State) (a : α), (f s a).pwr = s.pwr) (l : List α) (s : State) :
    (l.foldl f s).pwr = s.pwr := by
  induction l generalizing s with
  | nil => rfl
  | cons a t ih => exact (ih (f s a)).trans (hf s a)

theorem State.levelCore_levels (level : Nat) (low : Bool) (s : State) (n : Nat) :
    s.LevelsOnly (State.levelCore level low s n) ∧ (State.levelCore level low s n).pwr = s.pwr := by
  unfold State.levelCore; dsimp only; split
  · exact ⟨.refl s, rfl⟩
  · exact s.setLevel_levels n _

theorem State.applyLevels_levels (s : State) (full : Nat) : s.LevelsOnly (s.applyLevels full) ∧
    (s.applyLevels full).pwr = { s.pwr with level := (s.applyLevels full).pwr.level } := by
  unfold State.applyLevels; dsimp only
  generalize levelFor _ _ _ _ = v
  have h1 := fun u low => State.levelsOnly_fold (State.levelCore v low) (fun u n => (State.levelCore_levels v low u n).1) (List.range 576) u
  have h2 := fun u low => State.pwr_fold (State.levelCore v low) (fun u n => (State.levelCore_levels v low u n).2) (List.range 576) u
  refine ⟨⟨(h1 _ _).tim, (h1 _ _).mem, (h1 _ _).sup, (h1 _ _).sol, (h1 _ _).parts, (h1 _ _).core⟩, ?_⟩
  rw [h2]; rfl

theorem State.sealedLevels_levels (s : State) (p common : Nat) : s.LevelsOnly (s.sealedLevels p common) ∧
    (s.sealedLevels p common).pwr = s.pwr := by
  unfold State.sealedLevels; dsimp only
  exact ⟨State.levelsOnly_fold _ (fun u n => (u.setLevel_levels n _).1) _ s, State.pwr_fold _ (fun u n => (u.setLevel_levels n _).2) _ s⟩

theorem State.noteBreach_levels (s : State) (p : Nat) : s.LevelsOnly (s.noteBreach p) ∧
    (s.noteBreach p).pwr = { s.pwr with sealBreach := (s.noteBreach p).pwr.sealBreach, breachAt := (s.noteBreach p).pwr.breachAt } := by
  unfold State.noteBreach; split
  · exact ⟨⟨rfl, rfl, rfl, rfl, rfl, fun _ => ⟨rfl, rfl, rfl, rfl⟩⟩, rfl⟩
  · exact ⟨.refl s, rfl⟩

/-- The levels of a step change levels, and of the power unit's own state the level and SEAL_BREACH alone (R425, R435). -/
theorem State.levelStep_levels (s : State) (p loose : Nat) : s.LevelsOnly (s.levelStep p loose) ∧
    ∃ l b a, (s.levelStep p loose).pwr = { s.pwr with level := l, sealBreach := b, breachAt := a } := by
  unfold State.levelStep; dsimp only
  generalize (max s.pwr.last.full _) = full
  obtain ⟨a1, a2⟩ := s.applyLevels_levels full
  obtain ⟨b1, b2⟩ := (s.applyLevels full).noteBreach_levels p
  refine ⟨a1.trans (b1.trans (State.levelsOnly_fold _ (fun u (q : Nat × Part) => (u.sealedLevels_levels q.1 _).1) _ _)),
    (s.applyLevels full).pwr.level, ((s.applyLevels full).noteBreach p).pwr.sealBreach,
    ((s.applyLevels full).noteBreach p).pwr.breachAt, ?_⟩
  rw [State.pwr_fold _ (fun u (q : Nat × Part) => (u.sealedLevels_levels q.1 _).2)]
  refine b2.trans ?_
  dsimp only; rw [a2]

/-- Levels that are raised reach k. -/
theorem State.raiseLevels (k : Nat) (hk : k < 16) (l : List Nat) (s : State) (hl : l.Nodup) :
    (∀ n, n ∉ l → (l.foldl (State.raiseLevel k) s).core n = s.core n) ∧ ∀ n ∈ l, k ≤ ((l.foldl (State.raiseLevel k) s).core n).level.toNat := by
  induction l generalizing s with
  | nil => exact ⟨fun _ _ => rfl, by simp⟩
  | cons a t ih =>
    obtain ⟨h1, h2⟩ := ih (s.raiseLevel k a) (List.nodup_cons.1 hl).2
    rw [List.foldl_cons]
    refine ⟨fun n hn => ?_, fun n hn => ?_⟩
    · rw [List.mem_cons, not_or] at hn
      exact (h1 n hn.2).trans (State.setLevel_other _ _ (Ne.symm hn.1))
    · rcases List.mem_cons.1 hn with h | h
      · subst h
        rw [h1 n (List.nodup_cons.1 hl).1]; unfold State.raiseLevel; rw [State.setLevel_level]
        · omega
        · have := (s.core n).level.isLt; omega
      · exact h2 n h

theorem State.raiseLevel_levels (k : Nat) (s : State) (n : Nat) : s.LevelsOnly (s.raiseLevel k n) ∧ (s.raiseLevel k n).pwr = s.pwr :=
  s.setLevel_levels n _

/-- Each core of a list estimates once (R418). -/
theorem State.estimateCores (temps : List (BitVec 12)) (mv : List Nat) (l : List Nat) (s : State) (hl : l.Nodup) :
    let t := l.foldl (State.estimateCore temps mv) s
    (∀ n, n ∉ l → t.core n = s.core n) ∧
    (∀ n ∈ l, t.core n = (s.core n).estimate (temps.getD (n / 12) 0).toNat (mv.getD (n / 144) 0)) ∧ t.mem = s.mem ∧ t.tim = s.tim := by
  induction l generalizing s with
  | nil => exact ⟨fun _ _ => rfl, by simp, rfl, rfl⟩
  | cons a t ih =>
    obtain ⟨h1, h2, h3, h4⟩ := ih (State.estimateCore temps mv s a) (List.nodup_cons.1 hl).2
    have ha : ∀ n, a ≠ n → (State.estimateCore temps mv s a).core n = s.core n := fun n h => State.core_setCore_other _ _ h
    have hs : (State.estimateCore temps mv s a).core a = (s.core a).estimate (temps.getD (a / 12) 0).toNat (mv.getD (a / 144) 0) :=
      State.core_setCore _ _ _
    refine ⟨fun n hn => ?_, fun n hn => ?_, h3, h4⟩
    · rw [List.mem_cons, not_or] at hn
      exact (h1 n hn.2).trans (ha n (Ne.symm hn.1))
    · rcases List.mem_cons.1 hn with h | h
      · subst h; exact (h1 n (List.nodup_cons.1 hl).1).trans hs
      · refine (h2 n h).trans ?_
        rw [ha n fun e => (List.nodup_cons.1 hl).1 (e ▸ h)]

theorem State.throttleDie_levels (s : State) (d : Nat) : s.LevelsOnly (s.throttleDie d) ∧
    (s.throttleDie d).pwr.windowAt = s.pwr.windowAt := by
  unfold State.throttleDie; dsimp only
  generalize (if s.pwr.stretched.contains d then zGet s.pwr.stretchRuns d + 1 else 0) = runs
  split
  · exact ⟨⟨rfl, rfl, rfl, rfl, rfl, fun _ => ⟨rfl, rfl, rfl, rfl⟩⟩, rfl⟩
  · have h1 := fun u => State.levelsOnly_fold (State.raiseLevel 8) (fun u n => (u.raiseLevel_levels 8 n).1)
      ((s.modPwr fun p => { p with stretchRuns := zSet p.stretchRuns d runs }).openCores d) u
    have h2 := fun u => State.pwr_fold (State.raiseLevel 8) (fun u n => (u.raiseLevel_levels 8 n).2)
      ((s.modPwr fun p => { p with stretchRuns := zSet p.stretchRuns d runs }).openCores d) u
    exact ⟨⟨(h1 _).tim, (h1 _).mem, (h1 _).sup, (h1 _).sol, (h1 _).parts, (h1 _).core⟩, by rw [h2]; rfl⟩

theorem State.clearEnergies_spec (l : List Nat) (s : State) (hl : l.Nodup) : let t := s.clearEnergies l
    t.pwr = s.pwr ∧ t.mem = s.mem ∧ (∀ n, (t.core n).sp = (s.core n).sp) ∧ (∀ n, n ∉ l → t.core n = s.core n) ∧
    ∀ n ∈ l, (t.core n).energy = 0 ∧ (t.core n).leak = 0 := by
  induction l generalizing s with
  | nil => exact ⟨rfl, rfl, fun _ => rfl, fun _ _ => rfl, by simp⟩
  | cons a t ih =>
    have hs : (s.clearEnergy a).pwr = s.pwr ∧ (s.clearEnergy a).mem = s.mem ∧ (∀ n, ((s.clearEnergy a).core n).sp = (s.core n).sp) ∧
        (∀ n, n ≠ a → (s.clearEnergy a).core n = s.core n) ∧ ((s.clearEnergy a).core a).energy = 0 ∧ ((s.clearEnergy a).core a).leak = 0 := by
      unfold State.clearEnergy; dsimp only
      split
      · next h => simp at h; exact ⟨rfl, rfl, fun _ => rfl, fun _ _ => rfl, h.1, h.2⟩
      · refine ⟨rfl, rfl, fun n => ?_, fun n hn => State.core_setCore_other _ _ (Ne.symm hn), ?_, ?_⟩
        · by_cases h : a = n
          · subst h; rw [State.core_setCore]
          · rw [State.core_setCore_other _ _ h]
        · rw [State.core_setCore]
        · rw [State.core_setCore]
    obtain ⟨a1, a2, a3, a4, a5, a6⟩ := hs
    obtain ⟨h1, h2, h3, h4, h5⟩ := ih (s.clearEnergy a) (List.nodup_cons.1 hl).2
    refine ⟨h1.trans a1, h2.trans a2, fun n => (h3 n).trans (a3 n), fun n hn => ?_, fun n hn => ?_⟩
    · rw [List.mem_cons, not_or] at hn
      exact (h4 n hn.2).trans (a4 n hn.1)
    · rcases List.mem_cons.1 hn with h | h
      · subst h
        show (((s.clearEnergy n).clearEnergies t).core n).energy = 0 ∧ (((s.clearEnergy n).clearEnergies t).core n).leak = 0
        rw [h4 n (List.nodup_cons.1 hl).1]; exact ⟨a5, a6⟩
      · exact h5 n h

/-- What the loop predicts falls with the level (R424). -/
theorem predicted_anti (full leak : Nat) {a b : Nat} (h : a ≤ b) : predicted full leak b ≤ predicted full leak a := by
  unfold predicted
  have : (full - leak) * (16 - b) ≤ (full - leak) * (16 - a) := Nat.mul_le_mul_left _ (by omega)
  omega

/-- After a step of the loop the energies are cleared and the partitions' levels noted; nothing else changes. -/
theorem State.closeStep (l : List Nat) (s : State) (hl : l.Nodup) : let t := (s.clearEnergies l).notePartLevels l
    (∃ v, t.pwr = { s.pwr with partLevel := v }) ∧ t.mem = s.mem ∧
    (∀ n, (t.core n).sp = (s.core n).sp) ∧ ∀ n ∈ l, (t.core n).energy = 0 ∧ (t.core n).leak = 0 := by
  obtain ⟨h1, h2, h3, h4, h5⟩ := State.clearEnergies_spec l s hl
  refine ⟨⟨(s.clearEnergies l).partLevels l, ?_⟩, h2, h3, h5⟩
  show ({ (s.clearEnergies l).pwr with partLevel := (s.clearEnergies l).partLevels l } : Power) = _
  rw [h1]

@[simp] theorem State.governHot_core (s : State) (n : Nat) : s.governHot.core n = s.core n := rfl

@[simp] theorem State.governHot_pwr (s : State) : s.governHot.pwr = s.pwr := rfl

/-- The governor's request reaches every schedule in operation. -/
theorem State.governHot_req (s : State) (g : Nat) (h : (s.sched g).state = 3) : (s.governHot.sched g).govReq = 24 := by
  unfold State.governHot State.sched at *
  dsimp only
  generalize s.sol.sched = l at h ⊢
  induction l with
  | nil => simp [tabGet, tabGet?] at h
  | cons p t ih =>
    simp only [tabGet, tabGet?, List.map_cons] at h ih ⊢
    by_cases hp : p.1 = g
    · simp only [hp, if_true, Option.getD_some] at h ⊢; rw [if_pos h]
    · simp only [hp, if_false] at h ⊢; exact ih h

end Sys2Proof.Machine
end

