-- ==== Sys2Proof/Laws/Queues.lean ====
section
/-! SUPPORT. What the shared operations of the five queues do: the head of a queue, the issue of an instruction, the start of
an engine instruction, the grant of a semaphore, a context fault. -/

namespace Sys2Proof.Machine

/-- The opcodes 0 to 6 are defined in every queue (R42). -/
theorem definedOp_common (e : Eng) (k : Nat) (h : k ≤ 6) : definedOp e k = true := by simp [definedOp, h]

/-- The opcode 0x10 is ISSUE in the queues of the copy engines. -/
theorem definedOp_issue (k : Nat) : definedOp (cpeEng k) 0x10 = true := by unfold cpeEng; split <;> rfl

/-- What stands at the head of a queue is in its buffer, and the queue has neither ended nor waits. -/
theorem Queue.of_head {q : Queue} {w : QWord} (h : q.head = some w) :
    (q.hold = .none ∨ q.hold = .full) ∧ tabGet? q.buf q.pos = some w ∧ q.ended = false := by
  simp only [Queue.head] at h
  split at h
  · cases h
  · split at h
    · cases h
    · refine ⟨?_, h, ?_⟩
      · cases hq : q.hold <;> simp_all
      · cases hq : q.ended <;> simp_all

theorem State.heads_not_fence {s : State} {n : Nat} {e : Eng} {w : QWord} (h : s.heads n e w) : (s.queue n e).hold ≠ .fence := by
  rcases (Queue.of_head h.2).1 with h | h <;> simp [h]

theorem State.heads_not_waitmem {s : State} {n : Nat} {e : Eng} {w : QWord} (h : s.heads n e w) : (s.queue n e).hold ≠ .waitmem := by
  rcases (Queue.of_head h.2).1 with h | h <;> simp [h]

/-- The instruction at the head of its queue runs when its opcode is the row's and is defined there. -/
theorem State.issueOp_heads {s : State} {n : Nat} {e : Eng} {op : Nat} (f : QWord → State) {w : QWord} (h : s.heads n e w)
    (ho : opcode w = op) (hd : definedOp e op = true) : s.issueOp n e op f = f w := by
  simp [State.issueOp, h.1, h.2, ho, hd]

/-- With another opcode at the head, a row changes nothing, unless that opcode is defined nowhere in the queue. -/
theorem State.issueOp_other {s : State} {n : Nat} {e : Eng} {op : Nat} (f : QWord → State) {w : QWord} (h : s.heads n e w)
    (ho : opcode w ≠ op) (hd : definedOp e (opcode w) = true) : s.issueOp n e op f = s := by
  simp [State.issueOp, h.1, h.2, ho, hd]

/-- An engine instruction that passes its checks and waits for nothing in progress is launched. -/
theorem State.startEngine_launch {s : State} {n : Nat} {e : Eng} {op : Nat} {start : Core → QWord → Except CtxFault Started} {w : QWord}
    {st : Started} (h : s.heads n e w) (ho : opcode w = op) (hd : definedOp e op = true) (hs : start ((s.core n).view e) w = .ok st)
    (hf : st.fault = none) (hw : ∀ f ∈ (s.queue n e).flights, st.waitsFor e w f = false) :
    s.startEngine n e op start = s.setCore n ((s.core n).launch e w st) := by
  have h2 : ((s.core n).queue e).flights.any (st.waitsFor e w) = false := by simpa [State.queue] using hw
  simp only [State.startEngine]
  rw [State.issueOp_heads _ h ho hd]
  simp [hs, h2, hf]

/-- One that fails a check is its context fault. -/
theorem State.startEngine_fault {s : State} {n : Nat} {e : Eng} {op : Nat} {start : Core → QWord → Except CtxFault Started} {w : QWord}
    {f : CtxFault} (h : s.heads n e w) (ho : opcode w = op) (hd : definedOp e op = true)
    (hs : start ((s.core n).view e) w = .error f) : s.startEngine n e op start = s.faultCtx n e f := by
  simp only [State.startEngine]
  rw [State.issueOp_heads _ h ho hd]; simp [hs]

/-- One that must wait leaves its queue held. -/
theorem State.startEngine_waits {s : State} {n : Nat} {e : Eng} {op : Nat} {start : Core → QWord → Except CtxFault Started} {w : QWord}
    {st : Started} (h : s.heads n e w) (ho : opcode w = op) (hd : definedOp e op = true) (hs : start ((s.core n).view e) w = .ok st)
    (hw : ∃ f ∈ (s.queue n e).flights, st.waitsFor e w f = true) :
    s.startEngine n e op start = s.modQueue n e fun q => { q with hold := .full } := by
  have h2 : ((s.core n).queue e).flights.any (st.waitsFor e w) = true := by simpa [State.queue] using hw
  simp only [State.startEngine]
  rw [State.issueOp_heads _ h ho hd]
  simp [hs, h2]

/-- A core that issues has not stopped. -/
theorem State.issues_running {s : State} {n : Nat} (h : s.issues n = true) : (s.core n).stopped = false := by
  simp [State.issues, State.live] at h; exact h.1.1.2

/-- A position that ends no loop body stays. -/
theorem settleLoops_stays (k p : Nat) (ls : List Loop) (h : ∀ l ∈ ls.head?, p ≠ l.start + l.body) : settleLoops (k + 1) p ls = (p, ls) := by
  cases ls with
  | nil => rfl
  | cons l ls => simp [settleLoops, h l (by simp)]

/-! Semaphores. -/

theorem Eng.all_filter_one (e : Eng) : Eng.all.filter (fun d => [e].contains d) = [e] := by cases e <;> rfl

theorem Core.queue_setQueue_if (c : Core) (e d : Eng) (q : Queue) : (c.setQueue e q).queue d = if e = d then q else c.queue d := by
  by_cases h : e = d
  · subst h; simp
  · simp [Core.queue_setQueue_other c q h, h]

theorem heldWait_none (c : Core) (d : Eng) (h : (c.queue d).hold ≠ .wait) : heldWait c d = none := by simp [heldWait, h]

theorem foldl_fixed {α β : Type} (f : α → β → α) (c : α) (h : ∀ e, f c e = c) (l : List β) : l.foldl f c = c := by
  induction l with
  | nil => rfl
  | cons a l ih => simp only [List.foldl_cons, h a]; exact ih

/-- With no queue held in a WAIT, a semaphore's new value releases nothing (R47). -/
theorem Core.grant_none (c : Core) (k : Nat) (h : ∀ d, heldWait c d = none) : c.grant k = c := by
  unfold Core.grant
  simp only
  rw [foldl_fixed _ c (fun e => by simp [h e])]
  have h2 : ∀ l : List Eng, l.filter (fun e => match heldWait c e with
    | some (k', false, x) => k' == k && decide (x ≤ c.sem k)
    | _ => false) = [] := by intro l; simp [h]
  have h3 := h2 Eng.all
  simp only [h] at h3 ⊢
  rw [h3]; rfl

/-- Dropping cached descriptors changes no queue. -/
theorem Core.queue_dropCached (c : Core) (e d : Eng) : (c.dropCached e).queue d = c.queue d := by
  cases e <;> rfl

/-- A release lets its queue go on and no other. -/
theorem Core.queue_release (c : Core) (e d : Eng) : (c.release e).queue d = if e = d then (c.queue e).advance else c.queue d := by
  simp only [Core.release, Core.queue_dropCached, Core.queue_setQueue_if]

theorem Queue.advance_hold (q : Queue) : q.advance.hold = .none := by simp [Queue.advance, Queue.goto]

theorem heldWait_release (c : Core) (e d : Eng) : heldWait (c.release e) d = if e = d then none else heldWait c d := by
  by_cases h : e = d
  · subst h; simp [heldWait, Core.queue_release, Queue.advance_hold]
  · simp [heldWait, Core.queue_release, h]

theorem mem_grantOrder (last : Nat) (e : Eng) : e ∈ grantOrder last := by
  simp only [grantOrder, List.mem_append, List.mem_filter, decide_eq_true_eq]
  have : e ∈ Eng.all := by cases e <;> decide
  by_cases h : last < e.num
  · exact .inl ⟨this, h⟩
  · exact .inr ⟨this, by omega⟩

/-- With one queue held in a WAIT on a semaphore, its new value releases that queue when it is large enough, and takes from
it where the WAIT says so (R47). -/
theorem Core.grant_one (c : Core) (e : Eng) (k v : Nat) (take : Bool) (he : heldWait c e = some (k, take, v))
    (ho : ∀ d, d ≠ e → heldWait c d = none) :
    c.grant k = if v ≤ c.sem k then
        (if take then { c with sems := zSet c.sems k (c.sem k - v), granted := tabSet c.granted k e.num } else c).release e
      else c := by
  let step : Core → Eng → Core := fun c e => match heldWait c e with
    | some (k', true, x) =>
      if k' = k && decide (x ≤ c.sem k) then
        ({ c with sems := zSet c.sems k (c.sem k - x), granted := tabSet c.granted k e.num }).release e
      else c
    | _ => c
  let R := ({ c with sems := zSet c.sems k (c.sem k - v), granted := tabSet c.granted k e.num } : Core).release e
  have hR : ∀ d, heldWait R d = none := by
    intro d; simp only [R, heldWait_release]; split
    · rfl
    · next h => exact ho d (Ne.symm h)
  have hRs : ∀ l : List Eng, l.foldl step R = R := by
    intro l; induction l with
    | nil => rfl
    | cons a l ih => simp only [List.foldl_cons, step, hR a]; exact ih
  have hfold : ∀ l : List Eng, l.foldl step c = if e ∈ l ∧ take = true ∧ v ≤ c.sem k then R else c := by
    intro l; induction l with
    | nil => simp
    | cons a l ih =>
      simp only [List.foldl_cons]
      by_cases ha : a = e
      · subst ha
        cases take with
        | false => simp only [step, he]; rw [ih]; simp
        | true =>
          by_cases hv : v ≤ c.sem k
          · have : step c a = R := by simp [step, he, hv, R]
            rw [this, hRs]; simp [hv]
          · have : step c a = c := by simp [step, he, hv]
            rw [this, ih]; simp [hv]
      · have : step c a = c := by simp [step, ho a ha]
        rw [this, ih]; simp [Ne.symm ha]
  have hplain : Eng.all.filter (fun e => match heldWait c e with
      | some (k', false, x) => k' == k && decide (x ≤ c.sem k)
      | _ => false) = if take = false ∧ v ≤ c.sem k then [e] else [] := by
    have : (fun d => match heldWait c d with
      | some (k', false, x) => k' == k && decide (x ≤ c.sem k)
      | _ => false) = fun d => decide (d = e) && (!take && decide (v ≤ c.sem k)) := by
      funext d
      by_cases hd : d = e
      · subst hd; cases take <;> simp [he]
      · simp [ho d hd, hd]
    rw [this]
    by_cases hc : take = false ∧ v ≤ c.sem k
    · simp only [hc.1, hc.2, Bool.not_false, decide_true, Bool.and_self, Bool.and_true, and_self, ↓reduceIte]
      cases e <;> rfl
    · rw [if_neg hc]
      have : (!take && decide (v ≤ c.sem k)) = false := by
        cases take <;> simp_all
      simp [this]
  have hg : c.grant k = (Eng.all.filter (fun e => match heldWait c e with
      | some (k', false, x) => k' == k && decide (x ≤ c.sem k)
      | _ => false)).foldl Core.release ((grantOrder (tabGet 4 c.granted k)).foldl step c) := rfl
  have hf := hfold (grantOrder (tabGet 4 c.granted k))
  simp only [mem_grantOrder, true_and] at hf
  rw [hg, hplain, hf]
  cases take with
  | false => by_cases hv : v ≤ c.sem k <;> simp [hv]
  | true => by_cases hv : v ≤ c.sem k <;> simp [hv, R]

/-! Several entries of a table at once. -/

theorem tabGet_foldl_tabSet {α : Type} (d : α) (ts : List Nat) (g : Nat → α) (T : Tab α) (t : Nat) :
    tabGet d ((ts.map fun t => (t, g t)).foldl (fun T p => tabSet T p.1 p.2) T) t = if t ∈ ts then g t else tabGet d T t := by
  induction ts generalizing T with
  | nil => simp
  | cons a r ih =>
    simp only [List.map_cons, List.foldl_cons, ih, List.mem_cons]
    by_cases h : t ∈ r
    · simp [h]
    · by_cases h2 : t = a
      · simp [h2]
      · simp [h, h2, tabGet_tabSet_other _ _ _ (Ne.symm h2)]

end Sys2Proof.Machine
end

