-- ==== Sys2Proof/Laws/Time.lean ====
section
/-! SUPPORT. Reference time and the calendar: what the one step of reference time leaves, and what the firing of a calendar entry is. -/

namespace Sys2Proof.Machine

@[simp] theorem State.step1_cmds (s : State) (d : Nat) : (s.step1 d).cmds = s.cmds := rfl
@[simp] theorem State.step1_mem (s : State) (d : Nat) : (s.step1 d).mem = s.mem := rfl
@[simp] theorem State.step1_cores (s : State) (d : Nat) : (s.step1 d).cores = s.cores := rfl
@[simp] theorem State.step1_ctxs (s : State) (d : Nat) : (s.step1 d).ctxs = s.ctxs := rfl
@[simp] theorem State.step1_todValid (s : State) (d : Nat) : (s.step1 d).tim.todValid = true := rfl
@[simp] theorem State.step1_now (s : State) (d : Nat) : (s.step1 d).tim.now = s.tim.now + BitVec.ofNat 64 d := rfl

/-- What the firing of an entry does to the calendar (R294 to R297). -/
def State.firedCal (s : State) (i : Nat) (e : CalEntry) : Calendar :=
  let fired := if s.cal.window = s.now / 100 then s.cal.fired else 0
  let late := e.past || decide (64 ≤ fired)
  { s.cal with
    entries := if e.period = 0 then tabDel s.cal.entries i
      else tabSet s.cal.entries i { e with count := e.count + 1, past := false, n := e.nextN s.tim late }
    late := if late && s.cal.late != 0xFFFF then s.cal.late + 1 else s.cal.late
    window := s.now / 100, fired := fired + 1 }

theorem State.fireEntry_turn (s : State) {i cls : Nat} {e : CalEntry} (act : State → CalEntry → Bool → State)
    (h : s.turnOf i cls = some e) :
    s.fireEntry i cls act = act { s with cal := s.firedCal i e } e
      (e.past || decide (64 ≤ if s.cal.window = s.now / 100 then s.cal.fired else 0)) := by
  unfold State.fireEntry; rw [h]; rfl

theorem State.fireEntry_notTurn (s : State) {i cls : Nat} (act : State → CalEntry → Bool → State) (h : s.turnOf i cls = none) :
    s.fireEntry i cls act = s := by
  unfold State.fireEntry; rw [h]

/-- An entry that is not late fires: it is freed or waits for its next due time, and no other entry changes. -/
theorem State.firedCal_entries (s : State) (i : Nat) (e : CalEntry) (h1 : e.past = false)
    (h2 : s.cal.window = s.now / 100 → s.cal.fired < 64) :
    (s.firedCal i e).late = s.cal.late ∧ (e.period = 0 → tabGet? (s.firedCal i e).entries i = none) ∧
    (e.period ≠ 0 → tabGet? (s.firedCal i e).entries i = some { e with count := e.count + 1, past := false, n := e.n + 1 }) ∧
    ∀ j, j ≠ i → tabGet? (s.firedCal i e).entries j = tabGet? s.cal.entries j := by
  have hl : (e.past || decide (64 ≤ if s.cal.window = s.now / 100 then s.cal.fired else 0)) = false := by
    rw [h1]; split <;> simp_all
  unfold State.firedCal; dsimp only; rw [hl]
  refine ⟨rfl, fun h => by rw [if_pos h, tabGet?_tabDel, if_pos rfl], fun h => by rw [if_neg h, tabGet?_tabSet_same]; rfl, fun j hj => ?_⟩
  by_cases h : e.period = 0
  · rw [if_pos h, tabGet?_tabDel, if_neg (Ne.symm hj)]
  · rw [if_neg h, tabGet?_tabSet_other _ _ (Ne.symm hj)]

end Sys2Proof.Machine
end

