-- ==== Sys2Proof/Laws/Solstice.lean ====
section
/-! SUPPORT. The Solstice path: queues of points, samples, collisions, and groups of schedules that hold nothing. -/

namespace Sys2Proof.Machine

theorem State.relayEpochs_same (s : State) (g : Nat) (h : (s.sched g).state ≠ 5) : s.relayEpochs g = s := by
  unfold State.relayEpochs
  dsimp only
  rw [if_pos]
  rw [show decide ((s.sched g).state ≠ 5) = true from decide_eq_true h]; rfl

/-- An empty schedule has no group to send. -/
theorem State.sendGroup_empty (s : State) (g p : Nat) (h : s.sched g = {}) : s.sendGroup g p = s := by
  have h5 : (s.sched g).state ≠ 5 := by rw [h]; decide
  unfold State.sendGroup
  rw [s.relayEpochs_same g h5]
  simp only [h]
  have : ({} : Schedule).slotNow s.now = none := by simp [Schedule.slotNow]
  rw [this]

@[simp] theorem Schedule.setQueue_get (x : Schedule) (k : Nat) (q : List SolUnit) : tabGet [] (x.setQueue k q).queues k = q := by
  unfold Schedule.setQueue; dsimp only; split
  · rename_i h; rw [List.isEmpty_iff.mp h]; simp [tabGet, tabGet?_tabDel]
  · simp

theorem Schedule.addLate_keeps (x : Schedule) (n : Nat) : (x.addLate n).queues = x.queues ∧ (x.addLate n).sentAt = x.sentAt ∧
    (x.addLate n).lateCount = x.lateCount + BitVec.ofNat 64 n := by
  unfold Schedule.addLate; split
  · rename_i h; subst h; exact ⟨rfl, rfl, by simp⟩
  · exact ⟨rfl, rfl, rfl⟩

@[simp] theorem Schedule.addLate_zero (x : Schedule) : x.addLate 0 = x := rfl

theorem Schedule.combine_keeps (x : Schedule) (d : Nat) : (x.combine d).epoch = x.epoch ∧ (x.combine d).pace = x.pace ∧
    (x.combine d).epochAt = x.epochAt ∧ (x.combine d).state = x.state ∧ (x.combine d).t0 = x.t0 := by
  unfold Schedule.combine; dsimp only; split
  · exact ⟨rfl, rfl, rfl, rfl, rfl⟩
  · split <;> exact ⟨rfl, rfl, rfl, rfl, rfl⟩

/-- A sample changes its schedule alone, and neither its epoch, nor its pace, nor its state (R351). -/
theorem State.sample_keeps (s : State) (g : Nat) (b : Bool) : ∃ y : Schedule, s.sample g b = s.setSched g y ∧
    y.epoch = (s.sched g).epoch ∧ y.pace = (s.sched g).pace ∧ y.epochAt = (s.sched g).epochAt ∧ y.state = (s.sched g).state ∧
    y.t0 = (s.sched g).t0 := by
  unfold State.sample; dsimp only
  exact ⟨_, rfl, Schedule.combine_keeps _ _⟩

/-- The first collision of a schedule stands in SOL_FAULT_g, and is a fault of class 2 (R348). -/
theorem State.collide_first (s : State) (g cause point stream slot : Nat) (h1 : (s.sched g).state ≠ 5) (h2 : (s.sched g).fault = 0) :
    ∃ r, s.collide g cause point stream slot = (s.setSched g { s.sched g with
      fault := BitVec.ofNat 64 (pack [(3, cause), (12, point), (16, stream), (12, slot), (21, 0)]) }).arise 2 r := by
  unfold State.collide
  dsimp only
  rw [if_neg h1, if_pos h2]
  split <;> exact ⟨_, rfl⟩

end Sys2Proof.Machine
end

