-- ==== Sys2Proof/Laws/Threads.lean ====
section
/-! SUPPORT. What the shared operations of thread groups do: the issue of a thread instruction, the registers of a lane, the
paths of a group, the lanes of a memory instruction. -/

namespace Sys2Proof.Machine

/-- The instruction that a group is ready to issue runs when its opcode is the row's (R139, R142). -/
theorem State.threadOp_ready {s s' : State} {n k : Nat} {g : Group} {w : DWord} {f : TForm} (h : s.threadReady s' n k g w f) {op : Nat}
    (ho : tOp w = op) (F : Group → DWord → State → State) : s.threadOp n k op F = F g w s' := by
  obtain ⟨h1, h2, h3, h4, h5, h6, h7⟩ := h
  simp [State.threadOp, h1, h2, h3, h4, h5, h6, h7, ho]

/-- An instruction with one result writes it to D of the active lanes (R140). -/
theorem State.threadAlu_ready {s s' : State} {n k : Nat} {g : Group} {w : DWord} {f : TForm} (h : s.threadReady s' n k g w f) {op : Nat}
    (ho : tOp w = op) (F : DWord → Group → Nat → Nat) :
    s.threadAlu n k op F = s'.threadDone n k (g.wrote (tD w) (F w g)) := by
  simp [State.threadAlu, State.threadOp_ready h ho, Group.wrote]

/-- The lanes that are left to check when none has been performed. -/
theorem todo_all (ls : List Nat) : (ls.filter fun l => !(([] : List (Nat × Option Nat)).any fun d => d.1 == l)) = ls := by simp

/-- A memory instruction all of whose lanes pass their checks, are performed and have answered (R158). -/
theorem State.threadMem_done {s s1 s2 s3 : State} {n k : Nat} {g x : Group} {w : DWord} {f : TForm} (h : s.threadReady s1 n k g w f)
    {op : Nat} (ho : tOp w = op) (hd : g.did = []) {need : DWord → Right} {ready : DWord → State → Bool}
    {lane : Group → DWord → Nat → Option Target → State → LaneOut} {fin : DWord → Group → Group} (hr : ready w s1 = true)
    {ts : List (Nat × Option Target)}
    (h1 : State.checkLanes n (need w) g w g.active {} (s1.freshen n (tAcquire w)) = ({ targets := ts }, s2))
    (h2 : State.runLanes n k g.run.pc (lane g w) ts s2 = (true, s3)) (h3 : tabGet? (s3.core n).tge.groups k = some x)
    (h4 : ((tAcquire w || op == 0x3C) && x.awaits) = false) :
    s.threadMem n k op need ready lane fin = (s3.freshen n (tAcquire w)).threadDone n k ({ fin w x with did := [] } : Group).step := by
  unfold State.threadMem
  rw [State.threadOp_ready h ho, hd, hr, todo_all]
  dsimp only
  rw [if_neg (by decide), h1]
  dsimp only
  rw [h2]
  dsimp only
  rw [h3]
  dsimp only
  rw [h4]
  rfl

/-- A memory instruction one of whose lanes fails its check performs none (R158). -/
theorem State.threadMem_fault {s s1 s2 : State} {n k : Nat} {g : Group} {w : DWord} {f : TForm} (h : s.threadReady s1 n k g w f)
    {op : Nat} (ho : tOp w = op) (hd : g.did = []) {need : DWord → Right} {ready : DWord → State → Bool}
    {lane : Group → DWord → Nat → Option Target → State → LaneOut} {fin : DWord → Group → Group} (hr : ready w s1 = true)
    {ts : List (Nat × Option Target)} {l : Nat} {x : CtxFault}
    (h1 : State.checkLanes n (need w) g w g.active {} (s1.freshen n (tAcquire w)) = ({ targets := ts, faults := [(l, x)] }, s2)) :
    s.threadMem n k op need ready lane fin = s2.threadFault n k g.run.pc (BitVec.ofNat 32 (2 ^ l)) x := by
  unfold State.threadMem
  rw [State.threadOp_ready h ho, hd, hr, todo_all]
  dsimp only
  rw [if_neg (by decide), h1]
  simp

/-! The result of a lane by opcode (R140), each true by unfolding. -/

theorem tLane_add (w : DWord) (g : Group) (l : Nat) :
    tLane 0x10 w g l = (g.reg l (tA w) + g.reg l (tB w)) % 2 ^ 32 := rfl
theorem tLane_sub (w : DWord) (g : Group) (l : Nat) :
    tLane 0x11 w g l = (2 ^ 32 - g.reg l (tB w) + g.reg l (tA w)) % 2 ^ 32 := rfl
theorem tLane_mul (w : DWord) (g : Group) (l : Nat) :
    tLane 0x12 w g l = g.reg l (tA w) * g.reg l (tB w) % 2 ^ 32 := rfl
theorem tLane_mulhi (w : DWord) (g : Group) (l : Nat) :
    tLane 0x13 w g l = g.reg l (tA w) * g.reg l (tB w) / 2 ^ 32 := rfl
theorem tLane_and (w : DWord) (g : Group) (l : Nat) :
    tLane 0x14 w g l = g.reg l (tA w) &&& g.reg l (tB w) := rfl
theorem tLane_or (w : DWord) (g : Group) (l : Nat) :
    tLane 0x15 w g l = g.reg l (tA w) ||| g.reg l (tB w) := rfl
theorem tLane_xor (w : DWord) (g : Group) (l : Nat) :
    tLane 0x16 w g l = g.reg l (tA w) ^^^ g.reg l (tB w) := rfl
theorem tLane_shl (w : DWord) (g : Group) (l : Nat) :
    tLane 0x17 w g l = g.reg l (tA w) * 2 ^ (g.reg l (tB w) % 32) % 2 ^ 32 := congrArg (· % 2 ^ 32) (Nat.shiftLeft_eq _ _)
theorem tLane_shr (w : DWord) (g : Group) (l : Nat) :
    tLane 0x18 w g l = g.reg l (tA w) / 2 ^ (g.reg l (tB w) % 32) := Nat.shiftRight_eq_div_pow _ _
theorem tLane_sra (w : DWord) (g : Group) (l : Nat) :
    tLane 0x19 w g l = (signed 32 (g.reg l (tA w)) / 2 ^ (g.reg l (tB w) % 32) % 2 ^ 32).toNat := by
  have h := Int.shiftRight_eq_div_pow (signed 32 (g.reg l (tA w))) (g.reg l (tB w) % 32)
  show ((signed 32 (g.reg l (tA w)) >>> (g.reg l (tB w) % 32)) % ((2 ^ 32 : Nat) : Int)).toNat = _
  rw [h]; simp
theorem tLane_slt (w : DWord) (g : Group) (l : Nat) :
    tLane 0x1A w g l = (if signed 32 (g.reg l (tA w)) < signed 32 (g.reg l (tB w)) then 1 else 0) := by
  show b2n (decide (signed 32 (g.reg l (tA w)) < signed 32 (g.reg l (tB w)))) = _
  simp [b2n]
theorem tLane_sltu (w : DWord) (g : Group) (l : Nat) :
    tLane 0x1B w g l = (if g.reg l (tA w) < g.reg l (tB w) then 1 else 0) := by
  show b2n (decide (g.reg l (tA w) < g.reg l (tB w))) = _
  simp [b2n]
theorem tLane_fadd (w : DWord) (g : Group) (l : Nat) :
    tLane 0x20 w g l = toFp32 ((ofFp32 (g.reg l (tA w))).add (ofFp32 (g.reg l (tB w)))) := rfl
theorem tLane_fsub (w : DWord) (g : Group) (l : Nat) :
    tLane 0x21 w g l = toFp32 ((ofFp32 (g.reg l (tA w))).add (ofFp32 (g.reg l (tB w))).neg) := rfl
theorem tLane_fmul (w : DWord) (g : Group) (l : Nat) :
    tLane 0x22 w g l = toFp32 ((ofFp32 (g.reg l (tA w))).mul (ofFp32 (g.reg l (tB w)))) := rfl
theorem tLane_fmin (w : DWord) (g : Group) (l : Nat) :
    tLane 0x24 w g l = toFp32 (numMin (ofFp32 (g.reg l (tA w))) (ofFp32 (g.reg l (tB w)))) := rfl
theorem tLane_fmax (w : DWord) (g : Group) (l : Nat) :
    tLane 0x25 w g l = toFp32 (numMax (ofFp32 (g.reg l (tA w))) (ofFp32 (g.reg l (tB w)))) := rfl
theorem tLane_fslt (w : DWord) (g : Group) (l : Nat) :
    tLane 0x26 w g l = b2n (Num.lt (ofFp32 (g.reg l (tA w))) (ofFp32 (g.reg l (tB w)))) := rfl
theorem tLane_fseq (w : DWord) (g : Group) (l : Nat) :
    tLane 0x27 w g l = b2n (Num.eq (ofFp32 (g.reg l (tA w))) (ofFp32 (g.reg l (tB w)))) := rfl

/-! Registers (R132, R133). -/

/-- What a lane's register reads after one write. -/
theorem Group.reg_setReg (g : Group) (l d v m r : Nat) (hd : d < 256) (hr : r < 256) :
    (g.setReg l d v).reg m r = if m = l ∧ r = d ∧ d ≠ 0 then v % 2 ^ 32 else g.reg m r := by
  unfold Group.setReg Group.reg
  by_cases hr0 : r = 0
  · simp only [hr0, ↓reduceIte]; split
    · next h => exact absurd h.2.1.symm h.2.2
    · rfl
  by_cases hd0 : d = 0
  · simp [hd0]
  · simp only [hd0, hr0, ↓reduceIte, zGet_zSet]
    by_cases h : 256 * l + d = 256 * m + r
    · have h1 : m = l := by omega
      have h2 : r = d := by omega
      simp [h1, h2, hd0]
    · have : ¬ (m = l ∧ r = d) := by rintro ⟨rfl, rfl⟩; exact h rfl
      simp only [h, ↓reduceIte]
      rw [if_neg]; intro hc; exact this ⟨hc.1, hc.2.1⟩

/-- Two groups that differ in their paths and registers only. -/
def Group.alike (g h : Group) : Prop := h.ts = g.ts ∧ h.idx = g.idx ∧ h.age = g.age ∧ h.exited = g.exited ∧ h.did = g.did ∧
  h.pend = g.pend ∧ h.bar = g.bar

theorem Group.alike_refl (g : Group) : g.alike g := ⟨rfl, rfl, rfl, rfl, rfl, rfl, rfl⟩

theorem Group.alike_trans {g h k : Group} (a : g.alike h) (b : h.alike k) : g.alike k := by
  simp only [Group.alike] at *; simp_all

theorem Group.alike_setReg (g : Group) (l d v : Nat) : g.alike (g.setReg l d v) := by
  unfold Group.setReg; split
  · exact g.alike_refl
  · exact ⟨rfl, rfl, rfl, rfl, rfl, rfl, rfl⟩

@[simp] theorem Group.setReg_paths (g : Group) (l d v : Nat) : (g.setReg l d v).paths = g.paths := by
  unfold Group.setReg; split <;> rfl

/-- What the registers of a group read after a value has been written to D of some lanes. -/
theorem Group.reg_foldl_setReg (ls : List Nat) (g : Group) (d : Nat) (v : Nat → Nat) (l r : Nat) (hd : d < 256) (hr : r < 256) :
    (ls.foldl (fun h l => h.setReg l d (v l)) g).reg l r = if l ∈ ls ∧ r = d ∧ d ≠ 0 then v l % 2 ^ 32 else g.reg l r := by
  induction ls generalizing g with
  | nil => simp
  | cons a t ih =>
    simp only [List.foldl_cons, ih, Group.reg_setReg _ _ _ _ _ _ hd hr, List.mem_cons]
    by_cases h1 : l ∈ t <;> by_cases h2 : l = a <;> simp_all

theorem Group.alike_foldl_setReg (ls : List Nat) (g : Group) (d : Nat) (v : Nat → Nat) :
    g.alike (ls.foldl (fun h l => h.setReg l d (v l)) g) := by
  induction ls generalizing g with
  | nil => exact g.alike_refl
  | cons a t ih => exact Group.alike_trans (g.alike_setReg a d (v a)) (ih _)

/-! Paths (R144 to R147): merging and choosing a path changes nothing but the paths. -/

theorem runOldest_same (g : Group) : (runOldest g).regs = g.regs ∧ g.alike (runOldest g) := by
  unfold runOldest; split
  · exact ⟨rfl, g.alike_refl⟩
  · exact ⟨rfl, rfl, rfl, rfl, rfl, rfl, rfl, rfl⟩

theorem settle_same (k : Nat) (g : Group) : (settle k g).regs = g.regs ∧ g.alike (settle k g) := by
  induction k generalizing g with
  | zero => exact ⟨rfl, g.alike_refl⟩
  | succ k ih =>
    simp only [settle]
    split
    · exact ⟨rfl, g.alike_refl⟩
    · split
      · exact ⟨rfl, g.alike_refl⟩
      · split
        · exact ⟨rfl, g.alike_refl⟩
        · split
          · refine ⟨?_, ?_⟩
            · rw [(ih _).1, (runOldest_same _).1]
            · refine Group.alike_trans (Group.alike_trans ?_ (runOldest_same _).2) (ih _).2
              exact ⟨rfl, rfl, rfl, rfl, rfl, rfl, rfl⟩
          · refine ⟨?_, ?_⟩
            · rw [(ih _).1]
            · refine Group.alike_trans ?_ (ih _).2
              exact ⟨rfl, rfl, rfl, rfl, rfl, rfl, rfl⟩

theorem Group.step_same (g : Group) : g.step.regs = g.regs ∧ g.alike g.step := by
  unfold Group.step; split
  · exact ⟨rfl, g.alike_refl⟩
  · refine ⟨?_, ?_⟩
    · rw [(settle_same _ _).1]
    · refine Group.alike_trans ?_ (settle_same _ _).2
      exact ⟨rfl, rfl, rfl, rfl, rfl, rfl, rfl⟩

theorem Group.reg_of_regs {g h : Group} (e : h.regs = g.regs) (l r : Nat) : h.reg l r = g.reg l r := by simp [Group.reg, e]

/-! The lanes that take a branch (R145). -/

theorem mem_lanesOf (m : BitVec 32) (l : Nat) : l ∈ lanesOf m ↔ l < 32 ∧ m.getLsbD l = true := by simp [lanesOf]

/-- A mask made of the lanes of a list that satisfy p. -/
theorem getLsbD_foldl_or (ls : List Nat) (p : Nat → Bool) (m : BitVec 32) (l : Nat) (hl : l < 32) (hs : ∀ k ∈ ls, k < 32) :
    (ls.foldl (fun m l => if p l then m ||| BitVec.ofNat 32 (2 ^ l) else m) m).getLsbD l = (m.getLsbD l || (decide (l ∈ ls) && p l)) := by
  induction ls generalizing m with
  | nil => simp
  | cons a t ih =>
    have ht : ∀ k ∈ t, k < 32 := fun k hk => hs k (by simp [hk])
    simp only [List.foldl_cons, ih _ ht]
    have hb : (BitVec.ofNat 32 (2 ^ a)).getLsbD l = decide (l = a) := by
      simp only [BitVec.getLsbD_ofNat, hl, decide_true, Bool.true_and, Nat.testBit_two_pow]
      by_cases h : a = l
      · simp [h]
      · simp [h, Ne.symm h]
    by_cases hp : p a = true
    · simp only [hp, ↓reduceIte, BitVec.getLsbD_or, hb]
      by_cases h : l = a
      · subst h; simp [hp]
      · simp [h]
    · simp only [hp]
      by_cases h : l = a
      · subst h; simp [hp]
      · simp [h]

end Sys2Proof.Machine
end

