-- ==== Sys2Proof/Tests/Slice0.lean ====
section
/-! SUPPORT. Tests: ill-formed commands, values that the specification prints, and for every statement with hypotheses a state
and operands that meet them. -/

namespace Sys2Proof.Tests

open Sys2Proof Sys2Proof.Machine

/-! Ill-formed commands: each check of WellFormed refuses one, and its neighbour passes. -/

theorem smoke_signalPerform : wellFormed (.signalPerform 0 []) = false ∧ wellFormed (.signalPerform 0 [.mxe, .mxe]) = false ∧
    wellFormed (.signalPerform 0 [.mxe, .vxe]) = true := by decide

theorem smoke_rdOnce : wellFormed (.rdOnce 0 0 0 0 0 0 0 false) = false ∧ wellFormed (.rdOnce 0 0 60 5 0 0 0 false) = false ∧
    wellFormed (.rdOnce 0 0 60 4 0 0 0 false) = true := by decide

theorem smoke_atomic : wellFormed (.atomic 0 0 .add 0 0 0 0 0 0 0 false) = false ∧
    wellFormed (.atomic 0 0 .add 61 4 0 0 0 0 0 false) = false ∧ wellFormed (.atomic 0 0 .add 60 4 0 0 0 0 0 false) = true := by decide

theorem smoke_symbols : wellFormed (.fillLanded 0 [(3, 1), (3, 2)] []) = false ∧ wellFormed (.fillLanded 0 [] [(3, 0)]) = false ∧
    wellFormed (.patrolScrub 0 [(71, 0)] []) = false ∧ wellFormed (.patrolScrub 0 [(71, 1), (3, 2)] []) = true := by decide

theorem smoke_partnerAdmission : wellFormed (.partnerAdmission 0 .nothing []) = false ∧
    wellFormed (.partnerAdmission 0 .nothing (List.replicate 128 0)) = true := by decide +kernel

theorem smoke_partnerInboundRequest : wellFormed (.partnerInboundRequest 0 none .add 0 4097 [] 0) = false ∧
    wellFormed (.partnerInboundRequest 0 none .add 0 0 [1] 0) = false ∧
    wellFormed (.partnerInboundRequest 0 none .add 0 4096 [1] 0) = true := by decide

theorem smoke_packets :
    let long : List Byte := List.replicate 4097 0
    wellFormed (.forward 0 0 long) = false ∧ wellFormed (.read 0 0 long) = false ∧ wellFormed (.write 0 0 long) = false ∧
      wellFormed (.remoteAtomic 0 0 long) = false ∧ wellFormed (.reduce 0 0 long) = false ∧
      wellFormed (.counterAdd 0 0 long) = false ∧ wellFormed (.data 0 0 long) = false ∧ wellFormed (.remoteComp 0 0 long) = false ∧
      wellFormed (.error 0 0 long) = false ∧ wellFormed (.error 0 0 [1]) = true := by
  decide +kernel

theorem smoke_slotHeaderReceive : wellFormed (.slotHeaderReceive 0 0 (List.replicate 65 0)) = false ∧
    wellFormed (.slotHeaderReceive 0 0 [0]) = true := by decide

theorem smoke_equinoxCreditReturn : wellFormed (.equinoxCreditReturn 0 0 false 65) = false ∧
    wellFormed (.equinoxCreditReturn 0 0 false 64) = true := by decide

theorem smoke_fwRules : wellFormed (.fwRules 0 0 0 (List.replicate 2049 0)) = false ∧ wellFormed (.fwRules 0 0 0 []) = true := by
  decide +kernel

theorem smoke_estimateWindow : wellFormed (.estimateWindow [] [1, 2, 3, 4]) = false ∧
    wellFormed (.estimateWindow (List.replicate 48 0) [1, 2, 3]) = false ∧
    wellFormed (.estimateWindow (List.replicate 48 0) [1, 2, 3, 4]) = true := by decide

theorem smoke_rows : wellFormed (.computePartReset [(4, 1), (4, 2)]) = false ∧ wellFormed (.computePartReset [(4, 1), (5, 2)]) = true ∧
    wellFormed (.fullRecovery { map := { bist := [(4, 1), (4, 2)] } }) = false ∧
    wellFormed (.boot { map := { dies := List.replicate 5 {}, bist := [(4, 1), (4, 2)] } }) = false ∧
    wellFormed (.boot { map := { dies := List.replicate 4 {} } }) = false ∧
    wellFormed (.boot { map := { dies := List.replicate 5 {} } }) = true := by decide

theorem smoke_bar2Write : wellFormed (.bar2Write 0 0 []) = false ∧ wellFormed (.bar2Write 0 0xFFFFFFFFF [1, 2]) = false ∧
    wellFormed (.bar2Write 0 0xFFFFFFFFF [1]) = true := by decide

/-- No row of the table gives bits (opcode_table.json): no word spells a command, and none is put in front of the queue. -/
theorem test_no_word_is_a_command : Sys2Proof.decodeTableWord 16 0x1234 = none ∧ (State.reset.withFetchWord 16 0x1234).pending = [] := by
  decide
/-! Values that the specification prints. -/

/-- The slice hash and the place of a line (the example under R183). -/
theorem test_slice_hash : sliceOf 0x048D159E27 = 98 ∧ setOf 0x048D159E27 = 1084 := by decide

/-- HUB_DEVICE_INFO at feature level 3, booted (R16, R36). -/
theorem test_hub_device_info : ({ feature := 3, bootStatus := 0 } : Hub).infoWord = 0xA4030000 := by decide

/-- CORE_STATUS, CORE_QSTATE and CORE_SPLIT (the example under R70): context 17 of partition 3, L1_UNITS 3, MXE issuing, CPE0
waiting on a counter. -/
def exampleCore : Core :=
  { context := 17, partition := 3, resident := true, running := true, l1Units := 3
    queues := [(0, { ended := false, len := 4, buf := [(0, 0)] }), (3, { ended := false, len := 4, hold := .waitmem })] }

theorem test_core_registers : exampleCore.statusWord = 0x113DC000 ∧ exampleCore.qstateWord = 0x00000801 ∧
    exampleCore.splitWord = 0x06800003 := by decide

/-- CORE_STATUS once QUEUE_DEADLOCK has been named on the MXE queue (the same example). -/
theorem test_core_status_faulted :
    ({ exampleCore with resident := false, running := false, faulted := true, faultQueue := 0, faultReason := 3,
                        lastStatus := 0x31 } : Core).statusWord = 0x11320331 := by decide

/-- TGE_STATUS (the example under R159). -/
theorem test_tge_status : ({ tge := { regs := 0x48, limit := 28, groups := (List.range 24).map fun k => (k, {}),
                                      stores := [{}] } } : Core).tgeWord = 0x481C1800 := by decide

/-- HUB_CORE_MAP and HUB_SPARE_STATUS (the examples under R31 and R34). -/
theorem test_spare_status : ({ spareReason := 1, spareDie := 2, spareRow := 1 } : Hub).spareWord = 0x00142000 := by decide

/-- SOL_STATUS_0 and SOL_FAULT_0 (the example under R360). -/
theorem test_sol_fault : pack [(3, 1), (12, 3204), (16, 291), (12, 17), (21, 0)] = 0x3908024602200000 := by decide

/-- HUB_CTX_STATUS_17 (the example under R416). -/
theorem test_ctx_status : ({ state := .active, partition := 3, level := 2, exactFault := true, share := 100 } : Ctx).word = 0x47400064 := by
  decide

/-- D2D_LINK_STATUS_5 and D2D_PS_STATUS_0 (the examples under R280). -/
theorem test_link_status : ({ state := 4, failLanes := 1, firstLane := 200 } : DieLink).word = 0x80099000 := by decide

/-- FAB_PORT_STATUS_10, in place and miscabled (the examples under R330). -/
theorem test_port_status : ({ state := 2, peer := 41, peerPort := 10 } : Port).word = 0x400052A0 := by decide

/-- LLC_PART_1 and MC_PART_1 (the examples under R208 and R252). -/
theorem test_part_words : ({ sealed := true, missResv := 2, ways := 0xF, cycles := 3, windows := 3 } : LlcPart).word = 0xA00F0003 ∧
    ({ sealed := true, missResv := 2, ways := 0xF, cycles := 3, windows := 3 } : LlcPart).mcWord = 0x80000003 := by decide

/-- INT32 addition saturates at both ends (R113). -/
theorem test_int32_saturates : aluOp .int32 0 0x7FFFFFFF 1 = (0x7FFFFFFF, { intSat := true }) ∧
    aluOp .int32 1 0x80000000 1 = (0x80000000, { intSat := true }) ∧ aluOp .int32 2 0x10000 0x10000 = (0x7FFFFFFF, { intSat := true }) := by
  decide

/-! Registers as the physical function reads them, in the states of the specification's examples. -/

/-- In service: powered, booted, no recovery. -/
def base : State :=
  { sup := { on := true, mainOk := true, auxOk := true, pwrOk := true, resetN := true, refclkOk := true, vinMain := 240, vinAux := 240 }
    hub := { bootStatus := 0 }, host := { linkUp := true }, mem := { trained := 256 } }

/-- MC_UE_INFO, MC_ERR_LOC and MC_UE_ADDR of channel 98 (the example under R253): three wrong symbols in subchannel 0 on both reads. -/
def badLine : State := { base with mem := { errs := [(0x048D159E27, [(0, 1), (1, 1), (2, 1)])], chans := [(98, { state := 2 })] } }

theorem test_uncorrectable_registers :
    let c := (badLine.recordUe 0x048D159E27 0 { ctx := 17, part := 3, core := some 20, queue := 3 } 0).chan 98
    c.ueInfo = 0x8044C000 ∧ c.errLoc = 0xA291A278 ∧ c.ueLine = 0x048D159E27 := by decide +kernel

/-- HUB_COH_STATUS (the example under R231). -/
theorem test_coh_status :
    ({ base with cache := { coh := { down := true, cause := 1, agent := 581, slice := 40, ctx := 9 } }
                 links := { sites := [(1, { state := .admitted, openMode := true })] } } : State).reg32 0 0x88 = 0x9914A025 := by decide +kernel

/-- D2D_PS_STATUS_0 (the example under R280): fenced, one rule, 32 GT/s on 4 modules, 40 W. -/
theorem test_site_status :
    ({ base with links := { sites := [(0, { state := .admitted, rate := 2, modules := 4, powerW := 40, rules := [(0, 1#256 <<< 72)] })] } }
      : State).reg32 0 0x540800 = 0x60A00128 := by decide +kernel

/-- TIM_STATUS before and after REF_PPS stops (the example under R301). -/
def onPps : State :=
  { base with tim := { state := .locked, src := 1, todValid := true, frameLocked := true, primary := 1, stepped := true, num := 25
                       now := 10000000000, inputs := [(1, { qualified := true }), (2, { qualified := true }), (5, { qualified := true })] } }

theorem test_tim_status : onPps.reg32 0 0x560000 = 0x46800000 ∧
    (∃ t, exec (.sourceReject .pps .stop 1000200001) onPps = .next t ∧ t.reg32 0 0x560000 = 0x62812001) := by
  refine ⟨by decide +kernel, _, rfl, by decide +kernel⟩

/-- TIM_FRAME_RATE and TIM_IDLE (the examples under R289 and R300). -/
theorem test_tim_words :
    ({ base with tim := { num := 30000, den := 1001, idle := 3, maxState := 3, margin := 2 } } : State).reg32 0 0x560008 = 0x753003E9 ∧
    ({ base with tim := { num := 30000, den := 1001, idle := 3, maxState := 3, margin := 2 } } : State).reg32 0 0x56002C = 0x6C020000 := by
  decide +kernel

/-- FAB_GLOBAL (the example under R330). -/
theorem test_fab_global : ({ base with fab := { device := 9, base := 2 } } : State).reg32 0 0x580000 = 0x00090008 := by
  decide +kernel

/-- SOL_STATUS_0 (the example under R360). -/
theorem test_sol_status :
    ({ base with sol := { sched := [(0, { state := 3, pace := 2, paceGroup := 5, partition := 1 })] }
                 parts := [(1, { sealed := true })], cache := { parts := [(1, { sealed := true })] } } : State).reg32 0 0x5A0000 = 0x604000A3 := by
  decide +kernel

/-- PWR_TEMP (the example under R443), PWR_SUPPLY in steady service and in the sag (the examples under R489 and R501). -/
theorem test_power_words :
    ({ base with pwr := { tjMax := 93 * 16, tjDie := 2 } } : State).reg32 0 0x620008 = 0x5D040000 ∧ base.reg32 0 0x6200C0 = 0xDC00F0F0 ∧
    ({ base with sup := { base.sup with mainOk := false, onAux := true, vinMain := 208 } } : State).reg32 0 0x6200C0 = 0x7C00D0F0 := by
  decide +kernel

/-- SEC_STATUS and the counters (the example under R486). -/
theorem test_sec_status :
    ({ base with sec := { locked := true, identity := true, certOk := true, configSlot := true } } : State).reg32 0 0x680000 = 0xE8000000 := by
  decide +kernel

/-- HUB_RECOVERY_STATUS (the example under R463). -/
theorem test_recovery_status :
    ({ base with recov := { state := 1, step := 5, computeResets := 1 } } : State).reg32 0 0x640000 = 0x2A000100 := by decide +kernel

/-- HUB_CORE_MAP_25 and HUB_SPARE_STATUS (the examples under R31 and R34). -/
theorem test_core_map : ({ base with hub := { bootStatus := 0, coreMap := [(25, 0x90000010)] } } : State).reg32 0 0x164 = 0x90000010 := by
  decide +kernel
/-! Numbers that the specification prints for the engines. -/

/-- An exact element just above a midpoint, read as FP32 (the example under R124). -/
theorem test_exact_read : toFp32 (exactRead 0x00000000010000010000000000000001 0).1 = 0x4B800001 := by decide +kernel

/-- One block of an FP4 conversion (the example under R122): 5.0, -0.3, 1.25 and 11.0, and 28 zeros. -/
theorem test_fp4_block :
    let r := blockScale .fp4 ([0x40A00000, 0xBE99999A, 0x3FA00000, 0x41300000].map ofFp32 ++ List.replicate 28 .zero)
    r.1 = 0x80 ∧ r.2.1.take 6 = [4, 8, 1, 7, 0, 0] := by decide +kernel

/-- BF16 products 1, 2^-24, 2^-24 and 1.5 * 2^-24, one group each (the example under R86), and in one rounding. -/
theorem test_fp32_groups :
    let p (c : Nat) : Machine.Num × Machine.Num := (decodeNum .bf16 0x3F80, decodeNum .bf16 c)
    let ps := [p 0x3F80, p 0x3380, p 0x3380, p 0x33C0]
    ((ps.foldl (fun a x => fp32Group a [x]) (0, {})).1 = 0x3F800001) ∧ (fp32Group (0, {}) ps).1 = 0x3F800002 := by decide +kernel

/-- The 64th MMA of -128 by -128 saturates (the example under R87). -/
theorem test_int32_group : int32Group (2113929216, {}) (List.replicate 2048 (decodeNum .int8 0x80, decodeNum .int8 0x80)) =
    (0x7FFFFFFF, { intSat := true }) := by decide +kernel

/-- 2^24, 1 and -2^24 in FP8 E5M2: FP32 loses the 1, the exact tile holds it (the first example under R94). -/
theorem test_exact_keeps :
    let p (c : Nat) : Machine.Num × Machine.Num := (decodeNum .e5m2 0x6C, decodeNum .e5m2 c)
    let ps := [p 0x6C, (decodeNum .e5m2 0x3C, decodeNum .e5m2 0x3C), p 0xEC]
    (ps.foldl (fun a x => fp32Group a [x]) (0, {})).1 = 0 ∧
      (ps.foldl (fun a x => exactGroup a [x]) (0, {})).1 = 0x00000000000000010000000000000000 := by decide +kernel

/-- An FP4 product of 6, -1.5 and a scale of 2 (the example under R94): -18 in the exact tile, and with E at 184 the range ends. -/
theorem test_exact_group : (exactGroup (0, {}) [((decodeNum .fp4 7).scale 1, decodeNum .fp4 0xB)]).1 =
    0xFFFFFFFFFFFFFFEE0000000000000000 ∧
    (exactGroup (0, {}) [((decodeNum .fp4 7).scale 184, decodeNum .fp4 0xB)] =
      (0x80000000000000000000000000000001, { range := true })) := by decide +kernel

/-- A row of 2^24, 1, 1 and -2^24 reduces by SUM to 2.0 (the example under R126). -/
theorem test_reduce : (redOp .fp32 0 [0x4B800000, 0x3F800000, 0x3F800000, 0xCB800000]).1 = 0x40000000 := by decide +kernel

/-- Pace 2 in a tray (the example under R353): an epoch of 40,960 ns, compiled slot 100 in the device's slot 125, and the
device's slot before it idle. -/
theorem test_pace :
    let x : Schedule := { slotNs := 8, pace := 2, epochAt := 1750000000032800768 }
    x.period 2 = 40960 ∧ x.slotNow 1750000000032801768 = some (100, true) ∧ x.slotNow 1750000000032801760 = some (99, false) := by
  decide +kernel

/-! States that meet the hypotheses of the statements, by statement. -/

/-- Core 5 runs a kernel of context 17, with a queue of its own making. -/
def running (qs : Tab Queue) (f : Core → Core := id) : State :=
  { base with cores := [(5, f { context := 17, partition := 3, resident := true, running := true, l1Units := 1, queues := qs })] }

/-- Core 5 with the instruction w at the head of a queue of four. -/
def issuing (e : Eng) (w : QWord) (f : Core → Core := id) : State := running [(e.num, { ended := false, len := 4, buf := [(0, w)] })] f

theorem witness_StepRunsFront : ({ base with pending := [.heartbeat 0, .wake 1] } : State).pending = .heartbeat 0 :: [.wake 1] := rfl

theorem witness_QueueInstructionsIssue :
    (issuing .vxe 0).heads 5 .vxe 0 ∧ onlyBits (0 : QWord) [(7, 0)] = true ∧
    (issuing .vxe 1).heads 5 .vxe 1 ∧ onlyBits (1 : QWord) [(7, 0)] = true ∧ opcode (1 : QWord) = 1 ∧
    (issuing .vxe 0x7FFFFFFF1F02).heads 5 .vxe 0x7FFFFFFF1F02 ∧ opcode (0x7FFFFFFF1F02 : QWord) = 2 ∧
    onlyBits (0x7FFFFFFF1F02 : QWord) [(7, 0), (12, 8), (47, 16)] = true := by unfold State.heads; decide +kernel

theorem witness_LoopRunsItsBody :
    -- COUNT 0 and COUNT 2 over a body of three, the longest that the stream allows
    (issuing .mxe 0x306).heads 5 .mxe 0x306 ∧ (issuing .mxe 0x2000306).heads 5 .mxe 0x2000306 ∧
    [(0x306 : QWord), 0x2000306].all (fun w => opcode w == 6 && onlyBits w [(19, 0), (47, 24)] && fld w 19 8 == 3) = true ∧
    fld (0x306 : QWord) 47 24 = 0 ∧ fld (0x2000306 : QWord) 47 24 = 2 ∧ ((issuing .mxe 0x306).queue 5 .mxe).loops.length < 4 ∧
    0 + 1 + 3 ≤ ((issuing .mxe 0x306).queue 5 .mxe).len ∧
    -- inside a body, at its end with an iteration left, at its end with none left, alone and in an outer body
    (∃ (q : Queue) (l m : Loop), q.loops = [l, m] ∧ q.pos + 1 = l.start + l.body ∧ l.count ≤ l.idx + 1 ∧ q.pos + 1 < m.start + m.body) ∧
    (∃ (q : Queue) (l : Loop), q.loops = [l] ∧ q.pos + 1 = l.start + l.body ∧ l.idx + 1 < l.count) ∧
    (∃ (q : Queue) (l : Loop), q.loops = [l] ∧ q.pos + 1 < l.start + l.body) ∧
    (∃ (q : Queue) (l : Loop), q.loops = [l] ∧ q.pos + 1 = l.start + l.body ∧ l.count ≤ l.idx + 1) := by
  refine ⟨?_, ?_, ?_, ?_, ?_, ?_, ?_, ⟨{ pos := 2, loops := [{ start := 1, body := 2, count := 1 }, { start := 0, body := 4, count := 2 }] }, _, _, rfl,
    rfl, by decide, by decide⟩, ⟨{ pos := 2, loops := [{ start := 1, body := 2, count := 2 }] }, _, rfl, rfl, by decide⟩,
    ⟨{ pos := 1, loops := [{ start := 1, body := 2, count := 2 }] }, _, rfl, by decide⟩,
    ⟨{ pos := 2, loops := [{ start := 1, body := 2, count := 2, idx := 1 }] }, _, rfl, rfl, by decide⟩⟩ <;>
    (try unfold State.heads) <;> decide +kernel

/-- A SIGNAL of 1 on semaphore 3 stands ready in the VXE queue; the semaphore holds v. -/
def signalling (v : Nat) : State := running [(1, { ended := false, len := 4, sigs := [{ sem := 3, amount := 1 }] })] fun c => { c with sems := [(3, v)] }

theorem witness_SignalAddsToItsSemaphore : (signalling 0xFFFFFFFE).issues 5 = true ∧
    ((signalling 0xFFFFFFFE).queue 5 .vxe).readySignal = some { sem := 3, amount := 1 } ∧
    ((signalling 0xFFFFFFFE).core 5).sem 3 + 1 < 2 ^ 32 ∧
    (∀ d, (((signalling 0xFFFFFFFE).core 5).queue d).hold ≠ .wait) :=
  ⟨by decide +kernel, by decide +kernel, by decide +kernel, fun d => by cases d <;> decide +kernel⟩

theorem witness_SignalOverflowFaults : (signalling 0xFFFFFFFF).issues 5 = true ∧
    ((signalling 0xFFFFFFFF).queue 5 .vxe).readySignal = some { sem := 3, amount := 1 } ∧
    2 ^ 32 ≤ ((signalling 0xFFFFFFFF).core 5).sem 3 + 1 := by decide +kernel

theorem witness_WaitTestsItsSemaphore :
    -- VALUE 2, TAKE, TIMEOUT_EXP 24, on semaphore 3 that holds 2 and 1
    let w : QWord := 0x18000000022303
    (∀ v ∈ [1, 2], (issuing .cpe0 w fun c => { c with sems := [(3, v)] }).issues 5 = true ∧
      ((issuing .cpe0 w fun c => { c with sems := [(3, v)] }).queue 5 .cpe0).head = some w) ∧ opcode w = 3 ∧
    onlyBits w [(7, 0), (13, 8), (53, 16)] = true ∧ fld w 53 48 = 24 ∧ fld w 47 16 = 2 ∧ fld w 12 8 = 3 ∧ bit w 13 = true := by
  decide +kernel

/-! Memory that context 17 sees: addresses below 2^30 lead to the same places, through a table at 0x1000 and one at 0x2000. -/

/-- An access that answers with these bytes; a translation that leads to memory. -/
def gives {ε α : Type} [DecidableEq α] (r : Except ε α) (a : α) : Bool := match r with
  | .ok b => decide (b = a)
  | .error _ => false

def leads {ε : Type} (r : Except ε Target) (pa : Nat) : Bool := match r with
  | .ok (.mem x) => x == pa
  | _ => false

def entry (x : Nat) : Nat := x + crc8 (leBytes 7 x) * 2 ^ 56

/-- A state whose context 17 has these tables, and the bytes written besides. -/
def paged (s : State) (bytes : List Host.Cell := []) : State :=
  { s with
    mem := { s.mem with bytes := memWrL (memWrLE (memWrLE [] 0x1000 8 (entry 0x2001)) 0x2000 8 (entry 0x3D)) bytes }
    ctxs := [(17, { state := .active, partition := 3, root := 0x1000 })], parts := [(3, { memGib := 4094, ctxFirst := 16, ctxCount := 16 })] }

def cells (a : Nat) (bs : List Byte) : List Host.Cell := (List.range bs.length).zip bs |>.map fun p => (a + p.1, p.2)

theorem witness_paged : leads ((paged (running [])).translate ((paged (running [])).engVia 5 .cpe0) 0x10000 .read).1 0x10000 = true ∧
    (paged (running [])).memoryCanonical := by unfold State.memoryCanonical; decide +kernel

/-- WAITMEM at 0x40: on scratchpad and on a virtual address, VALUE 1, TIMEOUT_EXP 24. -/
def waitmemWord (va : Bool) : QWord := BitVec.ofNat 128 (0x04 + b2n va * 2 ^ 8 + 24 * 2 ^ 10 + 0x40 * 2 ^ 16 + 2 ^ 64)

theorem witness_WaitmemWaitsForItsCell :
    let w := waitmemWord false
    let v := waitmemWord true
    (issuing .cpe0 w).issues 5 = true ∧ ((issuing .cpe0 w).queue 5 .cpe0).head = some w ∧ opcode w = 4 ∧
    onlyBits w [(8, 0), (15, 10), (127, 16)] = true ∧ fld w 15 10 = 24 ∧ fld w 63 16 % 8 = 0 ∧ bit w 8 = false ∧
    spOk ((issuing .cpe0 w).core 5).l1Units.toNat (fld w 63 16) 8 = true ∧
    onlyBits v [(8, 0), (15, 10), (127, 16)] = true ∧ bit v 8 = true ∧
    (let s := paged (issuing .cpe0 v)
     s.issues 5 = true ∧ (s.queue 5 .cpe0).head = some v ∧ leads (s.translate (s.seqVia 5 .cpe0) (fld v 63 16) .read).1 0x40 = true ∧
     (let s1 := (s.translate (s.seqVia 5 .cpe0) (fld v 63 16) .read).2
      gives (s1.vread (s1.seqVia 5 .cpe0) (fld v 63 16) 8).1 [0, 0, 0, 0, 0, 0, 0, 0] = true)) ∧
    -- a notice, and a cell that holds the threshold
    (let s := paged (running [(3, { ended := false, len := 4, buf := [(0, v)], hold := .waitmem, notice := true })]) [(0x40, 1)]
     s.issues 5 = true ∧ (s.queue 5 .cpe0).hold = .waitmem ∧ tabGet? (s.queue 5 .cpe0).buf 0 = some v ∧
     (let s1 := (s.translate (s.seqVia 5 .cpe0) (fld v 63 16) .read).2
      gives (s1.vread (s1.seqVia 5 .cpe0) (fld v 63 16) 8).1 [1, 0, 0, 0, 0, 0, 0, 0] = true ∧
        waitmemThreshold (s.queue 5 .cpe0) v ≤ leVal [1, 0, 0, 0, 0, 0, 0, 0])) := by decide +kernel

theorem witness_FenceHoldsUntilPerformed :
    (issuing .vxe 0x205).issues 5 = true ∧ ((issuing .vxe 0x205).queue 5 .vxe).head = some 0x205 ∧ opcode (0x205 : QWord) = 5 ∧
    onlyBits (0x205 : QWord) [(9, 0)] = true ∧ fld (0x205 : QWord) 9 8 = 2 ∧
    ((issuing .vxe 0x205).queue 5 .vxe).clearBefore 0 = true ∧ (issuing .vxe 0x205).fenceClear 5 .vxe 2 = true ∧
    ({ issuing .vxe 0x205 with cache := { writes := [{ core := some 5, queue := 1 }] } } : State).fenceClear 5 .vxe 2 = false := by
  decide +kernel

theorem witness_QueuesAreFedAndTimed :
    (let s := paged (running [(0, { ended := false, base := 0x10000, len := 4 })])
     s.issues 5 = true ∧ (s.queue 5 .mxe).ended = false ∧ (s.queue 5 .mxe).pos < (s.queue 5 .mxe).len ∧
     (s.queue 5 .mxe).missing 64 0 = some 0 ∧ gives (s.vread (s.seqVia 5 .mxe) 0x10000 64).1 (List.replicate 64 0) = true) ∧
    (let s := running [(0, { ended := false, len := 4, pos := 4 })]
     s.issues 5 = true ∧ (s.queue 5 .mxe).ended = false ∧ (s.queue 5 .mxe).len ≤ (s.queue 5 .mxe).pos) ∧
    (let s := running [(0, { ended := false, len := 4, hold := .wait, deadline := 7 }), (1, { ended := false, len := 4, hold := .waitmem })]
     (s.queue 5 .mxe).hold = .wait ∧ (s.queue 5 .vxe).hold = .waitmem ∧ (s.queue 5 .vxe).deadline ≤ s.now ∧
     ({ s with tim := { now := 7 } } : State).now = (s.queue 5 .mxe).deadline ∧ s.issues 5 = true) := by decide +kernel

theorem witness_QueueDeadlockFaults :
    (let s := running [(1, { ended := false, hold := .wait }), (3, { ended := false, hold := .wait })]
     s.issues 5 = true ∧ (s.queue 5 .vxe).ended = false ∧ (∀ d, (s.queue 5 d).ended = false → (s.queue 5 d).hold = .wait) ∧
     (∀ d, (s.queue 5 d).flights = [] ∧ (s.queue 5 d).sigs = []) ∧ (∀ d : Eng, d.num < 1 → (s.queue 5 d).ended = true)) ∧
    (let s := running [(1, { ended := false, hold := .waitmem }), (3, { ended := false, hold := .fence })]
     (s.queue 5 .vxe).ended = false ∧ (s.queue 5 .vxe).hold = .waitmem ∧ (s.queue 5 .cpe0).hold = .fence) := by
  refine ⟨⟨by decide +kernel, by decide +kernel, fun d => ?_, fun d => ?_, fun d => ?_⟩, by decide +kernel⟩ <;> cases d <;> decide +kernel

theorem witness_IllegalInstructionsFault :
    (issuing .tge 0x11).issues 5 = true ∧ ((issuing .tge 0x11).queue 5 .tge).head = some 0x11 ∧ definedOp .tge (opcode (0x11 : QWord)) = false ∧
    definedOp .mxe 0x17 = false ∧ definedOp .mxe 0x16 = true ∧ definedOp .vxe 0x1B = false ∧ definedOp .cpe1 0x07 = false ∧
    onlyBits (0x100 : QWord) [(7, 0)] = false ∧ opcode (0x100 : QWord) = 0 ∧ onlyBits (0x101 : QWord) [(7, 0)] = false ∧
    24 < fld (0x19000000000003 : QWord) 53 48 ∧ opcode (0x19000000000003 : QWord) = 3 ∧
    fld (0x40004 : QWord) 63 16 % 8 ≠ 0 ∧ opcode (0x40004 : QWord) = 4 ∧ fld (0x305 : QWord) 9 8 = 3 ∧ opcode (0x305 : QWord) = 5 ∧
    fld (0x6 : QWord) 19 8 = 0 ∧ opcode (0x6 : QWord) = 6 := by decide +kernel

theorem witness_ContextFaultIsRecorded :
    ((running []).ctx 17).tear = none ∧ ({ running [] with ctxs := [(17, { tear := some {} })] } : State).ctx 17 ≠ {} := by decide +kernel

/-- A kernel of command 1 assigned to core 5. -/
def assigned : State :=
  { paged base with
    cores := [(5, { context := 17, partition := 3, assigned := true, resident := true, l1Units := 1, cmd := 1, kernel := { argLen := 8, argAddr := 0x100 } })]
    cmds := [{ id := 1, started := true, launch := some {} }] }

theorem witness_KernelStartsAndEnds :
    (assigned.core 5).assigned = true ∧ (assigned.core 5).stopped = false ∧ assigned.serving = true ∧ (assigned.cmd? 1).isSome = true ∧
    gives ((assigned.modCore 5 fun c => { c with tlb := [] }).vread (assigned.coreVia 5) 0x100 8).1 (List.replicate 8 0) = true ∧
    -- every queue ended, DONE_CTR 0 and DONE_CTR 0x200
    (running []).live 5 = true ∧ (running []).quiet 5 = true ∧ gives ((running []).addDone 5).1 () = true ∧
    (let s := paged (running [] fun c => { c with kernel := { doneCtr := 0x200 } })
     s.live 5 = true ∧ s.quiet 5 = true ∧ gives (s.addDone 5).1 () = true) := by decide +kernel

/-- Words and lines put together from fields: lowest bit or byte offset, value. -/
def bitsWord (n : Nat) (fs : List (Nat × Nat)) : BitVec n := BitVec.ofNat n (fs.foldl (fun x f => x + f.2 * 2 ^ f.1) 0)

def sealedLine (fs : List (Nat × Nat)) : Line :=
  let w : Line := bitsWord 512 (fs.map fun f => (8 * f.1, f.2))
  w + BitVec.ofNat 512 (crc32 ((lineBytes w).take 60) * 2 ^ 480)

/-- A fill of n bytes into scratchpad at 0x200, with one add to the counter at 0x300. -/
def fillLine (op n : Nat) : Line :=
  sealedLine [(0, op), (1, 2), (2, 3), (8, 0xAB), (0x10, 0x200), (0x1C, 8), (0x2A, 1), (0x2C, n), (0x30, 0x300), (0x38, 1)]

def issueWord (count : Nat) : QWord := bitsWord 128 [(0, 0x10), (16, 0x40), (64, count), (72, 64)]

/-- CPE0 has reached the descriptor at 0x40 of its scratchpad. -/
def reached (d : Line) (f : Core → Core := id) : State :=
  running [(3, { ended := false, len := 4, flights := [{ op := 0x10, addr := 0x40, left := 1 }] })]
    fun c => f { c with sp := memWrN [] 0x40 (lineBytes d) }

def checkIs (r : DescCheck) : Bool := match r with
  | .ok => true
  | _ => false

theorem witness_DescriptorsStartAndCount :
    [0, 1, 255].all (fun n => let w := issueWord n
      (issuing .cpe0 w).issues 5 && ((issuing .cpe0 w).queue 5 .cpe0).head == some w && opcode w == 0x10 &&
        onlyBits w [(8, 0), (95, 16)] && fld w 63 16 % 64 == 0 && fld w 95 72 == 64 && fld w 71 64 == n) = true ∧
    ((issuing .cpe0 (issueWord 1)).queue 5 .cpe0).issuing = none ∧
    -- a descriptor without bytes, one of 8 bytes, one whose check sum is wrong, one with OPCODE 4
    [fillLine 2 0, fillLine 2 8].all (fun d => let s := reached d
      ((s.queue 5 .cpe0).issuing).isSome && s.issues 5 && gives (s.fetchDesc 5 0 false 0x40).1 d &&
        checkIs ((s.fetchDesc 5 0 false 0x40).2.checkDesc 5 0 d).1) = true ∧
    dLen (fillLine 2 0) = 0 ∧ dLen (fillLine 2 8) = 8 ∧ dOp (fillLine 4 8) = 4 ∧ dOp (fillLine 0 8) = 0 ∧
    gives ((reached (fillLine 4 8)).fetchDesc 5 0 false 0x40).1 (fillLine 4 8) = true ∧
    byteFld (fillLine 4 8) 0x3C 4 = crc32 ((lineBytes (fillLine 4 8)).take 60) ∧
    byteFld (fillLine 2 8 + 1) 0x3C 4 ≠ crc32 ((lineBytes (fillLine 2 8 + 1)).take 60) ∧
    -- a descriptor whose 8 bytes have been performed
    (let c : Copy := { raw := fillLine 2 8, rd := 8, wr := 8 }
     let s := reached (fillLine 2 8) fun x => { x with cpe0 := { copies := [c], nextId := 1 } }
     s.issues 5 = true ∧ ((s.core 5).cpeOf 0).copies[(0 : Fin 16).val]? = some c ∧ s.copy? 5 0 c.id = some c ∧ 0 < dLen c.raw ∧
     c.rd = dLen c.raw ∧ s.copyComp c = true ∧ dDstKind c.raw ≠ 2 ∧ dCtrKind c.raw = 1) := by decide +kernel

/-- An engine at the head of whose queue w stands, with one row and one column. -/
def engine (e : Eng) (w : QWord) : State :=
  issuing e w fun c => { c with vxe := { rows := 1, cols := 1 }, mxe := { slots := [(63, { fmt := 4 })] } }

def startsOk (r : Except CtxFault Started) : Bool := match r with
  | .ok st => st.fault.isNone
  | .error _ => false

theorem witness_EngineInstructionsIssue :
    -- LDB of one INT8 slab into slot 63, MMA with it, ACCMODE, ACCZERO, ACCST, ACCLD, STSTAT
    [((0x10, ldbStart), bitsWord 128 [(0, 0x10), (12, 4), (16, 1), (24, 63), (96, 32)]),
     ((0x11, mmaStart true), bitsWord 128 [(0, 0x11), (12, 4), (16, 4), (24, 1), (32, 1), (40, 1), (48, 63), (96, 32)]),
     ((0x12, accmodeStart), 0x112), ((0x13, acczeroStart), 0x113), ((0x14, accstStart), bitsWord 128 [(0, 0x14), (96, 4)]),
     ((0x15, accldStart), bitsWord 128 [(0, 0x15), (96, 4)]), ((0x16, ststatStart), bitsWord 128 [(0, 0x116), (64, 0x7C)])].all
      (fun x => let s := engine .mxe x.2
        s.issues 5 && (s.queue 5 .mxe).head == some x.2 && opcode x.2 == x.1.1 && definedOp .mxe x.1.1 &&
          startsOk (x.1.2 ((s.core 5).view .mxe) x.2) && (s.queue 5 .mxe).flights.isEmpty) = true ∧
    -- SETLEN, LD, ST, STSLAB, ALU, FMA, SEL, FUNC, CVT, RED, VSTAT, on FP32 where they have a type
    [((0x10, fun _ w => setlenStart [] w), bitsWord 128 [(0, 0x10), (16, 40), (32, 100), (48, 32), (56, 64)]),
     ((0x11, vldStart []), bitsWord 128 [(0, 0x8011), (16, 31), (96, 1)]), ((0x12, vstStart []), bitsWord 128 [(0, 0x8012), (96, 1)]),
     ((0x13, stslabStart []), bitsWord 128 [(0, 0x13), (112, 1)]), ((0x14, aluStart), 0x8014), ((0x15, fmaStart), 0x8015),
     ((0x16, selStart), 0x8016), ((0x17, funcStart 0), 0x8C17), ((0x18, cvtStart), 0x8018), ((0x19, redStart), 0x8019),
     ((0x1A, vstatStart), 0x1001A)].all
      (fun x => let s := engine .vxe x.2
        s.issues 5 && (s.queue 5 .vxe).head == some x.2 && opcode x.2 == x.1.1 && definedOp .vxe x.1.1 &&
          startsOk (x.1.2 ((s.core 5).view .vxe) x.2) && (s.queue 5 .vxe).flights.isEmpty) = true ∧
    -- a check that fails: tile 4 in exact mode does not exist; one in progress to wait for
    (match ldbStart ((engine .mxe 0x10).core 5) 0x10 with | .error _ => true | .ok _ => false) = true ∧
    ({ flight := { op := 0x16 }, alone := true } : Started).waitsFor .mxe 0x16 { op := 0x10 } = true := by decide +kernel

theorem witness_EngineResultsAreMade :
    (let f : Flight := { op := 0x12, writes := [.tile 7], eff := { sp := [(0, 1)], tiles := [(7, {})], vregs := [(31, [(0, 1)])] } }
     let g : Flight := { op := 0x10, writes := [.slot 0] }
     let s := running [(0, { ended := false, len := 4, flights := g :: List.replicate 62 g ++ [f] })]
     s.serving = true ∧ (s.core 5).stopped = false ∧ (s.core 5).resident = true ∧ (s.queue 5 .mxe).flights[(63 : Fin 64).val]? = some f ∧
     (s.queue 5 .mxe).flights[(0 : Fin 64).val]? = some g ∧
     ((s.queue 5 .mxe).flights.take 63).all (fun g => !hazard f.reads f.writes g) = true) ∧
    onlyBits (0x112 : QWord) [(7, 0), (8, 8)] = true ∧ onlyBits (0xF13 : QWord) [(7, 0), (15, 8)] = true ∧
    (∀ t, t < 8 → bit (0xF13 : QWord) (8 + t) = true → t < ({ mxe := {} } : Core).mxe.tileCount) ∧
    -- SETLEN in a loop whose index is 1: rows 32 of 40 gives 8, columns 64 of 64 gives 0
    (let w : QWord := bitsWord 128 [(0, 0x10), (16, 40), (32, 64), (48, 32), (56, 64), (68, 3)]
     let s := running [(1, { ended := false, len := 4, buf := [(0, w)], loops := [{ body := 1, count := 2, idx := 1 }] })]
     s.issues 5 = true ∧ (s.queue 5 .vxe).head = some w ∧ opcode w = 0x10 ∧
     onlyBits w [(7, 0), (53, 16), (62, 56), (69, 64)] = true ∧ fld w 53 48 = 32 ∧ fld w 62 56 = 64 ∧ (s.queue 5 .vxe).flights = [] ∧
     ∃ t, exec (.setlen 5) s = .next t ∧ (t.core 5).vxe.rowsN = 8 ∧ (t.core 5).vxe.colsN = 0) := by
  refine ⟨by decide +kernel, by decide +kernel, by decide +kernel, by decide +kernel, ?_⟩
  refine ⟨by decide +kernel, by decide +kernel, by decide +kernel, by decide +kernel, by decide +kernel, by decide +kernel,
    by decide +kernel, _, rfl, by decide +kernel⟩

/-! Threads. -/

/-- A thread instruction of these fields. -/
def tword (op d a b : Nat) (more : Nat := 0) : DWord := bitsWord 64 [(0, op), (8, d), (16, a), (24, b), (32, more)]

/-- Core 5 with a group of context 17 at 0x10000, where w stands, with 64 registers a lane; g changes the group. -/
def threads (w : DWord) (g : Group → Group := id) : State :=
  paged (running [(2, { ended := false, len := 4 })] fun c => { c with tge := { regs := 64, limit := 28, groups := [(0,
    g { paths := [{ pc := 0x10000, mask := 0xFFFFFFFF#32 }] })] } }) (cells 0x10000 (leBytes 8 w.toNat))

/-- Is w ready in group 0 (State.threadReady)? -/
def readyIn (s : State) (w : DWord) : Bool :=
  s.issues 5 && match tabGet? (s.core 5).tge.groups 0 with
    | none => false
    | some g => !g.bar && g.due.isNone && gives (s.threadWord 5 g.run.pc).1 w &&
      (match tCheck ((s.threadWord 5 g.run.pc).2.core 5).tge.regs.toNat w with
       | .ok f => !tHeld g f w
       | .error _ => false)

/-- A thread that is ready is ready as the statements ask. -/
theorem readyIn_ready (s : State) (w : DWord) (h : readyIn s w = true) : ∃ s' g f, s.threadReady s' 5 0 g w f := by
  unfold readyIn at h
  simp only [Bool.and_eq_true] at h
  obtain ⟨h1, h2⟩ := h
  split at h2
  · cases h2
  · next g hg =>
    simp only [Bool.and_eq_true, Bool.not_eq_true', Option.isNone_iff_eq_none] at h2
    obtain ⟨⟨⟨h3, h4⟩, h5⟩, h6⟩ := h2
    split at h6
    · next f hf =>
      refine ⟨(s.threadWord 5 g.run.pc).2, g, f, h1, hg, h3, h4, ?_, hf, by simpa using h6⟩
      unfold gives at h5
      split at h5
      · next b hb => simp only [decide_eq_true_eq] at h5; subst h5; exact Prod.ext hb rfl
      · cases h5
    · cases h6

/-- D is s0, an inner and the last register; sources likewise. -/
theorem witness_ThreadIntegerResults :
    ((List.range 16).map fun k => tword (0x10 + k) 63 1 0).all (fun w => tOp w == 0x1C || tOp w == 0x1E || readyIn (threads w) w) = true ∧
    readyIn (threads (tword 0x10 0 63 63)) (tword 0x10 0 63 63) = true ∧ readyIn (threads (tword 0x1C 62 2 4)) (tword 0x1C 62 2 4) = true ∧
    readyIn (threads (tword 0x1E 1 0 0 0xFFFFFFFF)) (tword 0x1E 1 0 0 0xFFFFFFFF) = true ∧ readyIn (threads 0) 0 = true := by decide +kernel

theorem witness_ThreadFloatResults :
    ((List.range 8).map fun k => tword (0x20 + k) 63 1 2).all (fun w => readyIn (threads w) w) = true ∧
    readyIn (threads (tword 0x28 1 2 0 0x198)) (tword 0x28 1 2 0 0x198) = true ∧
    Format.ofCode (fld (tword 0x28 1 2 0 0x198) 35 32) = some .fp32 ∧ Format.ofCode (fld (tword 0x28 1 2 0 0x198) 39 36) = some .int32 ∧
    readyIn (threads (tword 0x29 1 2 0 12)) (tword 0x29 1 2 0 12) = true := by decide +kernel

theorem witness_ThreadWritesOnlyItsRegister : ({ paths := [{ mask := 1#32 }] } : Group).paths ≠ [] ∧
    (0 : Nat) ∈ ({ paths := [{ mask := 1#32 }] } : Group).active ∧ (1 : Nat) ∉ ({ paths := [{ mask := 1#32 }] } : Group).active := by
  decide +kernel

/-- A group with these paths. -/
def grouped (ps : List Path) : Group := { paths := ps }

theorem witness_ThreadPathsFollowBranches :
    [(0x02 : Nat), 0x03].all (fun op => let w := tword op 0 1 0 0x40000004
      readyIn (threads w) w && readyIn (threads w fun g => { g with regs := [(1, 1)] }) w &&
      -- lane 0 alone takes BRNZ, the others BRZ
      takenLanes { grouped [{ mask := 0xFFFFFFFF#32 }] with regs := [(1, 1)] } w (op == 3) == (if op = 3 then 0xFFFFFFFE#32 else 1#32)) = true ∧
    readyIn (threads 1) 1 = true ∧ (∀ p ∈ (grouped [{ mask := 0xFFFFFFFF#32 }]).pend, (grouped [{ mask := 0xFFFFFFFF#32 }]).run.mask.getLsbD p.1 = false) ∧
    -- a branch that lanes disagree on with 15 and 16 JOIN addresses on the stack, and one that all take
    (let p (n : Nat) : Path := { mask := 3#32, joins := (List.range n).map (1000 + ·) }
     (p 15).mask &&& ~~~1#32 ≠ 0 ∧ 16 < (16 :: (p 16).joins).length ∧ (16 :: (p 15).joins).length ≤ 16 ∧ (p 15).mask &&& ~~~3#32 = 0) ∧
    (let s := threads 0 fun g => { g with paths := [{ mask := 3#32, back := 64 }] }
     s.issues 5 = true ∧ (∃ g p, tabGet? (s.core 5).tge.groups 0 = some g ∧ g.due = some p)) := by
  refine ⟨by decide +kernel, by decide +kernel, by decide, by decide, by decide +kernel, _, { mask := 3#32, back := 64 }, rfl, by decide +kernel⟩

theorem witness_CollectivesNeedTheirLanes :
    [tword 0x40 1 2 0, tword 0x40 1 2 0 1, tword 0x40 63 2 0 2, tword 0x41 1 2 3, tword 0x42 0 0 0, tword 0x48 8 1 2].all
      (fun w => readyIn (threads w) w && readyIn (threads w fun g => { g with paths := [{ pc := 0x10000, mask := 1#32 }] }) w) = true ∧
    (grouped [{ mask := 0xFFFFFFFF#32 }]).converged = true ∧ (grouped [{ mask := 1#32 }]).converged = false ∧
    -- GRPMUL on tiles at 0 and at the last 1,024 bytes of the scratchpad
    (let g := { grouped [{ mask := 0xFFFFFFFF#32 }] with regs := [(2, spBytes 1 - 1024)] }
     g.reg 0 1 % 64 = 0 ∧ g.reg 0 2 % 64 = 0 ∧ spOk 1 (g.reg 0 1) 1024 = true ∧ spOk 1 (g.reg 0 2) 1024 = true) ∧
    (let s := threads 0 fun g => { g with bar := true, ts := 7 }
     s.issues 5 = true ∧ (∃ p ∈ (s.core 5).tge.groups, p.2.ts = 7) ∧ ∀ p ∈ (s.core 5).tge.groups, p.2.ts = 7 → p.2.bar = true) := by
  decide +kernel

theorem witness_TstartRunsItsGroups :
    [0, 1, 28].all (fun n => let w : QWord := bitsWord 128 [(0, 0x10), (8, n), (16, 0x10000), (64, 0xFFFFFFFF)]
      let s := running [(2, { ended := false, len := 4, buf := [(0, w)] })] fun c => { c with tge := { regs := 64, limit := 28 } }
      s.issues 5 && (s.queue 5 .tge).head == some w && opcode w == 0x10 && onlyBits w [(7, 0), (14, 8), (95, 16)] &&
        decide (fld w 14 8 ≤ (s.core 5).tge.limit.toNat) && fld w 14 8 == n && fld w 63 16 % 8 == 0 && (s.core 5).tge.starts.isEmpty) = true ∧
    (let x : TStart := { groups := 28, pc := 0x10000 }
     let s := running [(2, { ended := false, len := 4 })] fun c => { c with tge := { regs := 64, limit := 28, starts := [x] } }
     s.issues 5 = true ∧ ((s.core 5).tge.starts.find? fun y => !y.started) = some x ∧ x.groups ≤ (s.core 5).tge.freeSlots.length) ∧
    ({ starts := [{ id := 3, started := true }] } : Tge).finished 3 = true := by decide +kernel

/-- Check all lanes of w in s, as its right asks. -/
def lanesPass (s : State) (need : Right) (w : DWord) : Bool :=
  match tabGet? (s.core 5).tge.groups 0 with
  | none => false
  | some g => let r := (State.checkLanes 5 need g w g.active {} (s.threadWord 5 g.run.pc).2).1
    r.faults.isEmpty && r.stop.isNone && r.targets.length == g.active.length

theorem witness_ThreadMemoryCompletes :
    -- scratchpad, 4 bytes, from s1 = 0x100: every instruction passes its checks; at s1 = 0x101 one lane faults
    [(tword 0x30 2 1 0 0x2000, Right.read), (tword 0x31 2 1 0 0x2000, .write), (tword 0x38 2 1 3 0x2000, .atomic),
     (tword 0x39 2 1 3 0x2000, .atomic), (tword 0x3A 2 1 3 0x2000, .atomic), (tword 0x3B 2 1 3 0x2000, .atomic),
     (tword 0x3C 2 1 3 0x2004, .atomic), (tword 0x3D 2 1 3 0x2000, .atomic)].all (fun x =>
      let s := threads x.1 fun g => { g with paths := [{ pc := 0x10000, mask := 1#32 }], regs := [(1, 0x100)] }
      let t := threads x.1 fun g => { g with paths := [{ pc := 0x10000, mask := 1#32 }], regs := [(1, 0x101)] }
      readyIn s x.1 && lanesPass s x.2 x.1 && readyIn t x.1 && !lanesPass t x.2 x.1) = true ∧
    -- releases and acquires at device scope
    readyIn (threads (tword 0x31 2 1 0 0x2A00)) (tword 0x31 2 1 0 0x2A00) = true ∧ tOrder (tword 0x31 2 1 0 0x2A00) = 2 ∧
    (threads 0).releaseClear 5 2 = true ∧ readyIn (threads (tword 0x30 2 1 0 0x2600)) (tword 0x30 2 1 0 0x2600) = true := by decide +kernel

theorem witness_LanesAccessMemory :
    (let s := threads 0
     let e : StoreLine := { line := 0x400, mask := 0xFF, data := 0x1122334455667788 }
     let t : Tge := { (s.core 5).tge with stores := [e] }
     t.entry? (none, 0x400, 0) = some e ∧ e.mask &&& byteMask 0 8 = byteMask 0 8 ∧ tLastUse (tword 0x30 2 1 0 0x3000) = false ∧
     t.entry? (none, 0x401, 56) = none ∧ t.stores.length < 32) ∧
    32 ≤ ({ stores := (List.range 32).map fun k => { line := k } } : Tge).stores.length ∧
    ({ stores := (List.range 32).map fun k => { line := k } } : Tge).entry? (none, 0x400, 0) = none := by decide +kernel

/-- An access that its home has performed. -/
def served (a : Ans) : Bool := match a with
  | .done _ => true
  | _ => false

theorem witness_FencesAndBuffersDrain :
    readyIn (threads (tword 0x3F 0 0 0 0xC00)) (tword 0x3F 0 0 0 0xC00) = true ∧ (threads 0).releaseClear 5 0 = true ∧
    readyIn (threads (tword 0x3F 0 0 0 0xE00)) (tword 0x3F 0 0 0 0xE00) = true ∧ tOrder (tword 0x3F 0 0 0 0xE00) = 3 ∧
    (let e : StoreLine := { line := 0x400, mask := 0xFF }
     let s := (threads 0).modCore 5 fun c => { c with tge := { c.tge with stores := [e] } }
     s.serving = true ∧ (s.core 5).tge.stores[(0 : Fin 32).val]? = some e ∧ inMemory e.line = true ∧
     served (s.access { kind := .wrThrough, requester := 20, line := e.line, data := e.data, mask := e.mask, tag := (s.engVia 5 .tge).tag }).1
       = true) ∧
    ({ invq := [(0x400, 1)], lines := [(0, { line := 0x400 })] } : L1).invq = [(0x400, 1)] := by decide +kernel

/-! The cache, coherence and memory. -/

/-- The way that holds line 0x400 in the states below, and its slice. -/
def k400 : Nat := (wayKeys 0x400).headD 0
def n400 : Nat := sliceOf 0x400

/-- In service, with line 0x400 in its slice; f changes the slice, g the cache. -/
def cached (w : Way) (f : Slice → Slice := id) (g : Cache → Cache := id) : State :=
  { base with cache := g { slices := [(n400, f { ways := [(k400, { w with line := 0x400 })] })] } }

/-- Line 0x400 clean in its slice, with this directory state. -/
def kept (d : Dir) (sh : Sharers := {}) (f : Slice → Slice := id) (g : Cache → Cache := id) : State :=
  cached { st := .clean, dir := d, sh := sh } f g

/-- State.homeHit as a Bool. -/
def hits (s : State) (r : Req) (k : Nat) : Bool :=
  let sl := s.slice (sliceOf r.line)
  !s.cache.coh.down && s.sup.on && s.serving && !sl.flushing && (sl.retry.all fun q => q.requester != r.requester)
    && (sl.credited.all fun q => q.1.requester != r.requester) && (sl.entry? r.line).isNone
    && (sl.forwarded.all fun f => f.line != r.line) && sl.find r.line == some k && (foreignOwner (sl.way k) r).isNone
    && (match reqAgent r.requester with
        | none => true
        | some a => s.admits a && (decide (a < 580) || (s.site (a - 580)).closing == 0))

theorem hits_homeHit (s : State) (r : Req) (k : Nat) (h : hits s r k = true) : s.homeHit r k := by
  unfold hits at h
  simp only [Bool.and_eq_true, Bool.not_eq_true', List.all_eq_true, bne_iff_ne, beq_iff_eq, Option.isNone_iff_eq_none] at h
  obtain ⟨⟨⟨⟨⟨⟨⟨⟨⟨⟨h1, h2⟩, h3⟩, h4⟩, h5⟩, h6⟩, h7⟩, h8⟩, h9⟩, h10⟩, h11⟩ := h
  refine ⟨h1, h2, h3, h4, h5, h6, h7, h8, h9, h10, fun a ha => ?_⟩
  rw [ha] at h11
  simp only [Bool.and_eq_true, Bool.or_eq_true, decide_eq_true_eq, beq_iff_eq] at h11
  exact ⟨h11.1, fun hk => h11.2.resolve_left (by omega)⟩

/-- A message stands on its way. -/
def comes (s : State) (kind : MsgKind) (dest : Nat) : Bool := (s.takeMsg kind dest 0x400).isSome

def sent (kind : MsgKind) (dest : Nat) (r : Req := {}) : Msg := { kind := kind, dest := dest, line := 0x400, req := r }

theorem witness_HomeServesRequests :
    -- requesters at the ends of their ranges: an L1, an engine, a hub core, the host, another device
    [0, 1, 2303, 2304, 2308, 2328].all (fun q => hits (kept .i) { requester := q, line := 0x400, len := 1, off := 63 } k400 &&
      hits (kept .i) { kind := .rdShared, requester := q, line := 0x400 } k400 &&
      hits (kept .s { agents := [576] }) { kind := .atomic, requester := q, line := 0x400, off := 56, len := 8 } k400) = true ∧
    [Dir.i, .s, .e 576, .m 576].all (fun d => hits (kept d) { kind := .rdUnique, requester := 2304, line := 0x400 } k400 &&
      hits (kept d) { kind := .upgrade, requester := 2304, line := 0x400 } k400) = true ∧
    reqAgent 0 = some 0 ∧ reqAgent 2300 = some 575 ∧ reqAgent 2304 = some 576 ∧ inMemory 0x400 = true ∧ inMemory (2 ^ 36 - 1) = true ∧
    inMemory (2 ^ 36) = false := by decide +kernel

theorem witness_HomeKeepsTheDirectory :
    (((kept .s).slice n400).way k400).pinned = false ∧ (((kept .s).slice n400).way k400).st = .clean ∧
    (((cached { st := .dirty }).slice n400).way k400).st = .dirty ∧ ({ kind := .atomic, op := .add } : Req).isRed = false ∧
    reqAgent 2300 = some 575 := by decide +kernel

theorem witness_HomeTakesWrites :
    hits (kept .i) { kind := .wrThrough, requester := 2300, line := 0x400 } k400 = true ∧
    hits (kept .i) { kind := .wrInv, requester := 2305, line := 0x400 } k400 = true ∧
    (let r : Req := { kind := .wrInv, requester := 2328, line := 0x400 }
     let s := kept .i {} fun sl => { sl with owedData := [(r, 7)] }
     (s.slice n400).owedData = [(r, 7)] ∧ hits s { r with data := 1, mask := 1 } k400 = true) ∧
    [Dir.e 576, .m 576].all (fun d =>
      let s := kept d {} id fun c => { c with agents := [(576, [(0x400, { owner := true, data := 5 })])] }
      hits s { kind := .wrBack, requester := agentReq 576, line := 0x400 } k400 && !s.missFull n400 0 && (s.agentLine 576 0x400).owner &&
        !(s.agentLine 576 0x400).hold && (s.agentLine 576 0x400).snoop.isNone &&
        !s.travels [.snpInv, .snpShare, .snpRecall] 576 0x400) = true ∧
    (let t : Txn := { why := .clear, dataFrom := some 576, req := { kind := .wrBack, requester := 2304, line := 0x400 } }
     let m : MissEntry := { line := 0x400, way := k400, filling := false, txn := some t }
     ((kept (.e 576) {} fun sl => { sl with miss := [m] }).slice n400).entry? 0x400 = some m ∧ t.dataFrom = some 576 ∧ reqAgent 2304 = some 576) ∧
    (let s := kept .s { l1s := [0, 575] }
     s.cache.coh.down = false ∧ s.sup.on = true ∧ s.serving = true ∧ (s.agentLine 575 0x400).hold = false ∧
     (s.agentLine 575 0x400).owner = false ∧ ((s.slice n400).way k400).dir = .s ∧ (s.slice n400).find 0x400 = some k400) := by
  decide +kernel

theorem witness_SnoopsAreAnswered :
    [SnoopKind.inv, .share, .recall].all (fun kind =>
      -- an L1 whose queue has one place left; an agent that holds the line
      (let s := { kept .s {} id fun c => { c with msgs := [sent kind.msg 575] } with
        cores := [(575, { l1 := { invq := (List.range 63).map fun a => (a, 0) } })] }
       comes s kind.msg 575 && decide ((s.core 575).l1.invq.length < 64)) &&
      (let s := kept .s {} id fun c => { c with msgs := [sent kind.msg 576] }
       comes s kind.msg 576 && !s.travels [.dataE] 576 0x400 && !s.travels [.dataS] (agentReq 576) 0x400 && s.cache.writes.isEmpty &&
         (s.agentLine 576 0x400).snoop.isNone)) = true ∧
    comes (kept .s {} id fun c => { c with msgs := [sent .invAck 0] }) .invAck 0 = true ∧
    ((kept .s).slice n400).entry? 0x400 = none ∧
    [SnoopKind.share, .recall].all (fun kind =>
      let t : Txn := { id := 4, owed := [(576, kind), (577, kind)] }
      let m : MissEntry := { line := 0x400, way := k400, filling := false, txn := some t }
      let s := kept (.e 576) {} (fun sl => { sl with miss := [m] }) fun c => { c with agents := [(576, [(0x400, { owner := true, snoop := some (kind, 4) })])] }
      s.sup.on && s.serving && s.admits 576 && (s.agentLine 576 0x400).snoop == some (kind, 4) && !(s.agentLine 576 0x400).hold &&
        !(s.agentLine 576 0x400).evSent && (s.slice n400).entry? 0x400 == some m && t.id == 4 && t.why != .drop) = true := by decide +kernel

theorem witness_ResponsesArrive :
    (let w : WriteRec := { id := 3, line := 0x400, requester := 1, core := some 0, queue := 2, snooped := true }
     (kept .i {} id fun c => { c with writes := [w] }).cache.writes = [w] ∧ reqAgent w.requester = none) ∧
    (∀ p ∈ (running []).cores, ∀ e ∈ p.2.l1.invq, e.2 ≠ 3) ∧ (running []).fab.inbound = [] ∧
    comes (kept .s {} id fun c => { c with msgs := [sent .dataS 2300] }) .dataS 2300 = true ∧
    comes (kept .s {} id fun c => { c with msgs := [sent .dataE 581] }) .dataE 581 = true ∧
    comes (kept .s {} id fun c => { c with msgs := [sent .rdData 2328] }) .rdData 2328 = true ∧
    comes ({ running [] with cache := { msgs := [sent .fault 20] } }) .fault 20 = true ∧ ((running []).core (20 / 4)).running = true ∧
    (let s := kept (.e 576) {} id fun c => { c with agents := [(576, [(0x400, { owner := true, hold := true })])] }
     (s.agentLine 576 0x400).hold = true ∧ (s.slice n400).find 0x400 = some k400 ∧ (s.slice n400).entry? 0x400 = none ∧
     ((s.slice n400).way k400).dir = .e 576) ∧
    (let r : Req := { requester := 9, line := 0x400 }
     let s := kept .i {} fun sl => { sl with retry := [r] }
     (s.slice n400).retry = [r] ∧ s.missFull n400 0 = false ∧ s.travels [.retry] 9 0x400 = false) := by decide +kernel

theorem witness_SilenceTakesTheDomainDown :
    (let s := { kept (.e 576) {} id fun c => { c with agents := [(576, [(0x400, { owner := true, snoop := some (.recall, 4) })])] } with tim := { now := 20000 } }
     (s.agentLine 576 0x400).snoop.isSome = true ∧ (s.agentLine 576 0x400).hold = false ∧ (s.agentLine 576 0x400).since + 20000 = s.now) ∧
    (let r : Req := { kind := .wrInv, requester := 2328, line := 0x400 }
     let s := { kept .i {} fun sl => { sl with owedData := [(r, 0)], credited := [(r, 0)] } with tim := { now := 20000 } }
     (s.slice n400).entry? 0x400 = none ∧ (s.slice n400).owedData = [(r, 0)] ∧ (s.slice n400).credited = [(r, 0)] ∧ 0 + 20000 = s.now) ∧
    (kept .i).cache.coh.down = false ∧ (kept .i).recov.state = 0 ∧ (kept .i).recov.due < 2 := by decide +kernel

theorem witness_EccCorrectsOneSymbol :
    (errHalf [] 0).length = 0 ∧ (errHalf [(35, 255)] 0).length = 1 ∧ (errHalf [(0, 1), (1, 2)] 0).length = 2 ∧
    (errHalf [(36, 1), (70, 2), (71, 3)] 1).length = 3 ∧ (paged base).memoryCanonical := by
  unfold State.memoryCanonical; decide +kernel

/-- Channel n400 in operation. -/
def channels (s : State) (st : BitVec 4 := 2) : State := s.setChan n400 { s.chan n400 with state := st }

theorem witness_MemoryWorksByItself :
    (let m : MissEntry := { line := 0x400, way := k400, waiters := [{ requester := 1, line := 0x400 }] }
     let s := channels { base with cache := { slices := [(n400, { ways := [(k400, { st := .filling, line := 0x400 })], miss := [m] })] } }
     (s.slice n400).entry? 0x400 = some m ∧ m.filling = true ∧ (s.chan n400).state ≠ 3 ∧ s.serving = true ∧
     (s.chanRead 0x400 0 {} [] []).1.isSome = true ∧ (s.chanRead 0x400 0 {} (errPat [(71, 255)]) []).1.isSome = true) ∧
    (let s := cached { st := .clean, pinned := true }
     (s.slice n400).find 0x400 = some k400 ∧ ((s.slice n400).way k400).pinned = true ∧ ((s.slice n400).way k400).marked = false) ∧
    (let r : Req := { kind := .atomic, requester := 2311, line := 0x400, len := 4, op := .redFp32, data := 0x3F800000, mask := 0xF }
     let s := channels { base with cache := { slices := [(n400, { forwarded := [r] })] } }
     ((s.slice n400).forwarded.find? fun f => f.line == 0x400) = some r ∧ (s.chan n400).state ≠ 3 ∧ s.cache.coh.down = false ∧
     served (s.redAtMemory r [] []).1 = true) ∧
    (let s := { channels base with mem := { (channels base).mem with scrubHours := 24 } }
     s.mem.scrubHours ≠ 0 ∧ (s.chan n400).state = 2 ∧
     (((s.setChan n400 { s.chan n400 with scrub := 1 }).chanRead (lineAt n400 0) 2 {} [] []).1).isSome = true) ∧
    (25 : Int).natAbs ≤ 25 ∧ (-25 : Int).natAbs ≤ 25 ∧ 25 < (-26 : Int).natAbs ∧
    (let s := { channels base with tim := { idle := 3, wakeEnd := some 9 } }
     3 ≤ s.tim.idle.toNat ∧ (∀ p ∈ s.cache.slices, p.2.forwarded = [] ∧ p.2.miss = []) ∧ s.tim.wakeEnd.isSome = true) := by decide +kernel

/-! Links, partner sites, reference time. -/

/-- A 136-byte flit of a die link with this SEQ, one unit of kind 1 and this CRC. -/
def dieFlit (seq crc : Nat) : BitVec 1088 := bitsWord 1088 [(0, seq), (24, 1), (32, 0x55), (1056, crc)]

theorem witness_DieLinksReplay :
    [(dieFlit 0 0x469111BB, none, true), (dieFlit 1 0x3BF46BAB, some 0, true), (dieFlit 0 0x469111BB, some 1023, true), (dieFlit 1023 0x5DECB860, some 1022, true),
     (dieFlit 0 0x3BF46BAB, none, false)].all (fun x =>
      let s : State := { base with links := { links := [(9, { state := 2, dir1 := { last := x.2.1 } })] } }
      let l := (s.link 9).atMs (s.now / 10 ^ 6)
      s.sup.on && l.state == 2 && l.inject.isNone && !(l.side true).discarding && !(l.side true).replaying &&
        (crc32 (leBytes 132 (byteFld x.1 0 132)) == byteFld x.1 132 4) == x.2.2 &&
        (!x.2.2 || fld x.1 9 0 == ((l.side true).last.elim 0 fun x => (x + 1) % 1024))) = true ∧
    (let s : State := { base with links := { links := [(0, { state := 2, lost := true, dir0 := { discarding := true, last := none } })] } }
     (s.link 0).state = 2 ∧ ((s.link 0).side false).discarding = true ∧ ((s.link 0).side false).replaying = false ∧
     (1023#10).toNat = ((s.link 0).side false).last.getD 1023 ∧ (s.link 0).persistent = true) ∧ base.hostWrites = true := by decide +kernel

def okWith {ε α : Type} (p : α → Bool) : Except ε α → Bool
  | .ok a => p a
  | .error _ => false

def errorWith {ε α : Type} (p : ε → Bool) : Except ε α → Bool
  | .ok _ => false
  | .error e => p e

/-- A partner record of a module that offers these modes and draws 40 W. -/
def partnerRecord (modes : Nat) : List Byte :=
  let r := leBytes 124 (1 + 128 * 2 ^ 32 + modes * 2 ^ 128 + 40 * 2 ^ 136)
  r ++ leBytes 4 (crc32 r)

/-- Site 0 in training, with its digests, modes, power and one rule in the configuration record. -/
def training (digest watts : Nat) : State :=
  { base with
    links := { sites := [(0, { state := .training })] }
    sec := { config := List.replicate 0x240 0 ++ leBytes 32 digest ++ List.replicate 224 0
      ++ leBytes 16 (1 + 1 * 2 ^ 8 + watts * 2 ^ 16 + 1 * 2 ^ 32) ++ leBytes 32 (0x10C * 2 ^ 64) } }

/-- Site 0 admitted and fenced, with one rule over the page at 0x10000, and context 17. -/
def fenced (ops : Nat := 0x1F) (f : Site → Site := id) : State :=
  { paged base with links := { sites := [(0, f {
      state := .admitted, rules := [(0, bitsWord 256 [(0, 0x10000), (64, 16), (72, 1), (80, ops), (88, 17), (96, 3), (128, 1024), (160, 1)])]
      buckets := [(0, (1024, 0))] })] } }

theorem witness_PartnerSitesAreFenced :
    (let d := leVal (sha256 (partnerRecord 1))
     let s := training d 40
     (s.site 0).state = .training ∧ (padTo 128 (partnerRecord 1)) = partnerRecord 1 ∧
     okWith (· == false) ((s.setLink 8 { state := 2 }).judge 0 (partnerRecord 1)) = true ∧
     -- each step that can fail
     errorWith (· == 2) ((s.setLink 8 { state := 2 }).judge 0 (List.replicate 128 0)) = true ∧
     errorWith (· == 3) (((training 0 40).setLink 8 { state := 2 }).judge 0 (partnerRecord 1)) = true ∧
     errorWith (· == 5) (((training d 39).setLink 8 { state := 2 }).judge 0 (partnerRecord 1)) = true ∧
     errorWith (· == 4) (((training (leVal (sha256 (partnerRecord 2))) 40).setLink 8 { state := 2 }).judge 0 (partnerRecord 2)) = true) ∧
    -- inbound requests: the first and the last byte of the rule, one beyond, an operation that the rule denies
    [(SiteOp.read, 0x10000, 64), (.write, 0x1FFC0, 64), (.atomic, 0x10008, 8), (.reduce, 0x10000, 4), (.counter, 0x10000, 0)].all (fun x =>
      let s := fenced
      let q : SiteIn := { op := x.1, aop := if x.1 = .reduce then .redFp32 else .add, addr := x.2.1, len := x.2.2, data := padTo x.2.2 [] }
      (s.site 0).state == .admitted && !(s.site 0).openMode && s.sup.on && !s.shut && q.fits &&
        match (s.site 0).rules.find? fun r => ruleHolds r.2 false q.addr q.span with
        | none => false
        | some (i, r) => (ruleFld r 0xA 1).testBit x.1.code && (s.ctx (ruleFld r 0xB 1)).state != .free &&
          (s.ctx (ruleFld r 0xB 1)).partition.toNat == ruleFld r 0xC 1 && decide (s.tim.idle.toNat < 2) && (s.site 0).held.isEmpty &&
          (let p := State.placesOf (siteVia 0 r) x.1.right (cut q.addr q.span) s
           okWith (fun _ => true) p.1 && decide (({ q with rule := i } : SiteIn).cost ≤ (s.site 0).bucket p.2.now i) &&
             (p.2.passSite 0 { q with rule := i }).1.isSome)) = true ∧
    ((fenced.site 0).rules.find? fun r => ruleHolds r.2 false 0x1FFC1 64) = none ∧
    (let q : SiteIn := { addr := 0x10000, len := 1024 }
     let s := fenced 0x1F fun x => { x with held := [q] }
     (s.site 0).held = [q] ∧ (s.site 0).state = .admitted ∧ s.shut = false ∧ q.cost ≤ (s.site 0).bucket s.now q.rule ∧
     (s.passSite 0 q).1.isSome = true) ∧
    (let o : SiteReq := { since := 0 }
     let s := { fenced 0x1F fun x => { x with outbound := [o] } with tim := { now := 20000 } }
     (s.site 0).closing ≠ 2 ∧ (s.site 0).outbound = [o] ∧ o.since + 20000 ≤ s.now ∧ (s.site 0).state = .admitted ∧
     (s.site 0).openMode = false ∧ o.req.tag.core = none) ∧
    (let s := fenced.setLink 8 { state := 2, lost := true }
     (s.link 8).lost = true ∧ (s.link 8).state = 2 ∧ (s.site 0).outbound = [] ∧ (s.site 0).openMode = false) := by decide +kernel

/-- Both pins qualified and REF_PPS in use; f changes the unit. -/
def onPins (f : Tim → Tim := id) : State :=
  { base with tim := f { state := .locked, src := 1, primary := 1, secondary := 2, num := 25, frameLocked := true, now := 20000000000
                         synFrom := 19960000000
                         inputs := [(1, { qualified := true }), (2, { qualified := true }), (5, { qualified := true })] } }

theorem witness_TimeSourcesAreFollowed :
    [(TimeInput.ref10m, RejectCause.stop, 1000), (.ref10m, .jump, 11), (.pps, .stop, 1000200001), (.pps, .jump, 1001), (.frame, .stop, 80000000),
     (.frame, .jump, 2001)].all (fun x => onPins.sup.on && onPins.tim.breaks x.1 x.2.1 x.2.2 && (onPins.tim.input x.1).qualified) = true ∧
    onPins.tim.breaks .ref10m .stop 999 = false ∧ onPins.tim.breaks .pps .jump 1000 = false ∧
    TimeInput.pps.source = onPins.tim.src.toNat ∧ ((onPins fun t => { t with rejects := 0xFFF }).tim.rejects) = 0xFFF ∧
    (onPins fun t => { t with inputs := [] }).tim.mayQualify .ptpFabric = true ∧
    (onPins fun t => { t with inputs := [(5, { good := 17 })] }).tim.mayQualify .frame = true ∧
    [1, 2, 3].all (fun n => let s := onPins fun t => { t with state := .acquiring, src := BitVec.ofNat 3 n
                                                              inputs := t.inputs ++ [(3, { qualified := true }), (4, { qualified := true })] }
      s.tim.state == .acquiring && s.tim.sourceOk n && s.tim.src.toNat == n && !s.tim.stepped) = true ∧
    (202000 : Int).natAbs ≤ 202000 ∧ 1000 < (1001 : Int).natAbs ∧ (-1000 : Int).natAbs ≤ 1000 := by decide +kernel

theorem witness_PulsesFramesAndPtpMeasure :
    ((onPins).tim.todValid = false ∧ onPins.tim.setTo = none ∧ ((20000000000 : Int) - (19000001000 + 10 ^ 9 : Nat)).natAbs ≤ 1000 ∧
      200000 < ((20000000000 : Int) - (18999799999 + 10 ^ 9 : Nat)).natAbs) ∧
    (let s := onPins fun t => { t with setTo := some (20, 7) }
     s.tim.setTo = some (20, 7) ∧ s.tim.lastPps = none ∧ s.tim.src.toNat = 1 ∧ s.now ≤ 20 * 10 ^ 9 ∧ s.cmds = []) ∧
    onPins.tim.num ≠ 0 ∧ (onPins.tim.input .frame).qualified = true ∧ onPins.tim.nextRate = none ∧
    onPins.tim.breaks .frame .jump ((onPins.now : Int) - (onPins.tim.synFrom + onPins.tim.frames (onPins.tim.synCount + 1) : Nat)).natAbs = false ∧
    (let s := onPins fun t => { t with frameHoldover := true, nextRate := some (30, 1) }
     s.tim.frameHoldover = true ∧ s.tim.nextRate = some (30, 1) ∧ s.tim.synFrom + s.tim.frames (s.tim.synCount + 1) ≤ s.now) ∧
    (let s : State := { onPins fun t => { t with src := 2, ports := [(17, { syncAt := some 20000000000, t1 := some 19999999000 })] } with
        fab := { ports := [(17, { state := 2 })] } }
     (s.port 17).up = true ∧ (s.tim.port 17).syncAt = some 20000000000 ∧ s.tim.src.toNat = 2 ∧ (s.tim.port 17).t1 = some 19999999000 ∧
     s.tim.breaks .ptpFabric .jump ((20000001000 : Int) + (s.port 17).delayNs.toNat - 20000000000).natAbs = false) ∧
    (let s := onPins fun t => { t with src := 3 }
     s.hostUp = true ∧ s.tim.src.toNat = 3 ∧ s.tim.breaks .ptpHost .jump ((20000001000 : Int) - s.now).natAbs = false) := by decide +kernel

/-! Commands. -/

/-- The command of ring r of function f at an index, if its opcode's checks let it start now, and the state after them. -/
def started (s : State) (f r i op : Nat) (params : State → Cmd → Chk) : Option (Cmd × State) :=
  match s.cmdAt f r i, opInfo op with
  | some c, some (_, pf) =>
    let u : State := if c.namesCtx then { s with hdTlb := tabDel s.hdTlb c.ctx } else s
    let v := u.modCmd c.id fun y => { y with started := true, waiting := false }
    if !(c.started && !c.waiting) && s.turn c && s.serving && s.hub.bootStatus == 0 && c.op == op && (!pf || f == 0) && (op != 3 || c.f 0x24 1 < 8)
        && (s.mayName f c.ctx || (!c.namesCtx && op != 0x28)) && (s.ctx c.ctx).state != .tearing && (s.ctx c.ctx).state != .faulted
        && okWith (fun _ => true) (params v c) then some ({ c with started := true, waiting := false }, v)
    else none
  | _, _ => none

theorem started_starts (s : State) (f r i op : Nat) (params : State → Cmd → Chk) (c : Cmd) (v : State) (h : started s f r i op params = some (c, v)) :
    s.starts f r i op params c v := by
  unfold started at h
  split at h
  · next c0 n pf h1 h7 =>
    simp only [Option.ite_none_right_eq_some, Option.some.injEq, Prod.mk.injEq] at h
    obtain ⟨hc, rfl, rfl⟩ := h
    · 
      simp only [Bool.and_eq_true, Bool.not_eq_true', beq_iff_eq, bne_iff_ne, Bool.or_eq_true, decide_eq_true_eq] at hc
      obtain ⟨⟨⟨⟨⟨⟨⟨⟨⟨⟨a1, a2⟩, a3⟩, a4⟩, a5⟩, a6⟩, a7⟩, a8⟩, a9⟩, a10⟩, a11⟩ := hc
      intro run
      unfold State.startCmd
      rw [h1]; dsimp only
      rw [a5, h7, a2, a3, a4]
      rw [if_neg (by simp [a1]), if_neg (by simp)]
      dsimp only
      rw [if_neg (by simp), if_neg (by simp [a9])]
      have c1 : (!(op == 3 && decide (8 ≤ c0.f 0x24 1))) = true := by
        rcases a7 with a | a
        · simp [a]
        · simp [a]
      have c2 : (!pf || f == 0) = true := by rcases a6 with a | a <;> simp [a]
      have hm : (if c0.namesCtx = true then ({ s with hdTlb := tabDel s.hdTlb c0.ctx } : State) else s).mayName f c0.ctx = s.mayName f c0.ctx := by
        split <;> rfl
      have c3 : (!(c0.namesCtx || op == 0x28) || s.mayName f c0.ctx) = true := by
        rcases a8 with a | ⟨a, b⟩
        · simp [a]
        · simp [a, b]
      have c4 : ((s.ctx c0.ctx).state == CtxState.faulted) = false := by simpa using a10
      have c5 : ∀ e : Status × Nat, params ((if c0.namesCtx = true then ({ s with hdTlb := tabDel s.hdTlb c0.ctx } : State) else s).modCmd c0.id
          fun y => { y with started := true, waiting := false }) c0 ≠ .error e := by
        intro e he
        rw [he] at a11; simp [okWith] at a11
      simp only [c1, c2, hm, c3, c4, chk, Bool.and_false, Bool.not_false, Bool.true_or, if_true, bind, Except.bind]
      split
      · next e he => exact absurd he (c5 e)
      · rfl
  · simp at h

/-! The calendar, idle states. -/

/-- An entry of this class at index 300 has fallen due. -/
def dueEntry (cls : BitVec 8) (arg : BitVec 64 := 0) : CalEntry := { due := 100, cls := cls, context := 17, partition := 3, arg := arg }

def dueState (e : CalEntry) (i : Nat := 300) : State := { paged base with tim := { now := 100 }, cal := { entries := [(i, e)] } }

theorem witness_CalendarEntriesFire :
    [2, 3, 4, 6, 7].all (fun cls => (dueState (dueEntry cls)).turnOf 300 cls.toNat == some (dueEntry cls) &&
      (dueState { dueEntry cls with period := 1000 }).turnOf 300 cls.toNat == some { dueEntry cls with period := 1000 }) = true ∧
    (dueEntry 2).past = false ∧ (dueState (dueEntry 2)).cal.fired < 64 ∧ (dueEntry 2).arg.toNat % 2 = 0 ∧
    -- the deadline of a LAUNCH that is not late yet
    (let s := { dueState { dueEntry 3 with cmd := 1 } with cmds := [{ id := 1, launch := some { prim := {} } }] }
     (s.cmd? 1).map (·.launch) = some (some { prim := {} }) ∧ ({ prim := {} } : Launch).late = false) ∧
    (let e := dueEntry 5 0x10000
     let s := dueState e
     s.turnOf 300 5 = some e ∧ s.shut = false ∧
     okWith (fun _ => true) (s.vwrite (s.hdVia e.context.toNat) (e.arg.toNat / 64 * 64) (s.telemetryRecord e false)).1 = true) ∧
    (let e : CalEntry := { due := 100, cls := 1, arg := 5 }
     let s := { dueState e 4 with sol := { sched := [(3, { state := 3, paceGroup := 5, decision := some (2, false) })] } }
     s.turnOf (1 + 3) 1 = some e ∧ e.dueAt s.tim = some 100 ∧ (s.sched 3).paceGroup.toNat = e.arg.toNat % 65536 ∧ (s.sched 3).state = 3 ∧
     (s.sched 3).joining = none ∧ (s.sched 3).epochAt < 100 ∧ (s.sched 3).decision = some (2, false)) ∧
    (let s : State := { base with tim := { now := 100 }, pwr := { rises := [(5, 100, 17)], falls := [(5, 99, 17)] } }
     ∀ r ∈ s.pwr.rises ++ s.pwr.falls, r.2.1 ≤ s.now) := by decide +kernel

theorem witness_IdleStatesEnterAndWake :
    (base.isIdle = true ∧ base.tim.wakeEnd = none ∧ base.tim.idle.toNat < base.idleChoice ∧ base.idleChoice < 4) ∧
    (let s := { base with tim := { maxState := 4 } }
     s.isIdle = true ∧ s.tim.wakeEnd = none ∧ s.tim.idle.toNat < s.idleChoice ∧ s.idleChoice = 4 ∧ s.askOwners.1 = false) ∧
    (let s := { dueState (dueEntry 2) with tim := { idle := 2 } }
     s.nextCompute = some 100 ∧ 2 ≤ s.tim.idle.toNat ∧ s.tim.wakeEnd = none ∧ 100 ≤ s.now + idleWake s.tim.idle.toNat + 1000 * s.tim.margin.toNat) ∧
    (let s := { base with tim := { idle := 2, now := 100, wakeEnd := some 100 } }
     s.tim.wakeEnd = some 100 ∧ 100 ≤ s.now ∧ ∀ p ∈ s.mem.chans, p.2.state ≠ 3) := by decide +kernel

/-! The fabric and the Solstice path. -/

/-- A 268-byte flit of a fabric port with this SEQ, one unit of kind 1 and this CRC. -/
def portFlit (seq crc : Nat) : BitVec 2144 := bitsWord 2144 [(0, seq), (40, 1), (64, 0x55), (2112, crc)]

theorem leBytes_add (m n v : Nat) : leBytes (m + n) v = leBytes m v ++ leBytes n (v / 256 ^ m) := by
  induction m generalizing v with
  | zero => simp [leBytes]
  | succ m ih => rw [Nat.succ_add]; simp only [leBytes, ih, List.cons_append, Nat.div_div_eq_div_mul, Nat.pow_succ, Nat.mul_comm]

/-- A CRC over 264 bytes in two halves. -/
theorem crc264 (v r t : Nat) (h1 : (leBytes 132 v).foldl crc32Byte 0xFFFFFFFF = r)
    (h2 : (leBytes 132 (v / 256 ^ 132)).foldl crc32Byte r = t) : crc32 (leBytes 264 v) = t ^^^ 0xFFFFFFFF := by
  rw [show 264 = 132 + 132 from rfl, leBytes_add, crc32, List.foldl_append, h1, h2]

theorem portFlit_crc : crc32 (leBytes 264 (byteFld (portFlit 0 0x849F9ADD) 0 264)) = 0x849F9ADD ∧
    crc32 (leBytes 264 (byteFld (portFlit 65535 0xAE79BD1B) 0 264)) = 0xAE79BD1B ∧ crc32 (leBytes 264 (byteFld (portFlit 0 0xAE79BD1B) 0 264)) = 0x849F9ADD := by
  rw [show byteFld (portFlit 0 0x849F9ADD) 0 264 = 0x550000010000000000 by decide +kernel, show byteFld (portFlit 65535 0xAE79BD1B) 0 264 = 0x55000001000000FFFF by decide +kernel,
    show byteFld (portFlit 0 0xAE79BD1B) 0 264 = 0x550000010000000000 by decide +kernel]
  exact ⟨crc264 _ 0x22F7CB08 0x7B606522 (by decide +kernel) (by decide +kernel), crc264 _ 0xA86FD0F3 0x518642E4 (by decide +kernel) (by decide +kernel),
    crc264 _ 0x22F7CB08 0x7B606522 (by decide +kernel) (by decide +kernel)⟩

/-- Port k in operation. -/
def withPort (s : State) (k : Nat) (f : Port → Port := id) : State := s.setPort k (f { state := 2 })

/-- A header with these fields over these data bytes, its CRC in place. -/
def packetHdr (fs : List (Nat × Nat)) (data : List Byte := []) : Line :=
  let w : Line := bitsWord 512 (fs.map fun f => (8 * f.1, f.2))
  w + BitVec.ofNat 512 (crc32 ((lineBytes w).take 60 ++ data) * 2 ^ 480)

theorem witness_FabricPortsReplay :
    [(0, none), (0, some 65535), (65535, some 65534)].all (fun x =>
      let s := withPort base 17 fun p => { p with rx := { last := x.2 } }
      let p := (s.port 17).atMs (s.now / 10 ^ 6)
      s.sup.on && p.up && fld (portFlit x.1 0) 15 0 == (p.rx.last.elim 0 fun x => (x + 1) % 65536)) = true ∧
    byteFld (portFlit 0 0x849F9ADD) 264 4 = 0x849F9ADD ∧ byteFld (portFlit 65535 0xAE79BD1B) 264 4 = 0xAE79BD1B ∧ byteFld (portFlit 0 0xAE79BD1B) 264 4 ≠ 0x849F9ADD ∧
    ((withPort base 0 fun p => { p with lost := true }).port 0).up = true ∧ ((withPort base 0 fun p => { p with lost := true }).port 0).lost = true ∧
    -- a packet for device 1, by port 0, which is up or down
    (let h := packetHdr [(0, 1), (8, 2 ^ 42)]
     let s := { withPort (withPort base 17) 0 with fab := { (withPort (withPort base 17) 0).fab with size := 64 } }
     packetDest h = 1 ∧ packetDest h ≠ s.fab.device.toNat ∧ s.route 1 = some 0 ∧ (s.port 0).up = true ∧ (s.port 17).up = true ∧
     ((s.setPort 0 {}).port 0).up = false) := by decide +kernel

/-- A request of device 1 under index 3, for 64 bytes of this device at 0x40, and the export that admits it. -/
def askHdr (op aop len : Nat) (data : List Byte := []) : Line :=
  packetHdr [(0, op), (2, 1), (4, 17), (5, 3), (6, aop), (8, 0x40), (0x10, 3), (0x14, 1), (0x18, len), (0x1C, 9), (0x1E, 2)] data

def exporting (rights : BitVec 8 := 0x1F) : State :=
  let s := withPort base 17
  { s with fab := { s.fab with segs := [(3, { kind := 2, sizeLog2 := 6, rights := rights, partition := 3, offset := 0x40, device := 1, count := 1, generation := 1 })] } }

theorem witness_RemoteRequestsAreServed :
    [(1, 0, 64, []), (2, 0, 2, [1, 2]), (3, 0x20, 0, []), (4, 0, 4, [0, 0, 0x80, 0x3F]), (5, 0, 0, [])].all (fun x =>
      let h := askHdr x.1 x.2.1 x.2.2.1 x.2.2.2
      let s := exporting
      s.sup.on && (s.port 17).up && packetDest h == s.fab.device.toNat && packetOk h x.2.2.2 && (s.judgeIn h).isNone && !s.shut &&
        decide (s.tim.idle.toNat < 2) && hf h 0 1 == x.1 && okWith (fun _ => true) (s.accessAll (inboundReqs 17 h x.2.2.2)).1 &&
        -- without the right; with a length beyond the export
        (exporting 0).judgeIn h == some .denied && (x.1 == 3 || x.1 == 5 || s.judgeIn (askHdr x.1 x.2.1 68 x.2.2.2) == some .badParam)) = true ∧
    packetOk (askHdr 1 0 64 + 1) [] = false ∧ packetDest (askHdr 1 0 64 + 1) = 0 ∧
    ({ exporting with recov := { state := 1 } } : State).shut = true ∧
    (tabGet {} exporting.fab.segs (hf (askHdr 1 0 64) 0x10 4 % 2 ^ 21)).kind = 2 := by decide +kernel

def answerHdr (op flags status tag : Nat) (data : List Byte := []) : Line :=
  packetHdr [(0, op), (1, flags), (6, status), (8, 2 ^ 42), (0x1C, tag), (0x18, data.length)] data

theorem witness_RemoteResponsesArrive :
    (let o : Outstanding := { tag := 16383, core := 5, queue := 2, dest := .buffer 5 }
     let t := withPort (running [(2, { ended := false, len := 4 })]) 17
     let s := { t with fab := { t.fab with tracker := [o] }, tim := { now := 10000000 } }
     [answerHdr 0x81 0 0 16383 [1], answerHdr 0x82 0 0 16383, answerHdr 0x8F 0 0x21 16383].all (fun h =>
       let d : List Byte := if hf h 0 1 = 0x81 then [1] else []
       s.sup.on && (s.port 17).up && packetDest h == s.fab.device.toNat && packetOk h d && !s.shut && !(hf h 1 1).testBit 1 &&
         (s.fab.tracker.find? fun o => o.tag == hf h 0x1C 2 % 2 ^ 14) == some o) = true ∧
     o.queue = Eng.tge.num ∧ (s.core o.core).resident = true ∧ (s.core o.core).stopped = false ∧
     (s.fab.tracker.find? fun o => o.tag == hf (answerHdr 0x81 0 0 0) 0x1C 2 % 2 ^ 14) = none ∧
     (s.fab.tracker.find? fun o => o.tag == 16383 && decide (o.since + 10 ^ 7 ≤ s.now)) = some o) := by decide +kernel

/-- Schedule g in slot 20 of its epoch 0. -/
def scheduled (g : Nat) (x : Schedule) : State :=
  { paged base with tim := { now := 2000 }, sol := { sched := [(g, { x with state := 3, slotNs := 100, share := 100, partition := 3, digest := List.replicate 32 1 })] } }

theorem witness_SolsticeGroupsAreRelayed :
    [576, 3071, 3090, 4095].all (fun p =>
      let e : SlotEntry := { point := p, source := 100, first := 20, slots := 1, stream := 7, units := 2 }
      let s := scheduled 3 { entries := [e], queues := [(queueKey p 7, [{ due := 19 }, { due := 20 }, { due := 20 }])] }
      let x := s.sched 3
      s.sup.on && x.slotNow s.now == some (20, true) && (x.entries.filter fun e => e.point == p && e.at_ 20) == [e] && e.source != 4095 &&
        decide (zGet x.sentAt p ≤ x.abs 20) && (List.range 3).all fun j => s.sched j == {}) = true ∧
    (let e : SlotEntry := { point := 1029, source := 3217, first := 20, slots := 1, stream := 7, units := 1, delay := 5 }
     let s := withPort (scheduled 2 { entries := [e] }) 17
     let h : Line := bitsWord 512 [(32, 15), (48, 1), (64, 0x01010101), (128, 7), (144, 1)]
     let x := s.sched 2
     (s.port 17).up = true ∧ (∀ j, j < 2 → (s.sched j).state = 0) ∧ x.tag = lineRd h 8 4 ∧ x.epoch.toNat % 2 ^ 32 = lineRd h 0 4 ∧
     lineRd h 6 1 = 1 ∧ [(0 : Line)].length = lineRd h 0x12 2 ∧ lineRd h 4 2 % 4096 = 15 ∧ lineRd h 0x10 2 = 7 ∧
     x.fedBy 3217 7 15 = [e] ∧ x.fedBy 3217 7 16 = [] ∧ [(0 : Line)].length ≤ e.units ∧
     x.held (pointDie e.point) + 1 ≤ s.bufferUnits 2 (pointDie e.point)) := by decide +kernel

theorem witness_UnitsLandAndRecordsDecide :
    (let u : SolUnit := { due := 20, data := 5 }
     let r : StreamRec := { stream := 7, context := 17, sinkCore := 5, ringLog2 := 12, ringVa := 0x10000, ctrVa := 0x1FF00 }
     let e : SlotEntry := { point := 1029, source := 3217, first := 20, slots := 1, stream := 7, units := 1 }
     let s := scheduled 1 { entries := [e], streams := [r], queues := [(queueKey 1029 7, [u])] }
     let x := s.sched 1
     x.slotNow s.now = some (20, true) ∧ tabGet [] x.queues (queueKey 1029 7) = [u] ∧
     (x.streams.find? fun r => r.stream == 7) = some r ∧ e.at_ 20 = true ∧ x.state = 3 ∧ s.serving = true ∧ u.due = x.abs 20 ∧
     (tabGet {} x.str 7).slotAt ≠ x.abs 20 ∧
     ((s.setSched 1 ((x.setQueue (queueKey 1029 7) []).modStr 7 fun y => { y with slotAt := x.abs 20, slotCount := 1 })).landUnit 1
       r u.data).isSome = true) ∧
    (let u : SolUnit := { due := 20 }
     let s := scheduled 0 { epoch := 1, queues := [(queueKey 600 7, [u])] }
     (s.sched 0).slotNow s.now = some (20, true) ∧ tabGet [] (s.sched 0).queues (queueKey 600 7) = [u] ∧ u.due + 4096 ≤ (s.sched 0).abs 20 ∧
     (s.sched 0).state ≠ 5 ∧ (s.sched 0).fault = 0 ∧ s.recov.state = 0 ∧ s.recov.due < 2) ∧
    (let u : SolUnit := { due := 20, data := bitsWord 512 [(72, 24), (80, 1), (96, 0x01010101)] }
     let s := scheduled 3 { queues := [(queueKey 4094 65535, [u])]
                            entries := [{ point := 4094, source := 4095, first := 10, slots := 1, units := 1 }, { point := 4094, source := 100, first := 20, slots := 1, units := 1 }] }
     let x := s.sched 3
     x.state = 3 ∧ x.slotNow s.now = some (20, true) ∧ tabGet [] x.queues (queueKey 4094 65535) = [u] ∧ u.due = x.abs 20 ∧
     lineRd u.data 0 8 = x.epoch.toNat ∧ lineRd u.data 8 1 = x.pace.toNat ∧ lineRd u.data 12 4 = x.tag ∧ recDown u.data = true ∧
     x.root = false ∧ x.decision = none ∧ lineRd (u.data + 1) 0 8 ≠ x.epoch.toNat) ∧
    (let s := { scheduled 3 {} with tim := { now := 409600 } }
     (s.sched 3).state = 3 ∧ (s.sched 3).decision = none ∧ (s.sched 3).epochAt + (s.sched 3).period (s.sched 3).pace.toNat ≤ s.now) := by
  decide +kernel

/-- A command packet: OPCODE, LENGTH, CONTEXT 17 and these fields. -/
def packet (op len : Nat) (fs : List (Nat × Nat)) : Line := sealedLine ([(0, op), (2, len), (8, 17)] ++ fs)

/-- Context 17 of partition 3 with its quotas, and the packet in hand on ring 0 of the physical function; f changes the state. -/
def inHand (p : Line) (f : State → State := id) : State :=
  f { paged base with
      cmds := [{ id := 1, pkt := p }], nextCmd := 2, tim := { todValid := true, num := 25, now := 5000 }
      ctxs := [(17, { state := .active, partition := 3, root := 0x1000, coreCount := 576 })]
      parts := [(3, { memGib := 4094, ctxFirst := 16, ctxCount := 16, coreCount := 576, segFirst := 16, segCount := 64, calQuota := 8 })] }

/-- The command starts, and then q holds of it and of the state. -/
def startsWith (s : State) (op : Nat) (params : State → Cmd → Chk) (q : Cmd → State → Bool := fun _ _ => true) : Bool :=
  match started s 0 0 0 op params with
  | some (c, u) => q c u
  | none => false

theorem startsWith_starts (s : State) (op : Nat) (params : State → Cmd → Chk) (q : Cmd → State → Bool) (h : startsWith s op params q = true) :
    ∃ c u, s.starts (0 : Fin 16) (0 : Fin 4) (0 : BitVec 32).toNat op params c u ∧ q c u = true := by
  unfold startsWith at h
  split at h
  · next c u e => exact ⟨c, u, started_starts s 0 0 0 op params c u e, h⟩
  · cases h

/-- CAL_ARM of class 5, and a launch descriptor without cores. -/
def calArm : Line := packet 0x03 36 [(0x10, 6000), (0x18, 1000), (0x24, 5)]
def launchBytes : List Byte := let b := leBytes 124 (1 + 2 ^ 40); b ++ leBytes 4 (crc32 b)

theorem witness_ContextAndCalendarCommands :
    startsWith (inHand (packet 0x00 0 [])) 0x00 (fun s c => s.inOrder c (.ok ()) (.ok ()) (.ok ())) = true ∧
    startsWith (inHand (packet 0x01 20 [(0x14, 4)])) 0x01 queryParams
      (fun c u => okWith (fun _ => true) (u.resultTo c (c.f 0x0D 1) (c.f 0x18 8) (u.queryBytes c)).1) = true ∧
    startsWith (inHand (packet 0x02 20 [(0x0C, 6000), (0x19, 1), (0x1A, 3600), (0x1C, 10000000)])) 0x02 phaseParams
      (fun c u => (u.armFor c.ctx { due := 6000, cls := 2 }).isSome) = true ∧
    startsWith (inHand calArm) 0x03 calArmParams (fun c u => (u.armFor c.ctx { due := 6000, cls := 5 }).isSome) = true ∧
    startsWith (inHand calArm fun s => { s with tim := { s.tim with todValid := false } }) 0x03 calArmParams
      (fun c u => (u.armFor c.ctx { due := 6000, cls := 5 }).isNone) = true ∧
    [4999, 5099, 5100].all (fun due => startsWith (inHand (packet 0x04 4 [(0x0C, 4095)]) fun s => { s with cal := { entries := [(4095,
        { due := due, cls := 5, context := 17 })] } }) 0x04 calCancelParams (fun c u =>
      (((tabGet {} u.cal.entries (c.f 0x0C 4)).dueAt u.tim).all fun d => decide (u.now / 100 < d / 100)) == (due == 5100))) = true ∧
    startsWith (inHand (packet 0x05 32 [(0x28, 768)])) 0x05 attestParams (fun c u => okWith (fun _ => true) (u.resultTo c (c.f 0x0C 1) 0 []).1) = true ∧
    startsWith (inHand (sealedLine [(0, 0x08), (2, 16), (8, 18), (0x14, 1), (0x1A, 576)])) 0x08 createParams = true ∧
    startsWith (inHand (packet 0x09 6 [(0x0C, 7), (0x0E, 1)])) 0x09 attrParams = true ∧
    startsWith (inHand (packet 0x0A 0 [])) 0x0A (fun s c => s.inOrder c (.ok ()) (.ok ()) (.ok ())) (fun c u => (u.ctx c.ctx).tear.isNone) = true ∧
    [0, 1].all (fun m => startsWith (inHand (packet 0x0B 9 [(0x0C, 2 ^ 30), (0x14, m)])) 0x0B apertureParams (fun c _ => (c.f 0x14 1).testBit 0 == (m == 1))) = true ∧
    -- LAUNCH with its descriptor at 0x10000, and with one whose CRC is wrong
    [(0 : BitVec 8), 1].all (fun x => startsWith (inHand (packet 0x10 33 [(0x0C, 0x10000), (0x28, 5)]) fun s => { s with mem := { s.mem with
        bytes := memWrN s.mem.bytes 0x10000 (launchBytes.set 8 x) } }) 0x10 (fun s c => if (s.ctx c.ctx).state = .free then s.headChecks c 33 else .ok ())
      (fun c u => c.f 0x14 8 == 0 && (let r := u.vread { u.hdVia c.ctx with checked := true } (c.f 0x0C 8) 128
        okWith (fun d => okWith (fun _ => true) (launchChecks r.2 c d none) == (x == 0)) r.1))) = true ∧
    [[], [({ id := 7, started := true } : Cmd)]].all (fun l => startsWith (inHand (packet 0x11 8 []) fun s => { s with cmds := s.cmds ++ l }) 0x11 abortParams
      (fun c u => (u.cmds.find? fun d => d.fn == c.fn && d.ring == c.f 0x0C 1 && d.seq == c.f 0x10 4 && d.id != c.id && !d.status.final).isSome == !l.isEmpty)) = true ∧
    startsWith (inHand (packet 0x25 4 [(0x0C, 4), (0x0E, 1000)])) 0x25 idleParams = true := by decide +kernel

/-- An image without streams, with one entry of the pace point, whose two CRCs hold. -/
def imageBytes : List Byte :=
  let e := leBytes 16 (4094 + 4095 * 2 ^ 16 + 1 * 2 ^ 48 + 65535 * 2 ^ 64 + 1 * 2 ^ 80)
  let h := leBytes 124 ([(0, 1), (4, 144), (0x34, 8), (0x36, 104), (0x3A, 1), (0x3C, 1), (0x44, 1), (0x4C, crc32 e)].foldl (fun a f => a + f.2 * 2 ^ (8 * f.1)) 0)
  h ++ leBytes 4 (crc32 h) ++ e

/-- One firewall rule over the page at 0x10000 with this burst. -/
def ruleBytes (burst : Nat) : List Byte := leBytes 32 (0x10000 + 16 * 2 ^ 64 + 2 ^ 72 + 31 * 2 ^ 80 + 17 * 2 ^ 88 + 3 * 2 ^ 96 + 1024 * 2 ^ 128 + burst * 2 ^ 160)

theorem witness_SegmentScheduleAndPartitionCommands :
    [1, 2].all (fun kind => startsWith (inHand (packet 0x18 36 [(0x0C, 16), (0x10, kind), (0x11, 21), (0x12, 31), (0x13, 17), (0x14, 3),
        (0x16, if kind = 1 then 63 else 0), (0x24, if kind = 1 then 0 else 64)]) fun s => { s with fab := { s.fab with size := 64 } }) 0x18 segMapParams
      (fun c _ => (segOf fun off n => c.f (0x10 + off) n).kind == kind)) = true ∧
    startsWith (inHand (packet 0x19 4 [(0x0C, 16)]) fun s => { s with fab := { s.fab with segs := [(16, { kind := 2, context := 17 })] } }) 0x19 segUnmapParams
      (fun _ u => u.fab.unmaps.isEmpty && u.fab.inbound.isEmpty && u.fab.tracker.isEmpty) = true ∧
    -- SCHED_LOAD of an image at 0x10000 that passes, and one whose CRC fails
    [(0 : BitVec 8), 1].all (fun x => startsWith (inHand (packet 0x1A 16 [(0x0C, 3), (0x10, 0x10000), (0x18, 144)]) fun s => { s with mem := { s.mem with
        bytes := memWrN s.mem.bytes 0x10000 (imageBytes.set 0x30 x) } }) 0x1A (fun s c => if (s.ctx c.ctx).state = .free then s.headChecks c 16 else .ok ())
      (fun c u => let r := u.vread { u.hdVia c.ctx with checked := true } (c.f 0x10 8) (imageSpan (c.f 0x18 4))
        okWith (fun b => let m := imageOf b
          let y := m.load (r.2.sched (c.f 0x0C 1))
          let v := State.allReach y.streams r.2
          c.f 0x18 4 == imageLength m.head && okWith (fun _ => true) v.1 && okWith (fun _ => true) (loadChecks v.2 c m y (c.f 0x18 4) true) == (x == 0)) r.1)) = true ∧
    [(2, 0), (5, 0), (1, 1)].all (fun x => startsWith (inHand (packet 0x1B 2 [(0x0C, 3), (0x0D, x.2)]) fun s => { s with
        sol := { sched := [(3, { state := BitVec.ofNat 3 x.1 })] } }) 0x1B stopParams
      (fun c u => (u.sched (c.f 0x0C 1)).state.toNat == x.1 && (c.f 0x0D 1).testBit 0 == (x.2 == 1))) = true ∧
    -- PART_CONFIG, unsealed with all ways and sealed with four
    [(0, 0xFFF, 0), (1, 0xF, 1)].all (fun x => startsWith (inHand (packet 0x20 12 [(0x0C, 3), (0x0D, x.1), (0x0E, x.2.1), (0x10, x.2.2), (0x12, x.2.2), (0x16, x.2.2)])
        fun s => { s with cache := { s.cache with parts := (List.range 16).map fun q => (q, { ways := 0xFF0 }) } }) 0x20 partParams
      (fun c u => let v := if (c.f 0x0D 1).testBit 0 then u.fenceSites else (true, u)
        v.1 && (v.2.purge (affectedWays (u.llcPart 3) { ways := 0xF, sealed := true })).1)) = true ∧
    [(1, true), (0, false)].all (fun x => startsWith (inHand (packet 0x21 12 [(0x0C, 1), (0x0E, 63), (0x0F, 1)])) 0x21 fwParams
      (fun c u => c.f 0x0D 1 == 0 && rulesOk (tabSet (u.site 1).rules 63 (BitVec.ofNat 256 (byteAt (padTo 32 (ruleBytes x.1)) 0 32))) == x.2)) = true ∧
    [(1, SiteState.admitted), (0, .empty)].all (fun x => startsWith (inHand (packet 0x22 1 [(0x0C, 1)]) fun s => { s with
        links := { s.links with sites := [(1, { state := x.2, resetBy := x.1 })] }, sec := { s.sec with config := List.replicate 0xD00 1 } }) 0x22 siteResetParams
      (fun c u => (u.site 1).outbound.isEmpty && ((u.site 1).resetBy == c.id) == (x.1 == 1) && (u.site 1).state != .training)) = true ∧
    startsWith (inHand (packet 0x23 12 [(0x0C, 1), (0x0D, 2), (0x14, 30), (0x16, 1)])) 0x23 timeConfigParams = true ∧
    startsWith (inHand (packet 0x24 8 [(0x0C, 7)]) fun s => { s with tim := { s.tim with todValid := false, src := 1 } }) 0x24 timeSetParams = true ∧
    [0, 1].all (fun k => startsWith (inHand (packet 0x28 1 [(0x0C, k)])) 0x28 resetParams (fun c u => u.recov.state == 0 && u.recov.due == 0 && c.f 0x0C 1 == k))
      = true := by decide +kernel

theorem witness_JoinFindsOneStart :
    startsWith (inHand (packet 0x1C 16 [(0x0C, 3), (0x18, 60000)]) fun s => { s with sol := { sched := [(3, { state := 1, members := 2, partition := 3 })] } }) 0x1C joinParams
      (fun c u => c.f 0x0E 2 == u.fab.device.toNat) = true ∧
    startsWith (inHand (packet 0x1C 16 [(0x0C, 0), (0x0E, 1), (0x18, 1)]) fun s => { s with sol := { sched := [(0, { state := 1, members := 2, partition := 3 })] } }) 0x1C joinParams
      (fun c u => c.f 0x0E 2 != u.fab.device.toNat) = true ∧
    (let m : JoinMember := { device := 1 }
     let j : Joining := { leader := 0, members := [m], deadline := 2000 }
     let s := scheduled 3 {}
     let t := s.setSched 3 { s.sched 3 with state := 2, first := 0, members := 3, joining := some j }
     t.joining 3 = some j ∧ j.leader = t.fab.device.toNat ∧ (2#16).toNat ≠ j.leader ∧ (t.sched 3).member (2#16).toNat = true ∧
     (∀ m ∈ j.members, m.device ≠ (2#16).toNat) ∧ j.members = [m] ∧ m.device = (1#16).toNat ∧ m.offset = none ∧ j.go = none ∧ j.deadline ≤ t.now) ∧
    (let j : Joining := { leader := 1 }
     let s := scheduled 3 {}
     let t := s.setSched 3 { s.sched 3 with state := 2, joining := some j }
     t.joining 3 = some j ∧ j.leader ≠ t.fab.device.toNat ∧ j.offset = none ∧ j.go = none ∧ t.now + 10 ^ 6 ≤ 1002000 ∧ 1001999 < t.now + 10 ^ 6) ∧
    (let j : Joining := { leader := 1, go := some (2, 2000, 7) }
     let s := scheduled 3 {}
     let t := s.setSched 3 { s.sched 3 with state := 2, joining := some j }
     t.joining 3 = some j ∧ j.go = some (2, 2000, 7) ∧ 2000 ≤ t.now) ∧
    (let j : Joining := { leader := 0, members := [{ device := 1, offset := some (-60), tod := true }, { device := 2, offset := some 40, tod := true }] }
     let s := scheduled 3 {}
     let t := { s.setSched 3 { s.sched 3 with state := 2, members := 3, joining := some j } with tim := { now := 2000, todValid := true } }
     t.joining 3 = some j ∧ j.leader = t.fab.device.toNat ∧ j.go = none ∧ j.members.length + 1 = (t.sched 3).members ∧ (t.sched 3).slotNs ≠ 0 ∧
     (∀ m ∈ j.members, m.offset.isSome = true ∧ m.digest = j.digest ∧ m.tod = true) ∧ j.spread = 100 ∧ t.tim.todValid = true) := by
  decide +kernel

/-- Ring 3 of function 15, enabled, of 16 packets, one of them in it. -/
def ringed (r : Ring → Ring := id) : State :=
  { base with fns := [(15, { rings := [(3, r { enable := true, sizeLog2 := 4, head := 0xFFFFFFFF, tail := 0, status := 0x1000 })] })] }

theorem witness_RingsGiveTheirCommands :
    (ringed.hostWrites = true ∧ ringed.tim.idle = 0 ∧ 2 ^ (ringed.ring 15 3).sizeLog2.toNat < ((16 : BitVec 32) - (ringed.ring 15 3).head).toNat ∧
      ((15 : BitVec 32) - (ringed.ring 15 3).head).toNat ≤ 2 ^ (ringed.ring 15 3).sizeLog2.toNat) ∧
    ((ringed.ring 15 3).enable = true ∧ (base.ring 15 3).enable = false) ∧
    [3, 4, 16, 17].all (fun n => let v : BitVec 32 := BitVec.ofNat 32 (2 ^ 31 + n * 2 ^ 16)
      bit v 31 && fld v 20 16 == n) = true ∧
    (ringed.mayTake 15 3 = true ∧ (ringed.ring 15 3).ringVa = false ∧ (ringed.ring 15 3).statusVa = false ∧ ringed.cmds = []) ∧
    crc32 ((lineBytes (packet 0 0 [])).take 60) = byteFld (packet 0 0 []) 0x3C 4 ∧
    crc32 ((lineBytes (packet 0 0 [] + 1)).take 60) ≠ byteFld (packet 0 0 [] + 1) 0x3C 4 ∧
    (let s := inHand (packet 0 0 [])
     ∃ c, s.cmd? 1 = some c ∧ s.cmd? c.id = some c ∧ c.status = .pending ∧ c.statusVa = false ∧ c.mute = false ∧ c.launch = none) := by
  refine ⟨by decide +kernel, by decide +kernel, by decide +kernel, by decide +kernel, by decide +kernel, by decide +kernel, _, rfl, ?_⟩
  decide +kernel

/-- What CommandsStartInTurn asks of the command at index 0 of ring 0 of function f. -/
def inTurn (s : State) (f op : Nat) : Bool :=
  match s.cmdAt f 0 0 with
  | some c => !c.started && s.turn c && s.serving && s.hub.bootStatus == 0 && c.op == op && (opInfo op).isSome
  | none => false

/-- The packet in hand of function 1, which owns no partition. -/
def ofOther (p : Line) (f : State → State := id) : State := { inHand p f with cmds := [{ id := 1, fn := 1, pkt := p }] }

def inState (c : CtxState) (s : State) : State := { s with ctxs := [(17, { state := c, partition := 3 })] }

theorem witness_CommandsStartInTurn :
    -- a context that is being torn down; CAL_ARM of class 8; commands of the physical function alone; a context of another partition
    (inTurn (inHand calArm (inState .tearing)) 0 0x03 = true ∧ ((inHand calArm (inState .tearing)).ctx 17).state = .tearing ∧
      (inHand calArm).mayName 0 17 = true ∧ inTurn (inHand (packet 0x03 36 [(0x24, 8)])) 0 0x03 = true) ∧
    (inTurn (ofOther (packet 0x28 1 [])) 1 0x28 = true ∧ opInfo 0x28 = some (1, true) ∧ inTurn (ofOther calArm) 1 0x03 = true ∧
      opInfo 0x03 = some (36, false) ∧ (ofOther calArm).mayName 1 17 = false) ∧
    (inTurn (inHand calArm (inState .faulted)) 0 0x03 = true ∧ ((inHand calArm (inState .faulted)).ctx 17).state = .faulted ∧
      inTurn (inHand (packet 0x0A 0 []) (inState .faulted)) 0 0x0A = true) ∧
    startsWith (inHand calArm) 0x03 calArmParams = true ∧
    (∃ c, (inHand (packet 0x03 36 [(0x20, 1)])).cmdAt 0 0 0 = some c ∧ errorWith (fun _ => true) (calArmParams (inHand (packet 0x03 36 [(0x20, 1)])) c) = true) := by
  refine ⟨by decide +kernel, by decide +kernel, by decide +kernel, by decide +kernel, _, rfl, by decide +kernel⟩

/-- The window of function 1 on context 17, from 0. -/
def windowed : State := { paged base with fns := [(1, { mapped := true, context := 17, latches := [(0x44, 7)] })] }

theorem witness_HostAccessesReachTheDevice :
    (let s := windowed
     s.hostUp = true ∧ s.shut = false ∧ (s.fn 1).mapped = true ∧ s.tim.idle = 0 ∧
     okWith (fun _ => true) (s.checkRange (s.bar2Via 1) .write (cut ((s.fn 1).va 0x1FFFF) 1)).1 = true ∧
     okWith (fun _ => true) (s.vread (s.bar2Via 1) ((s.fn 1).va 0x10000) 4).1 = true ∧ (s.fn 0).mapped = false) ∧
    (tabGet? (windowed.fn 1).latches 0x44 = some 7 ∧ 0x44 % 4 = 0) ∧
    (tabGet? (base.fn 0).latches 0x40 = none ∧ (base.regView 0 0x40).base = 0x40 ∧ (base.regView 0 0x40).words = 2) ∧
    base.hostWrites = true ∧ ({ base with sec := { locked := true } } : State).sec.locked = true ∧
    (let s : State := { base with ctxs := [(17, { state := .active, creator := 1 })] }
     (∀ c ∈ s.cmds, c.fn ≠ 1) ∧ s.ctxs = [(17, { state := .active, creator := 1 })]) := by decide +kernel

/-! Recovery, boot and supplies. -/

/-- A modulus under which an encoded message is its own signature: m ^ 65537 = m modulo m + 1. -/
def selfKey (msg : List Byte) : List Byte := (leBytes 384 (beVal (pkcsEncode msg) + 1)).reverse

theorem beVal_snoc (l : List Byte) (b : Byte) : beVal (l ++ [b]) = beVal l * 256 + b.toNat := by simp [beVal, List.foldl_append]

theorem beVal_reverse (n v : Nat) (h : v < 256 ^ n) : beVal (leBytes n v).reverse = v := by
  induction n generalizing v with
  | zero => simp [leBytes, beVal]; omega
  | succ n ih =>
    rw [leBytes, List.reverse_cons, beVal_snoc, ih _ (Nat.div_lt_of_lt_mul (by rw [Nat.pow_succ] at h; omega))]
    simp only [BitVec.toNat_ofNat]; omega

theorem beVal_lt (l : List Byte) (a : Nat) : l.foldl (fun acc b => acc * 256 + b.toNat) a < (a + 1) * 256 ^ l.length := by
  induction l generalizing a with
  | nil => simp
  | cons b l ih =>
    refine Nat.lt_of_lt_of_le (ih _) ?_
    rw [List.length_cons, Nat.pow_succ, Nat.mul_comm (256 ^ l.length), ← Nat.mul_assoc]
    exact Nat.mul_le_mul_right _ (by have := b.isLt; dsimp only; omega)

theorem pkcsEncode_length (m : List Byte) : (pkcsEncode m).length = 384 := by
  have h : (sha256 m).length = 32 := by simp [sha256, leBytes]
  simp only [pkcsEncode, List.length_append, List.length_replicate, h, List.length_cons, List.length_nil]

theorem sqMod_pred (n k : Nat) : sqMod (n + 2) (k + 1) (n + 1) = 1 := by
  have one : ∀ k, sqMod (n + 2) k 1 = 1 := by
    intro k
    induction k with
    | zero => rfl
    | succ k ih => rw [sqMod, Nat.mod_eq_of_lt (by omega)]; exact ih
  rw [sqMod, show (n + 1) * (n + 1) = 1 + (n + 2) * n by simp only [Nat.add_mul, Nat.mul_add, Nat.one_mul, Nat.mul_one]; omega, Nat.add_mul_mod_self_left, Nat.mod_eq_of_lt (by omega)]
  exact one k

theorem beVal_cons_zero (l t : List Byte) (n : Nat) (e : l = 0 :: t) (h : l.length = n) : beVal l + 1 < 256 ^ n := by
  subst e h
  have := beVal_lt t 0
  rw [List.length_cons, Nat.pow_succ]
  unfold beVal
  simp only [List.foldl_cons]
  have e : (0 * 256 + (0 : Byte).toNat) = 0 := rfl
  rw [e]
  omega

theorem selfKey_verifies (msg : List Byte) : rsaVerify (selfKey msg) (pkcsEncode msg) msg = true := by
  have h := beVal_cons_zero _ _ _ (rfl : pkcsEncode msg = 0 :: _) (pkcsEncode_length msg)
  unfold rsaVerify selfKey
  rw [beVal_reverse _ _ h]
  clear h
  generalize beVal (pkcsEncode msg) = m
  cases m with
  | zero => rfl
  | succ m => simp [sqMod_pred m 15]

theorem selfKey_length (m : List Byte) : (selfKey m).length = 384 := by
  have h : ∀ n v, (leBytes n v).length = n := fun n => by induction n <;> simp_all [leBytes]
  rw [selfKey, List.length_reverse, h]

theorem padTo_prefix (n : Nat) (l t : List Byte) (h : l.length = n) : padTo n (l ++ t) = l := by
  subst h; simp [padTo]

theorem padTo_self (n : Nat) (l : List Byte) (h : l.length = n) : padTo n l = l := by
  subst h; simp [padTo]

/-- An image under the modulus 2 ^ 3071 and a sparing record; a configuration record and the owner's record, each signed by itself. -/
def imageKey : List Byte := 0x80 :: List.replicate 383 0
def imageSig : Nat := 0x7520F4AEC2831D7FADA97C8DD6B06BE9B5AAAF6F3C701DA773F58841F573A47D68EF97D0551BC7A609073B65467BB5658E0E1A07B1B23DED40C24A66B3430A6975FFC9825831911E95D4409DB80617BA2EA2AE4C1BE953EC3471C1376A7CBBA6E68510DCD82D01AE90A6808CB62DEF52F18D530A2C0B2A870357BF2E8A4BE0AF7826489C81572AD29C9FACD8664CA976448FB1857760B4C0876AFA206A69BE7741442802346DAEDEBC34A92A34E0CEB76D55CBAEE87792E591280DFD1B37B02E8A2AA7838CF9A385202535B49C321FA97DBF795530C7F4D8A919C6CBFA461882945DC397F96BD284E0A70B6239DDD15EFBCE06D0DDE3895C58D232B9357EC7D9CBD182C4C703788CB1984D6CCA2DBED77C063C9ED18E2E64BCDB1E17FF059C396AE7EE1167D1BE7861A778B43FD1D796096A4DB3BCC161F89F375E9562A1C550371637F029B7A2D35000428CA0B8DEFB82F3942D4D9EBCE83DE7651B7F1E316A156ABA87BB535B91EB4E0C0817C1B2C349D3AB62A94F76031243BC15EBE63A8B
def testImage : List Byte := leBytes 32 (1 + 832 * 2 ^ 32 + 1 * 2 ^ 64) ++ imageKey ++ List.replicate 32 0 ++ (leBytes 384 imageSig).reverse
def sparBody : List Byte := leBytes 48 (1 + 640 * 2 ^ 32) ++ List.replicate 208 0
def testSparing : List Byte := sparBody ++ pkcsEncode sparBody
def configBody : List Byte := leBytes 48 (1 + 5600 * 2 ^ 32 + 2 ^ 192 + 9600 * 2 ^ 256 + 2 ^ 336) ++ List.replicate 5168 0
def testConfig : List Byte := configBody ++ pkcsEncode configBody
def ownerHead : List Byte := leBytes 32 (1 + 800 * 2 ^ 32)
def ownerBody : List Byte := ownerHead ++ selfKey configBody
def testOwner : List Byte := ownerBody ++ pkcsEncode ownerBody

/-- What a good boot meets; and the device waiting for it. -/
def goodBoot : BootInputs :=
  { counters := some [], romKeys := [0xEC56739A5D7191732DF8D9737A4DF39A0C06DFC5667989E003407E5A5FE1FD55], imageA := testImage, sparing := testSparing
    factory := selfKey sparBody, owner := testOwner, ownerKeys := [selfKey ownerBody], configA := testConfig
    map := { dies := List.replicate 5 {}, compat := [((0, 0), (0, 0), 3)] } }

def bootWaits : State := { base with hub := { bootStatus := 1 } }

theorem configBody_length : configBody.length = 0x1460 := by decide +kernel

theorem ownerBody_length : ownerBody.length = 0x1A0 := by
  rw [ownerBody, List.length_append, selfKey_length]; decide +kernel

theorem testOwner_stands : ownerOk goodBoot = true := by
  have h : rsaVerify (selfKey ownerBody) (padTo 384 (testOwner.drop 0x1A0)) (padTo 0x1A0 testOwner) = true := by
    rw [testOwner, padTo_prefix _ _ _ ownerBody_length, List.drop_left' ownerBody_length, padTo_self _ _ (pkcsEncode_length _)]
    exact selfKey_verifies _
  have e : (byteAt testOwner 0 4 == 1 && byteAt testOwner 4 4 == 800 && byteAt testOwner 0x18 8 == 0 &&
      (byteAt testOwner 0x10 8 == 0 || byteAt testOwner 0x10 8 == hdSerial goodBoot)) = true := by decide +kernel
  show ((byteAt testOwner 0 4 == 1 && byteAt testOwner 4 4 == 800 && byteAt testOwner 0x18 8 == 0 &&
      (byteAt testOwner 0x10 8 == 0 || byteAt testOwner 0x10 8 == hdSerial goodBoot)) &&
      ([selfKey ownerBody].any fun k => rsaVerify k (padTo 384 (testOwner.drop 0x1A0)) (padTo 0x1A0 testOwner))) = true
  rw [e, List.any_cons, h]; rfl

theorem testConfig_stands (v : State) (hc : v.counter 1 = 0) : v.configCause goodBoot testConfig = none := by
  have h : rsaVerify (padTo 384 (testOwner.drop 0x20)) (padTo 384 (testConfig.drop 0x1460)) (padTo 0x1460 testConfig) = true := by
    have hh : ownerHead.length = 0x20 := by decide +kernel
    rw [testOwner, ownerBody, List.append_assoc, List.drop_left' hh, padTo_prefix _ _ _ (selfKey_length _), testConfig,
      padTo_prefix _ _ _ configBody_length, List.drop_left' configBody_length, padTo_self _ _ (pkcsEncode_length _)]
    exact selfKey_verifies _
  have e : (!(byteAt testConfig 0 4 == 1 && byteAt testConfig 4 4 == 5600)) = false := by decide +kernel
  have f : (byteAt testConfig 0x10 8 != hdSerial goodBoot) = false := by decide +kernel
  unfold State.configCause
  rw [hc]
  simp only [show goodBoot.owner = testOwner from rfl, e, f, h]
  rfl

/-- A boot takes slot A of the configuration record where it stands and slot B holds nothing. -/
theorem records_taken (v : State) (b : BootInputs) (r : List Byte) (h1 : ownerOk b = true)
    (h2 : ∀ u : State, u.counter 1 = v.counter 1 → u.configCause b b.configA = none) (h3 : ∀ u : State, u.configCause b b.configB = some 4)
    (h4 : padTo 5600 b.configA = r) (h5 : configOk r = true) : ∃ w, v.bootRecords b = .ok w ∧ w.sec.config = r := by
  unfold State.bootRecords
  rw [h1]
  unfold State.chooseConfig
  simp only [h3]
  rw [h2 _ (by rfl)]
  simp only [h4, h5, Option.isNone_none, Option.isNone_some, Bool.not_true, Bool.not_false, Bool.true_or, Bool.and_true, Bool.false_eq_true,
    if_true, if_false]
  exact ⟨_, rfl, rfl⟩

theorem records_stand (v : State) (hc : v.counter 1 = 0) : ∃ w, v.bootRecords goodBoot = .ok w ∧ w.sec.config = testConfig := by
  have hl : testConfig.length = 5600 := by rw [testConfig, List.length_append, configBody_length, pkcsEncode_length]
  exact records_taken v goodBoot testConfig testOwner_stands (fun u hu => testConfig_stands u (hu.trans hc)) (fun _ => rfl) (padTo_self _ _ hl)
    (by decide +kernel)

/-- Training of a state with that record runs at its rate, and not with a die link that fails. -/
theorem training_runs (w : State) (h : w.sec.config = testConfig) : (∃ x, w.bootTrain {} = .ok x) ∧ ∃ x, w.bootTrain { links := [(0, false, 1, 0)] } = .error x := by
  have e : rateCode (byteAt w.sec.config 0x20 2) = 1 := by rw [h]; decide +kernel
  constructor
  · unfold State.bootTrain
    rw [e]
    exact ⟨_, rfl⟩
  · unfold State.bootTrain
    rw [e]
    exact ⟨_, rfl⟩

theorem witness_BootEntersService :
    (let s : State := { sup := { pwrOk := true, resetN := true } }
     s.sup.on = false ∧ s.sup.pwrOk = true ∧ s.sup.resetN = true ∧ s.sup.mainOk = false ∧
       ({ s with sup := { s.sup with mainOk := true } } : State).sup.mainOk = true) ∧
    (bootWaits.sup.on = true ∧ bootWaits.hub.bootStatus = 1 ∧ bootWaits.sup.partOff = false) ∧
    errorWith (fun _ => true) (bootWaits.bootImage { goodBoot with seed := false }) = true ∧
    ∃ u i v w, bootWaits.bootImage goodBoot = .ok (u, i) ∧ errorWith (fun y => y.2 == 0x41) (u.buildMap {} testSparing none) = true ∧
      u.buildMap goodBoot.map goodBoot.sparing (some goodBoot.factory) = .ok v ∧
      errorWith (fun _ => true) (v.bootRecords { goodBoot with owner := [] }) = true ∧ v.bootRecords goodBoot = .ok w ∧
      (∃ x, w.bootTrain { links := [(0, false, 1, 0)] } = .error x) ∧ ∃ x, w.bootTrain goodBoot.train = .ok x := by
  refine ⟨by decide +kernel, by decide +kernel, by decide +kernel, ?_⟩
  have e1 (u : State) : errorWith (fun y => y.2 == 0x41) (u.buildMap {} testSparing none) = true := rfl
  have e2 (v : State) : errorWith (fun _ => true) (v.bootRecords { goodBoot with owner := [] }) = true := rfl
  have h : okWith (fun y => okWith (fun v => v.counter 1 == 0)
        (y.1.buildMap goodBoot.map goodBoot.sparing (some goodBoot.factory))) (bootWaits.bootImage goodBoot) = true := by decide +kernel
  cases ha : bootWaits.bootImage goodBoot with
  | error e => rw [ha] at h; cases h
  | ok y =>
    rw [ha] at h
    simp only [okWith] at h
    cases hb : y.1.buildMap goodBoot.map goodBoot.sparing (some goodBoot.factory) with
    | error e => rw [hb] at h; cases h
    | ok v =>
      rw [hb] at h
      simp only [beq_iff_eq] at h
      obtain ⟨w, hw, hc⟩ := records_stand v h
      exact ⟨y.1, y.2, v, w, rfl, e1 _, hb, e2 _, hw, (training_runs w hc).2, (training_runs w hc).1⟩

/-! Cores, power, recoveries, supplies. -/

/-- Core 5 and the LAUNCH of context 18 that waits for it. -/
def wanted (f : State → State := id) : State :=
  f { running [(3, { ended := false, len := 4 })] with
      ctxs := [(17, { state := .active, partition := 3 }), (18, { state := .active, partition := 3 })]
      cmds := [{ id := 1, pkt := sealedLine [(0, 0x10), (2, 33), (8, 18)], started := true
                 launch := some { prim := { first := 5, count := 1 }, active := true, waiting := [0], runLimit := 1 } }]
      tim := { now := 1000000 } }

/-- The same with core 5 free. -/
def freeCore : State := wanted fun s => { s with cores := [] }

/-- A LAUNCH with this deadline and a fallback. -/
def dueLaunch (d : Nat) : Launch := { prim := { first := 5, count := 1 }, fall := some { first := 6, count := 1 }, deadline := d }

def tearing (t : Teardown) : State := { running [] with ctxs := [(17, { state := .tearing, tear := some t })] }

theorem witness_CoresAreShared :
    (freeCore.serving = true ∧ (freeCore.core 5).assigned = false ∧ (freeCore.core 5).stopped = false ∧ (freeCore.core 5).resident = false ∧
      smallestV (freeCore.plan 5).v (freeCore.waitingOn 5) = some 18) ∧
    [[], [(17, 1)]].all (fun v => let s := (wanted).setPlan 5 { v := v }
      !(s.core 5).assigned && !(s.core 5).stopped && (s.core 5).resident && (s.plan 5).next.isNone && decide ((s.plan 5).since + 10 ^ 6 ≤ s.now) &&
        smallestV (s.plan 5).v (17 :: (s.waitingOn 5).filter (· != 17)) == some (if v.isEmpty then 17 else 18)) = true ∧
    smallestV [(17, 5), (18, 4)] [17, 18, 19] = some 19 ∧
    (let s := wanted fun s => s.setPlan 5 { next := some 18 }
     let v := (State.drainStores 5 32 (s.modCore 5 fun c => Core.finishVxe 64 c)).finishCopies 5
     (s.plan 5).next = some 18 ∧ s.live 5 = true ∧ s.quiet 5 = false ∧ (s.waitingOn 5).contains 18 = true ∧ v.live 5 = true ∧ v.drained 5 = true) ∧
    ((wanted.cmdAt 0 0 0).map (fun c => (c.ctx, c.launch.map (·.runLimit))) = some (18, some 1) ∧ (wanted.ctx 18).state ≠ .tearing ∧
      0 + 1 * 10 ^ 6 ≤ wanted.now ∧ (wanted.ctx 18).tear = none) ∧
    (wanted.deadlineOf {} = none ∧ wanted.deadlineOf (dueLaunch 900000) = some 900000 ∧ (dueLaunch 900000).fall.isSome = true ∧
      (dueLaunch 900000).switched = false ∧ 900000 < wanted.now ∧ wanted.deadlineOf (dueLaunch 1100000) = some 1100000 ∧
      1100000 ≤ wanted.now + (wanted.ctx 18).longest 0 + 100000) ∧
    ([({} : Teardown), { step := 1 }, { step := 2 }, { step := 3 }, { step := 4 }, { step := 4, cause := .runLimit }, { step := 4, cause := .flr },
      { step := 4, cause := .destroy, cmd := some 1 }].all fun t => ((tearing t).ctx 17).tear == some t && (tearing t).serving && (tearing t).answered 17) = true := by
  decide +kernel

/-- In service at this reference time. -/
def at_ (n : Nat) (p : Power := {}) : State := { base with tim := { now := BitVec.ofNat 64 n }, pwr := p }

theorem witness_PowerIsCapped :
    ((at_ 2000).sup.on = true ∧ (at_ 2000).sup.partOff = false ∧ (at_ 2000).pwr.windowAt + 2000 ≤ (at_ 2000).now) ∧
    (let s := at_ 1000000 { msEnergy := [(3, 5)] }
     zGet s.pwr.calAt 3 + 10 ^ 6 ≤ s.now ∧ zGet s.pwr.msEnergy 3 ≠ 0) ∧
    zGet (at_ 18).pwr.stretchAt 3 + 18 ≤ (at_ 18).now ∧ (at_ 100000).pwr.lastStep + 100000 ≤ (at_ 100000).now ∧
    (∃ t, t < 16 ∧ (predicted 1000 100 t : Int) ≤ 100000) ∧
    (let s := at_ 100000000 { sealBreach := true }
     s.pwr.sealBreach = true ∧ s.pwr.breachAt + 10 ^ 8 ≤ s.now) ∧
    (let s := { at_ 1000000 { hotSince := some 0 } with sol := { sched := [(2, { state := 3 })] } }
     s.pwr.hot = false ∧ s.pwr.hotSince = some 0 ∧ 0 + 10 ^ 6 ≤ s.now ∧ (s.sched 2).state = 3) ∧
    (let s := at_ 10000000 { hot := true, coolSince := some 0 }
     s.pwr.hot = true ∧ s.pwr.coolSince = some 0 ∧ 0 + 10 ^ 7 ≤ s.now) ∧
    105 * 16 ≤ (1680#12).toNat ∧ base.recov.state = 0 ∧ base.recov.due < 3 ∧
    (let s := { at_ 10000000000 { inletSince := some 9000000000, inletCool := some 0 } with sec := { config := List.replicate 16 1 } }
     s.sup.on = true ∧ s.thermistor = true ∧ 40 * 16 < (641#12).toNat ∧ (624#12).toNat ≤ 39 * 16 ∧ 39 * 16 < (640#12).toNat ∧ (640#12).toNat ≤ 40 * 16 ∧
     s.pwr.inletSince = some 9000000000 ∧ 9000000000 + 10 ^ 9 ≤ s.now ∧ s.pwr.inletCool = some 0 ∧ 0 + 10 ^ 10 ≤ s.now) := by
  refine ⟨by decide +kernel, by decide +kernel, by decide +kernel, by decide +kernel, ⟨15, by decide +kernel⟩, by decide +kernel, by decide +kernel,
    by decide +kernel, by decide +kernel, by decide +kernel, by decide +kernel, by decide +kernel⟩

/-- In recovery. -/
def recovering (r : Recovery) (n : Nat := 0) : State := { at_ n with recov := r }

theorem witness_RecoveriesRunTheirSteps :
    ((at_ 50000000).recov.state = 0 ∧ (at_ 50000000).recov.due < 2 ∧ (at_ 50000000).hub.bootStatus = 0 ∧
      (at_ 50000000).mw.lastBeat.toNat + 5 * 10 ^ 7 ≤ (at_ 50000000).now ∧ base.hostWrites = true ∧ bit (0x80000000 : BitVec 32) 31 = true) ∧
    (recovering { state := 1 }).recov.state ≠ 0 ∧ (recovering { state := 1 }).hostWrites = true ∧
    ((recovering { due := 2 }).recov.state = 0 ∧ (recovering { due := 2 }).recov.due = 2) ∧
    [1, 6, 7].all (fun k => let s := recovering { state := 1, step := k }
      s.sup.on && !s.sup.partOff && s.recov.state == 1 && s.recov.due != 3 && s.recov.step == k) = true ∧
    (recovering { state := 1 } 250000000).recov.detected + 25 * 10 ^ 7 ≤ (recovering { state := 1 } 250000000).now ∧
    ((recovering { due := 3 }).recov.due = 3 ∧ (recovering { due := 3 }).pwr.therm = false) ∧
    ((recovering { state := 2, step := 7 }).recov.state = 2 ∧ (recovering { state := 2, step := 7 }).recov.step = 7) ∧
    (recovering { state := 2 } 6000000000).recov.started + 6 * 10 ^ 9 ≤ (recovering { state := 2 } 6000000000).now ∧
    (let n : Line := sealedLine [(0, 0x10), (2, 6), (4, 9), (8, 0xAB), (0x10, 0x01010101)]
     let s := { base with sol := { sched := [(3, { state := 4, job := 0xAB, digest := List.replicate 32 1 })] } }
     s.sup.on = true ∧ s.shut = false ∧ lineRd n 0 1 = 0x10 ∧ crc32 ((lineBytes n).take 60) = lineRd n 0x3C 4 ∧ s.noticed n = some 3 ∧
     (s.sched 3).joining = none ∧ s.cmds = []) := by decide +kernel

theorem witness_SuppliesAndPins :
    [215, 216, 223, 224, 199].map (fun v => (decide ((v : BitVec 8).toNat < 216), decide (216 ≤ v.toNat) && decide (v.toNat < 224),
      decide (224 ≤ v.toNat), decide (v.toNat < 200))) = [(true, false, false, false), (false, true, false, false), (false, true, false, false),
      (false, false, true, false), (true, false, false, true)] ∧
    (base.sup.auxOk = true ∧ base.sup.onAux = false ∧ base.sup.on = true ∧ base.sup.partOff = false ∧ base.hub.bootStatus ≠ 1 ∧
      216 ≤ base.sup.vinMain.toNat ∧ base.sup.pwrOk = true ∧ base.serving = true ∧ base.sup.resetN = true ∧ base.cmds = [] ∧ base.sup.mainOk = true) ∧
    inRange 228 = true ∧ inRange 227 = false ∧ base.sup.i3cAddr = none ∧
    (let s : State := { base with sup := { base.sup with i3cAddr := some 9 } }
     s.sup.i3cAddr = some 9 ∧ s.sup.i3cAddr ≠ some 8 ∧ (8 : BitVec 7) ≠ 0x4C) := by decide +kernel

theorem witness_StepKeepsMemoryCanonical : (paged base).memoryCanonical ∧ ∃ t, step (paged base) = .next t :=
  ⟨witness_EccCorrectsOneSymbol.2.2.2.2, _, rfl⟩

end Sys2Proof.Tests
end

section
/-! PROOFS. Context faults, the start of a command, and the host's accesses: the statements ContextFaultIsRecorded,
CommandsStartInTurn and HostAccessesReachTheDevice. -/

namespace Sys2Proof.Machine

/-! A context fault (R19, R70, R411). -/

/-- A context that is not in a teardown enters one when a queue of its core faults (R411). -/
theorem State.faultQueue_tearing {s : State} {n : Nat} (q : Nat) (f : CtxFault) (h : (s.ctx (s.core n).context.toNat).tear = none) :
    ((s.faultQueue n q f).ctx (s.core n).context.toNat).state = .tearing := by
  rw [State.faultQueue_ctx, h]; rfl

/-- Settles O13: the record, CORE_STATUS and the teardown are those of `State.faultQueue`, with the queue's number. -/
theorem contextFaultIsRecorded : Obligations.ContextFaultIsRecorded := by
  unfold Obligations.ContextFaultIsRecorded
  intro s n e f
  unfold State.faultCtx
  have hcore := s.faultQueue_core n e.num f
  refine ⟨?_, s.faultQueue_record n e.num f, s.faultQueue_next n e.num f, State.faultQueue_tearing e.num f,
    s.faultQueue_mem n e.num f, fun m hm => s.faultQueue_core_other e.num f hm⟩
  rw [hcore]
  exact ⟨rfl, rfl, rfl, rfl, rfl⟩

/-! The start of a command (R18, R371, R377). -/

/-- The command at an index of a ring has not started, has the opcode, and nothing keeps it from its start: its turn has come,
the device is in service and booted (R371, R477). -/
structure State.Due (s : State) (f ring i op : Nat) (c : Cmd) (pf : Bool) : Prop where
  held : s.cmdAt f ring i = some c
  fresh : c.started = false
  turn : s.turn c = true
  serving : s.serving = true
  booted : s.hub.bootStatus = 0
  opcode : c.op = op
  defined : ∃ n, opInfo op = some (n, pf)

/-- A command that names a context has HD read its translations anew (R398). -/
def State.renewTlb (s : State) (c : Cmd) : State := if c.namesCtx then { s with hdTlb := tabDel s.hdTlb c.ctx } else s

theorem State.mayName_renewTlb (s : State) (c : Cmd) (f x : Nat) : (s.renewTlb c).mayName f x = s.mayName f x := by
  unfold State.renewTlb; split <;> rfl

/-- The command is taken as started, and waits or does not. -/
def State.begun (s : State) (c : Cmd) (w : Bool) : State :=
  (s.renewTlb c).modCmd c.id fun y => { y with started := true, waiting := w }

/-- What R18 has judged before the parameters: the class of CAL_ARM, the rights of R363 and R377, a faulted context. -/
def State.startRights (s : State) (f op : Nat) (pf : Bool) (c : Cmd) : Chk := do
  chk (!(op == 0x03 && decide (8 ≤ c.f 0x24 1))) .badOpcode
  chk (!pf || f == 0) .denied
  chk (!(c.namesCtx || op == 0x28) || s.mayName f c.ctx) .denied
  chk (!(c.namesCtx && (s.ctx c.ctx).state == .faulted) || op == 0x01 || op == 0x0A) .faulted (s.ctx c.ctx).reason

section Rights
variable {s : State} {f op : Nat} {pf : Bool} {c : Cmd}

/-- CAL_ARM with a class that is defined passes the check of its class. -/
theorem calArmClass_passes (hop : op = 0x03 → c.f 0x24 1 < 8) : (!(op == 0x03 && decide (8 ≤ c.f 0x24 1))) = true := by
  by_cases h : op = 0x03
  · simp [h, hop h]
  · simp [h]

/-- An opcode that the function may issue passes the check of R377. -/
theorem issuer_passes (hpf : pf = true → f = 0) : (!pf || f == 0) = true := by
  cases pf
  · rfl
  · simp [hpf rfl]

/-- A packet that names no context, or one that the function may name, passes the check of R363. -/
theorem naming_passes (hm : c.namesCtx = true ∨ op = 0x28 → s.mayName f c.ctx = true) :
    (!(c.namesCtx || op == 0x28) || s.mayName f c.ctx) = true := by
  by_cases h : c.namesCtx = true ∨ op = 0x28
  · simp [hm h]
  · obtain ⟨hn, h28⟩ := not_or.1 h
    simp [hn, h28]

/-- A faulted context bars every opcode but those of QUERY and CTX_DESTROY (R392). -/
theorem context_passes (h : c.namesCtx = true → (s.ctx c.ctx).state = .faulted → op = 0x01 ∨ op = 0x0A) :
    (!(c.namesCtx && (s.ctx c.ctx).state == .faulted) || op == 0x01 || op == 0x0A) = true := by
  by_cases hx : c.namesCtx = true ∧ (s.ctx c.ctx).state = .faulted
  · rcases h hx.1 hx.2 with e | e <;> simp [e]
  · have : (c.namesCtx && (s.ctx c.ctx).state == .faulted) = false := by simpa using hx
    simp [this]

theorem State.startRights_badOpcode (h : op = 0x03) (hc : 8 ≤ c.f 0x24 1) : s.startRights f op pf c = .error (.badOpcode, 0) := by
  have reserved : (!(op == 0x03 && decide (8 ≤ c.f 0x24 1))) = false := by simp [h, hc]
  unfold State.startRights
  rw [reserved]
  rfl

variable (hop : op = 0x03 → c.f 0x24 1 < 8)
include hop

theorem State.startRights_ofPf (h : pf = true) (hf : f ≠ 0) : s.startRights f op pf c = .error (.denied, 0) := by
  have barred : (!pf || f == 0) = false := by simp [h, hf]
  unfold State.startRights
  rw [calArmClass_passes hop, barred]
  rfl

variable (hpf : pf = true → f = 0)
include hpf

theorem State.startRights_ofContext (h : c.namesCtx = true ∨ op = 0x28) (hm : s.mayName f c.ctx = false) :
    s.startRights f op pf c = .error (.denied, 0) := by
  have barred : (!(c.namesCtx || op == 0x28) || s.mayName f c.ctx) = false := by rcases h with h | h <;> simp [h, hm]
  unfold State.startRights
  rw [calArmClass_passes hop, issuer_passes hpf, barred]
  rfl

variable (hm : c.namesCtx = true ∨ op = 0x28 → s.mayName f c.ctx = true)
include hm

theorem State.startRights_ofFaulted (h : c.namesCtx = true) (hx : (s.ctx c.ctx).state = .faulted) (h1 : op ≠ 0x01) (hA : op ≠ 0x0A) :
    s.startRights f op pf c = .error (.faulted, (s.ctx c.ctx).reason) := by
  have barred : (!(c.namesCtx && (s.ctx c.ctx).state == .faulted) || op == 0x01 || op == 0x0A) = false := by simp [h, hx, h1, hA]
  unfold State.startRights
  rw [calArmClass_passes hop, issuer_passes hpf, naming_passes hm, barred]
  rfl

theorem State.startRights_ok (h : c.namesCtx = true → (s.ctx c.ctx).state = .faulted → op = 0x01 ∨ op = 0x0A) :
    s.startRights f op pf c = .ok () := by
  unfold State.startRights
  rw [calArmClass_passes hop, issuer_passes hpf, naming_passes hm, context_passes h]
  rfl

end Rights

section Start
variable {s : State} {f ring i op : Nat} {c : Cmd} {pf : Bool} (h : s.Due f ring i op c pf)
  (params : State → Cmd → Chk) (run : State → Cmd → State)
include h

/-- A command that is due waits for a teardown of its context; otherwise its rights and then its parameters are judged. -/
theorem State.startCmd_due :
    s.startCmd f ring i op params run =
      if c.namesCtx && s.mayName f c.ctx && (s.ctx c.ctx).state == .tearing then s.begun c true
      else match s.startRights f op pf c with
        | .error e => (s.begun c false).finish c.id e.1 e.2
        | .ok _ => match params (s.begun c false) c with
          | .error e => (s.begun c false).finish c.id e.1 e.2
          | .ok _ => run (s.begun c false) { c with started := true, waiting := false } := by
  obtain ⟨held, fresh, turn, serving, booted, rfl, n, hn⟩ := h
  have hm := s.mayName_renewTlb c f c.ctx
  unfold State.renewTlb at hm
  unfold State.startCmd State.startRights State.begun State.renewTlb
  rw [held]
  simp [fresh, turn, serving, booted, hn, hm] <;> rfl

theorem State.startCmd_tearing (hn : c.namesCtx = true) (hm : s.mayName f c.ctx = true) (hx : (s.ctx c.ctx).state = .tearing) :
    s.startCmd f ring i op params run = s.begun c true := by
  rw [s.startCmd_due h, if_pos (by simp [hn, hm, hx])]

variable (hx : c.namesCtx = true → (s.ctx c.ctx).state ≠ .tearing)
include hx

omit h in
theorem not_waits_of_not_tearing : ¬ (c.namesCtx && s.mayName f c.ctx && (s.ctx c.ctx).state == .tearing) = true := by
  intro e
  simp only [Bool.and_eq_true, beq_iff_eq] at e
  obtain ⟨⟨hn, -⟩, ht⟩ := e
  exact hx hn ht

theorem State.startCmd_refused {st : Status} {d : Nat} (hr : s.startRights f op pf c = .error (st, d)) :
    s.startCmd f ring i op params run = (s.begun c false).finish c.id st d := by
  rw [s.startCmd_due h, if_neg (not_waits_of_not_tearing hx), hr]

theorem State.startCmd_malformed (hr : s.startRights f op pf c = .ok ()) {e : Status × Nat} (hp : params (s.begun c false) c = .error e) :
    s.startCmd f ring i op params run = (s.begun c false).finish c.id e.1 e.2 := by
  rw [s.startCmd_due h, if_neg (not_waits_of_not_tearing hx), hr]
  dsimp only
  rw [hp]

theorem State.startCmd_runs (hr : s.startRights f op pf c = .ok ()) (hp : params (s.begun c false) c = .ok ()) :
    s.startCmd f ring i op params run = run (s.begun c false) { c with started := true, waiting := false } := by
  rw [s.startCmd_due h, if_neg (not_waits_of_not_tearing hx), hr]
  dsimp only
  rw [hp]

end Start

/-- Settles O50: each check is the first of `State.startRights` that fails, and the parameters come after it. -/
theorem commandsStartInTurn : Obligations.CommandsStartInTurn := by
  unfold Obligations.CommandsStartInTurn
  intro s f ring i op params run c pf n held fresh turn serving booted opcode defined
  have h : s.Due f ring i op c pf := ⟨held, fresh, turn, serving, booted, opcode, n, defined⟩
  intro u v
  have hu : u.modCmd c.id (fun y => { y with started := true, waiting := true }) = s.begun c true := rfl
  have hv : v = s.begun c false := rfl
  rw [hu, hv]
  have refused {st d} := State.startCmd_refused (st := st) (d := d) h params run
  refine ⟨State.startCmd_tearing h params run, ?reservedClass, fun hx hop => ⟨?ofPf, ?ofContext, fun hpf hm => ⟨?ofFaulted, fun hf => ?judged⟩⟩⟩
  case reservedClass => exact fun hx hop hc => refused hx (State.startRights_badOpcode hop hc)
  case ofPf => exact fun hpf hf => refused hx (State.startRights_ofPf hop hpf hf)
  case ofContext => exact fun hpf hn hm => refused hx (State.startRights_ofContext hop hpf hn hm)
  case ofFaulted => exact fun hn hf h1 hA => refused hx (State.startRights_ofFaulted hop hpf hm hn hf h1 hA)
  case judged =>
    have hr := State.startRights_ok hop hpf hm hf
    exact ⟨fun hp run' => State.startCmd_runs h params run' hx hr hp, fun _ hp => State.startCmd_malformed h params run hx hr hp⟩

/-! BAR2 (R364). -/

section Bar2
variable {s : State} {f : Fin 16}

theorem execBar2Write_unmapped (off : BitVec 36) (bs : List Byte) (hmap : (s.fn f).mapped = false) :
    execBar2Write f off bs s = .next s := by
  simp [execBar2Write, hmap]

variable (hup : s.hostUp = true) (hshut : s.shut = false)
include hup hshut

theorem execBar2Write_mapped (off : BitVec 36) (bs : List Byte) (hmap : (s.fn f).mapped = true) (hidle : s.tim.idle = 0) {u : State}
    (hc : s.checkRange (s.bar2Via f) .write (cut ((s.fn f).va off.toNat) bs.length) = (.ok (), u)) :
    execBar2Write f off bs s = .next (u.vwrite (s.bar2Via f) ((s.fn f).va off.toNat) bs).2 := by
  simp [execBar2Write, hup, hshut, hmap, hidle, hc]

theorem execBar2Read_mapped (off : BitVec 36) (n : Fin 4097) (hmap : (s.fn f).mapped = true) (hidle : s.tim.idle = 0)
    {bs : List Byte} {u : State} (hr : s.vread (s.bar2Via f) ((s.fn f).va off.toNat) n = (.ok bs, u)) :
    execBar2Read f off n s = .next (u.setFn f { u.fn f with bar2Data := some bs, bar2Abort := false }) := by
  simp [execBar2Read, hup, hshut, hmap, hidle, hr, State.modFn]

theorem execBar2Read_unmapped (off : BitVec 36) (n : Fin 4097) (hmap : (s.fn f).mapped = false) :
    execBar2Read f off n s = .next (s.setFn f { s.fn f with bar2Data := none, bar2Abort := false }) := by
  simp [execBar2Read, hup, hshut, hmap, State.modFn]

end Bar2

/-! BAR0 reads and their latches (R15). -/

theorem execLatchedRead_word {s : State} (f : Fin 16) {off : BitVec 24} (hup : s.hostUp = true) (ha : off.toNat % 4 = 0) :
    execLatchedRead f off false s =
      .next ((s.bar0Read f off.toNat).2.modFn f fun x => { x with bar0Data := BitVec.ofNat 64 (s.bar0Read f off.toNat).1 }) := by
  have e : off.toNat / 4 * 4 = off.toNat := Nat.div_mul_cancel (Nat.dvd_of_mod_eq_zero ha)
  simp [execLatchedRead, hup, e]

/-- A word that is latched is the answer, and the read consumes it. -/
theorem State.bar0Read_latched {s : State} {f off : Nat} (ha : off % 4 = 0) {w : Word} (h : tabGet? (s.fn f).latches off = some w) :
    s.bar0Read f off = (w.toNat, s.setFn f { s.fn f with latches := tabDel (s.fn f).latches off }) := by
  have e : off / 4 * 4 = off := Nat.div_mul_cancel (Nat.dvd_of_mod_eq_zero ha)
  simp [State.bar0Read, e, h]

/-- A read of the low word of a register of 64 bits latches the high word. -/
theorem State.bar0Read_latches {s : State} {f off : Nat} (ha : off % 4 = 0) (h : tabGet? (s.fn f).latches off = none)
    (hb : off = (s.regView f off).base) (hw : (s.regView f off).words = 2) :
    s.bar0Read f off = ((s.regView f off).word off, s.setFn f { s.fn f with
      latches := tabSet (s.fn f).latches (off + 4) (BitVec.ofNat 32 ((s.regView f off).word (off + 4))) }) := by
  have e : off / 4 * 4 = off := Nat.div_mul_cancel (Nat.dvd_of_mod_eq_zero ha)
  unfold State.bar0Read
  simp only [e, h]
  rw [if_pos hb, hw]
  rfl

/-! BAR0 writes (R12). -/

theorem execRegisterWrite_word {s : State} (f : Fin 16) (off : BitVec 24) (v : BitVec 64) (h : s.hostWrites = true) :
    execRegisterWrite f off v false s = .next (s.bar0Write f (off.toNat / 4 * 4) (BitVec.ofNat 32 v.toNat)) := by
  simp [execRegisterWrite, h]

section Bar0Write
variable (s : State) (f : Nat) (w : Word)

theorem State.bar0Write_tail0 : s.bar0Write f 0x600014 w = s.writeTail f 0 w := by simp [State.bar0Write, slotOf]
theorem State.bar0Write_ringCtrl3 : s.bar0Write f 0x6000D0 w = s.writeRingCtrl f 3 w := by simp [State.bar0Write, slotOf]
theorem State.bar0Write_mwCtrl : s.bar0Write f 0x64000C w = s.writeMwCtrl f w := by simp [State.bar0Write, slotOf]
theorem State.bar0Write_inject : s.bar0Write f 0x540400 w = s.writeInject f w := by simp [State.bar0Write, slotOf]
theorem State.bar0Write_debugLocked (h : s.sec.locked = true) : s.bar0Write f 0x680004 w = s.secEvent 6 f 0x680004 := by
  simp [State.bar0Write, slotOf, h]
theorem State.bar0Write_version : s.bar0Write f 0x000000 w = s := by simp [State.bar0Write, slotOf]

end Bar0Write

/-! Function Level Reset (R388). -/

theorem State.tear_state {s : State} {k : Nat} (t : Teardown) (h : (s.ctx k).tear = none) : ((s.tear k t).ctx k).state = .tearing := by
  simp [State.tear, h]

/-- What a Function Level Reset does with a context that the function made. -/
def State.resetCtx (s : State) (k : Nat) : State :=
  if (s.ctx k).state = .faulted && s.serving then s.modCtx k Ctx.freed else s.tear k { cause := .flr }

/-- Contexts that a function made and that are not Free. -/
def State.madeBy (s : State) (f : Nat) : List Nat := (s.ctxs.filter fun p => p.2.creator == f && p.2.state != .free).map (·.1)

/-- The commands of a function are cancelled, without an answer to the host. -/
def State.cancelFn (s : State) (f : Nat) : State :=
  (s.cmds.filter fun c => c.fn == f).foldl (fun s c => s.cancel c.id)
    { s with cmds := s.cmds.map fun c => if c.fn = f then { c with mute := true } else c }

theorem State.resetFn_eq (s : State) (f : Nat) :
    s.resetFn f = (((s.cancelFn f).setFn f {}).madeBy f).foldl State.resetCtx ((s.cancelFn f).setFn f {}) := rfl

@[simp] theorem State.resetCtx_fns (s : State) (k : Nat) : (s.resetCtx k).fns = s.fns := by unfold State.resetCtx; split <;> rfl
@[simp] theorem State.resetCtx_cmds (s : State) (k : Nat) : (s.resetCtx k).cmds = s.cmds := by unfold State.resetCtx; split <;> rfl
@[simp] theorem State.resetCtx_mem (s : State) (k : Nat) : (s.resetCtx k).mem = s.mem := by unfold State.resetCtx; split <;> rfl
@[simp] theorem State.resetCtx_cores (s : State) (k : Nat) : (s.resetCtx k).cores = s.cores := by unfold State.resetCtx; split <;> rfl

/-- What every step of a fold leaves as it was, the fold does. -/
theorem foldl_keeps {α β γ : Type} (p : α → γ) (g : α → β → α) (h : ∀ a b, p (g a b) = p a) (l : List β) (a : α) :
    p (l.foldl g a) = p a :=
  List.foldlRecOn l g (motive := fun b => p b = p a) rfl fun b hb x _ => (h b x).trans hb

theorem State.resetFn_fn (s : State) (f : Nat) : (s.resetFn f).fn f = {} := by
  have e : (s.resetFn f).fns = ((s.cancelFn f).setFn f {}).fns := foldl_keeps State.fns State.resetCtx State.resetCtx_fns _ _
  unfold State.fn
  rw [e]
  exact State.fn_setFn _ _ _

/-- A function without commands has none to cancel. -/
theorem State.cancelFn_idle {s : State} {f : Nat} (h : ∀ c ∈ s.cmds, c.fn ≠ f) : s.cancelFn f = s := by
  have none : (s.cmds.filter fun c => c.fn == f) = [] := List.filter_eq_nil_iff.2 fun c hc => by simpa using h c hc
  have same : (s.cmds.map fun c => if c.fn = f then { c with mute := true } else c) = s.cmds := by
    rw [List.map_congr_left fun c hc => if_neg (h c hc), List.map_id']
  unfold State.cancelFn
  rw [none, same]
  rfl

section Idle
variable {s : State} {f : Nat} (h : ∀ c ∈ s.cmds, c.fn ≠ f)
include h

theorem State.resetFn_idle : s.resetFn f = (s.madeBy f).foldl State.resetCtx (s.setFn f {}) := by
  rw [State.resetFn_eq, State.cancelFn_idle h]; rfl

theorem State.resetFn_keeps : (s.resetFn f).cmds = s.cmds ∧ (s.resetFn f).mem = s.mem ∧ (s.resetFn f).cores = s.cores := by
  rw [State.resetFn_idle h]
  exact ⟨foldl_keeps State.cmds _ State.resetCtx_cmds _ _, foldl_keeps State.mem _ State.resetCtx_mem _ _,
    foldl_keeps State.cores _ State.resetCtx_cores _ _⟩

theorem State.resetFn_tears {k : Nat} {x : Ctx} (hk : s.ctxs = [(k, x)]) (hc : x.creator = f) (ht : x.tear = none) (ha : x.state = .active) :
    ((s.resetFn f).ctx k).state = .tearing := by
  have made : s.madeBy f = [k] := by simp [State.madeBy, hk, hc, ha]
  have hx : (s.setFn f {}).ctx k = x := by simp [State.ctx, hk, tabGet, tabGet?]
  rw [State.resetFn_idle h, made, List.foldl_cons, List.foldl_nil]
  unfold State.resetCtx
  rw [hx, if_neg (by simp [ha])]
  exact State.tear_state _ (by rw [hx, ht])

end Idle

/-- Settles O53: one lemma for each access and its case, and those of `State.resetFn` for the Function Level Reset. -/
theorem hostAccessesReachTheDevice : Obligations.HostAccessesReachTheDevice := by
  unfold Obligations.HostAccessesReachTheDevice
  refine ⟨?mapped, ?unmapped, ?reads, ?writes, ?flr⟩
  case mapped =>
    intro s f off hup hshut hmap hidle
    exact ⟨fun bs _ hc => execBar2Write_mapped hup hshut off bs hmap hidle hc,
      fun n _ _ hr => execBar2Read_mapped hup hshut off n hmap hidle hr⟩
  case unmapped =>
    intro s f off n bs hup hshut hmap
    exact ⟨execBar2Write_unmapped off bs hmap, execBar2Read_unmapped hup hshut off n hmap⟩
  case reads =>
    intro s f off hup ha
    refine ⟨fun w hl => ⟨_, execLatchedRead_word f hup ha, ?_⟩, fun hl hb hw => ⟨_, execLatchedRead_word f hup ha, ?_⟩⟩
    · simp [State.bar0Read_latched ha hl]
    · simp [State.bar0Read_latches ha hl hb hw]
  case writes =>
    intro s f v h
    have hword := fun off => execRegisterWrite_word f off v h
    refine ⟨?_, ?_, ?_, ?_, fun hlock => ?_, ?_⟩ <;> rw [exec_registerWrite, hword]
    · exact congrArg _ (s.bar0Write_tail0 f _)
    · exact congrArg _ (s.bar0Write_ringCtrl3 f _)
    · exact congrArg _ (s.bar0Write_mwCtrl f _)
    · exact congrArg _ (s.bar0Write_inject f _)
    · exact congrArg _ (s.bar0Write_debugLocked f _ hlock)
    · exact congrArg _ (s.bar0Write_version f _)
  case flr =>
    intro s f
    refine ⟨_, rfl, s.resetFn_fn f, fun hidle => ?_⟩
    obtain ⟨hcmds, hmem, hcores⟩ := State.resetFn_keeps hidle
    exact ⟨hcmds, hmem, hcores, fun k x hk hc ht ha => State.resetFn_tears hidle hk hc ht ha⟩

end Sys2Proof.Machine
end

section
/-! PROOFS. The five queues of a core: the instructions that every queue has, semaphores and counter cells, granules, time-outs and
deadlock. -/

namespace Sys2Proof.Machine

/-! NOP, END and SIGNAL (R42, R45). -/

section Issue
variable {s : State} {n : Fin 576} {e : Eng} {w : QWord} (h : s.heads n e w)
include h

theorem execNop_heads (ho : opcode w = 0x00) (hb : onlyBits w [(7, 0)] = true) :
    execNop n e s = .next (s.modQueue n e Queue.advance) := by
  simp [execNop, State.issueOp_heads _ h ho (definedOp_common e 0 (by decide)), hb]

theorem execEndQueue_heads (ho : opcode w = 0x01) (hb : onlyBits w [(7, 0)] = true) :
    execEndQueue n e s =
      .next (s.modQueue n e fun q => { q with ended := true, loops := [], hold := .none, seq := q.seq + 1 }) := by
  simp [execEndQueue, State.issueOp_heads _ h ho (definedOp_common e 1 (by decide)), hb]

theorem execSignal_heads (ho : opcode w = 0x02) (hb : onlyBits w [(7, 0), (12, 8), (47, 16)] = true) :
    execSignal n e s = .next (s.modQueue n e fun q =>
      { q.advance with sigs := q.sigs ++ [{ seq := q.seq, sem := fld w 12 8, amount := fld w 47 16 }] }) := by
  simp [execSignal, State.issueOp_heads _ h ho (definedOp_common e 2 (by decide)), hb]

end Issue

/-- Settles O3: each of the three stands at the head of its queue, with no reserved bit set. -/
theorem queueInstructionsIssue : Obligations.QueueInstructionsIssue := by
  unfold Obligations.QueueInstructionsIssue
  intro s n e w h
  rw [exec_nop, exec_endQueue, exec_signal]
  exact ⟨execNop_heads h, execEndQueue_heads h, execSignal_heads h⟩

/-! Loops (R45). -/

section Leave
variable {l : Loop} (k : Nat) (ls : List Loop)

/-- The end of a body with an iteration left leads back to its first instruction. -/
theorem settleLoops_repeats (h : l.idx + 1 < l.count) :
    settleLoops (k + 1) (l.start + l.body) (l :: ls) = (l.start, { l with idx := l.idx + 1 } :: ls) := by
  rw [settleLoops, if_pos rfl, if_pos h]

/-- The end of a body with no iteration left leaves the loop. -/
theorem settleLoops_leaves (h : l.count ≤ l.idx + 1) :
    settleLoops (k + 1) (l.start + l.body) (l :: ls) = settleLoops k (l.start + l.body) ls := by
  rw [settleLoops, if_pos rfl, if_neg (by omega)]

end Leave

/-- Where the next instruction stands, and in which loops, is what leaving the finished bodies gives. -/
theorem Queue.advance_of_settle {q : Queue} {p : Nat} {ls : List Loop} (h : settleLoops 5 (q.pos + 1) q.loops = (p, ls)) :
    q.advance.pos = p ∧ q.advance.loops = ls := by
  simp [Queue.advance, Queue.goto, h]

section Advance
variable {q : Queue} {l : Loop} {ls : List Loop} (h : q.loops = l :: ls)
include h

theorem Queue.advance_inside (hp : q.pos + 1 < l.start + l.body) : q.advance.pos = q.pos + 1 ∧ q.advance.loops = q.loops :=
  Queue.advance_of_settle (settleLoops_stays 4 _ _ (by simp [h]; omega))

theorem Queue.advance_repeats (hp : q.pos + 1 = l.start + l.body) (hi : l.idx + 1 < l.count) :
    q.advance.pos = l.start ∧ q.advance.loops = { l with idx := l.idx + 1 } :: ls :=
  Queue.advance_of_settle (by rw [h, hp, settleLoops_repeats 4 ls hi])

/-- A loop that is left leads on, unless its end ends the next outer body too. -/
theorem Queue.advance_leaves (hp : q.pos + 1 = l.start + l.body) (hi : l.count ≤ l.idx + 1)
    (hout : ∀ m ∈ ls.head?, q.pos + 1 ≠ m.start + m.body) : q.advance.pos = q.pos + 1 ∧ q.advance.loops = ls := by
  rw [hp] at hout
  exact Queue.advance_of_settle (by rw [h, hp, settleLoops_leaves 4 ls hi, settleLoops_stays 3 _ _ hout])

end Advance

/-- A new loop is entered at its first instruction: its body is not empty. -/
theorem Queue.goto_enters (q : Queue) (l : Loop) (hb : l.body ≠ 0) :
    q.goto l.start (l :: q.loops) = { q with
      pos := l.start, hold := .none, watch := none, notice := false, asked := false, loops := l :: q.loops } := by
  have stays : settleLoops 5 l.start (l :: q.loops) = (l.start, l :: q.loops) := settleLoops_stays 4 _ _ (by simpa using hb)
  simp [Queue.goto, stays]

/-- A LOOP that fits into the stream and into the loop around it, below four loops, is taken (R43). -/
theorem execLoop_heads {s : State} {n : Fin 576} {e : Eng} {w : QWord} (h : s.heads n e w) (ho : opcode w = 0x06)
    (hb : onlyBits w [(19, 0), (47, 24)] = true) (hbody : fld w 19 8 ≠ 0) :
    let q := s.queue n e
    let last := q.pos + 1 + fld w 19 8
    q.loops.length < 4 → last ≤ q.len → (∀ l ∈ q.loops.head?, last ≤ l.start + l.body) →
    execLoop n e s = .next (s.setQueue n e
      (if fld w 47 24 = 0 then { q.goto last q.loops with seq := q.seq + 1 }
       else { q.goto (q.pos + 1) ({ start := q.pos + 1, body := fld w 19 8, count := fld w 47 24, idx := 0 } :: q.loops) with
         seq := q.seq + 1 })) := by
  intro q last hdepth hlen hin
  unfold execLoop
  rw [State.issueOp_heads _ h ho (definedOp_common e 6 (by decide))]
  dsimp only
  rw [if_neg ?legal]
  · exact congrArg _ (apply_ite (s.setQueue n e) _ _ _).symm
  case legal =>
    change last ≤ (s.queue n e).len at hlen
    cases hl : (s.queue n e).loops <;> simp_all [q, last]

/-- Settles O4: LOOP enters a body that is not empty, and `settleLoops` decides what follows an instruction. -/
theorem loopRunsItsBody : Obligations.LoopRunsItsBody := by
  unfold Obligations.LoopRunsItsBody
  refine ⟨?enter, ?next⟩
  case enter =>
    intro s n e w h ho hb hbody q last hdepth hlen hin
    let entered : Loop := { start := q.pos + 1, body := fld w 19 8, count := fld w 47 24, idx := 0 }
    rw [exec_loop, execLoop_heads h ho hb hbody hdepth hlen hin, Queue.goto_enters q entered hbody]
  case next =>
    intro q l ls hl
    refine ⟨Queue.advance_inside hl, Queue.advance_repeats hl, fun hp hi hls => ?_, fun hp hi m ms hls hm => ?_⟩
    · have := Queue.advance_leaves hl hp hi (by simp [hls])
      rwa [hls] at this
    · exact Queue.advance_leaves hl hp hi (by simp [hls]; omega)

/-! SIGNAL_PERFORM (R47, R48). -/

/-- The core once the ready SIGNAL x of a queue has been added. -/
def Core.signalled (c : Core) (e : Eng) (x : Sig) : Core :=
  { c with sems := zSet c.sems x.sem (c.sem x.sem + x.amount) }.setQueue e { c.queue e with sigs := (c.queue e).sigs.drop 1 }

/-- A ready SIGNAL of a core that issues is added, unless it overflows. -/
theorem State.performSignal_ready {s : State} {n : Nat} {e : Eng} {x : Sig} (hi : s.issues n = true)
    (hx : (s.queue n e).readySignal = some x) :
    s.performSignal n e = if 2 ^ 32 ≤ (s.core n).sem x.sem + x.amount then s.faultCtx n e (mkFault .syncOverflow .faulted)
      else s.setCore n ((s.core n).signalled e x) := by
  unfold State.performSignal
  dsimp only
  rw [show ((s.core n).queue e).readySignal = some x from hx]
  dsimp only
  rw [if_neg (by simp [State.issues_running hi])]
  rfl

/-- With one queue named, its ready SIGNAL is performed, and the waits on its semaphore test unless it has stopped the core. -/
theorem execSignalPerform_one {s : State} {n : Fin 576} {e : Eng} {x : Sig} (hi : s.issues n = true)
    (hx : (s.queue n e).readySignal = some x) :
    execSignalPerform n [e] s = .next (if ((s.performSignal n e).core n).stopped then s.performSignal n e
      else (s.performSignal n e).modCore n fun c => c.grant x.sem) := by
  unfold execSignalPerform
  rw [hi, Eng.all_filter_one]
  simp [hx]

theorem Core.sem_signalled (c : Core) (e : Eng) (x : Sig) (k : Nat) :
    (c.signalled e x).sem k = if x.sem = k then c.sem x.sem + x.amount else c.sem k := zGet_zSet _ _ _ _

/-- A SIGNAL performed holds no queue and releases none. -/
theorem Core.hold_signalled (c : Core) (e d : Eng) (x : Sig) : ((c.signalled e x).queue d).hold = (c.queue d).hold := by
  unfold Core.signalled
  rw [Core.queue_setQueue_if]
  split
  · next h => rw [h]
  · rfl

/-- Settles O5: `State.performSignal` adds to the semaphore, and without a held WAIT the grant changes nothing. -/
theorem signalAddsToItsSemaphore : Obligations.SignalAddsToItsSemaphore := by
  unfold Obligations.SignalAddsToItsSemaphore
  intro s n e x hi hx hv c
  have hc : c = (s.core n).signalled e x := rfl
  have running : c.stopped = false := State.issues_running hi
  have added : s.performSignal n e = s.setCore n c := by rw [State.performSignal_ready hi hx, if_neg (by omega), hc]
  have performed : exec (.signalPerform n [e]) s = .next ((s.setCore n c).modCore n fun c => c.grant x.sem) := by
    rw [exec_signalPerform, execSignalPerform_one hi hx, added, State.core_setCore, running]
    rfl
  refine ⟨performed, fun hfree => ⟨?_, ?_, fun k hk => ?_⟩⟩
  · have free (d : Eng) : heldWait c d = none := heldWait_none c d (by rw [hc, Core.hold_signalled]; exact hfree d)
    rw [performed, State.modCore, State.core_setCore, Core.grant_none c x.sem free, State.setCore_setCore]
  · rw [hc, Core.sem_signalled, if_pos rfl]
  · rw [hc, Core.sem_signalled, if_neg (Ne.symm hk)]

/-- Settles O6: the fault of `State.performSignal` stops the core before the waits test. -/
theorem signalOverflowFaults : Obligations.SignalOverflowFaults := by
  unfold Obligations.SignalOverflowFaults
  intro s n e x hi hx hv
  have core := s.faultQueue_core n e.num (mkFault .syncOverflow .faulted)
  refine ⟨_, ?_, rfl, ?_⟩
  · rw [exec_signalPerform, execSignalPerform_one hi hx, State.performSignal_ready hi hx, if_pos hv, State.faultCtx, core]
    rfl
  · rw [State.faultCtx, core]
    exact ⟨rfl, rfl, rfl⟩

/-! WAIT (R42, R47, R49). -/

/-- A release changes queues and cached descriptors, no semaphore. -/
@[simp] theorem Core.release_sems (c : Core) (e : Eng) : (c.release e).sems = c.sems := by cases e <;> rfl

@[simp] theorem Core.sem_release (c : Core) (e : Eng) (k : Nat) : (c.release e).sem k = c.sem k := by
  rw [Core.sem, Core.release_sems, Core.sem]

/-- The core with the WAIT w held at the head of a queue, at a time. -/
def Core.waiting (c : Core) (e : Eng) (w : QWord) (now : Nat) : Core :=
  c.setQueue e { c.queue e with hold := .wait, deadline := timeoutAt now (fld w 53 48) }

theorem execWait_heads {s : State} {n : Fin 576} {e : Eng} {w : QWord} (h : s.heads n e w) (ho : opcode w = 0x03)
    (hb : onlyBits w [(7, 0), (13, 8), (53, 16)] = true) (ht : fld w 53 48 ≤ 24) :
    execWait n e s = .next (s.setCore n (((s.core n).waiting e w s.now).grant (fld w 12 8))) := by
  unfold execWait
  rw [State.issueOp_heads _ h ho (definedOp_common e 3 (by decide))]
  simp [hb, ht, State.modCore, State.modQueue, State.setQueue, State.queue, Core.waiting]

section Waiting
variable {c : Core} {e : Eng} {w : QWord} (now : Nat)

theorem heldWait_waiting (hw : tabGet? (c.queue e).buf (c.queue e).pos = some w) :
    heldWait (c.waiting e w now) e = some (fld w 12 8, bit w 13, fld w 47 16) := by
  simp [heldWait, Core.waiting, hw]

theorem heldWait_waiting_other {d : Eng} (hd : d ≠ e) (h : (c.queue d).hold ≠ .wait) : heldWait (c.waiting e w now) d = none := by
  apply heldWait_none
  rwa [Core.waiting, Core.queue_setQueue_other _ _ (Ne.symm hd)]

end Waiting

/-- What the WAIT w takes from its semaphore. -/
def waitTake (w : QWord) : Nat := if bit w 13 then fld w 47 16 else 0

/-- The core once the WAIT w of a queue has taken its VALUE, if TAKE is set. -/
def Core.taken (c : Core) (e : Eng) (w : QWord) : Core :=
  if bit w 13 then
    { c with sems := zSet c.sems (fld w 12 8) (c.sem (fld w 12 8) - fld w 47 16), granted := tabSet c.granted (fld w 12 8) e.num }
  else c

@[simp] theorem Core.queue_taken (c : Core) (e d : Eng) (w : QWord) : (c.taken e w).queue d = c.queue d := by
  unfold Core.taken; split <;> rfl

theorem Core.sem_taken (c : Core) (e : Eng) (w : QWord) : (c.taken e w).sem (fld w 12 8) = c.sem (fld w 12 8) - waitTake w := by
  unfold Core.taken waitTake
  split
  · exact zGet_zSet_same _ _ _
  · rfl

theorem Core.sem_taken_other (c : Core) (e : Eng) (w : QWord) {k : Nat} (h : k ≠ fld w 12 8) : (c.taken e w).sem k = c.sem k := by
  unfold Core.taken
  split
  · exact zGet_zSet_other _ _ (Ne.symm h)
  · rfl

/-- With no other queue held in a WAIT, the test of a WAIT releases its own queue or leaves it held. -/
theorem Core.grant_waiting {c : Core} {e : Eng} {w : QWord} (now : Nat) (hw : tabGet? (c.queue e).buf (c.queue e).pos = some w)
    (ho : ∀ d, d ≠ e → (c.queue d).hold ≠ .wait) :
    (c.waiting e w now).grant (fld w 12 8) =
      if fld w 47 16 ≤ c.sem (fld w 12 8) then ((c.waiting e w now).taken e w).release e else c.waiting e w now :=
  Core.grant_one _ e _ _ _ (heldWait_waiting now hw) fun d hd => heldWait_waiting_other now hd (ho d hd)

/-- Settles O7: the WAIT is held, and its test releases it exactly if the semaphore holds VALUE. -/
theorem waitTestsItsSemaphore : Obligations.WaitTestsItsSemaphore := by
  unfold Obligations.WaitTestsItsSemaphore
  intro s n e w h ho hb ht hfree
  obtain ⟨-, hw, -⟩ := Queue.of_head h.2
  have sems (k : Nat) : ((s.core n).waiting e w s.now).sem k = (s.core n).sem k := rfl
  refine ⟨_, (exec_wait n e s).trans (execWait_heads h ho hb ht), ?_⟩
  rw [Core.grant_waiting s.now hw hfree, State.queue, State.core_setCore]
  refine ⟨?own, fun k hk => ?sem, fun m hm => State.core_setCore_other _ _ (Ne.symm hm)⟩
  case own =>
    by_cases hv : fld w 47 16 ≤ (s.core n).sem (fld w 12 8)
    · rw [if_pos hv, if_pos hv, Core.queue_release, if_pos rfl, Core.queue_taken, Core.sem_release, Core.sem_taken, sems, Core.waiting,
        Core.queue_setQueue]
      exact ⟨Queue.advance_hold _, rfl, rfl, rfl⟩
    · rw [if_neg hv, if_neg hv, Core.waiting, Core.queue_setQueue]
      exact ⟨rfl, rfl, rfl, rfl⟩
  case sem =>
    split
    · rw [Core.sem_release, Core.sem_taken_other _ _ _ hk, sems]
    · rfl

/-! WAITMEM (R42, R43, R503). -/

section Cell
variable {s : State} {n : Nat} {e : Eng} {w : QWord}

/-- The queue with its WAITMEM held: until when, which line it watches, whether a remote READ is outstanding. -/
def Queue.holdCell (q : Queue) (deadline : Nat) (line : Option Nat) (asked : Bool) : Queue :=
  { q with hold := .waitmem, deadline := deadline, watch := line, notice := false, asked := asked }

/-- On scratchpad the cell is read at once. -/
theorem State.tryWaitmem_sp (hv : bit w 8 = false) (fresh : (s.queue n e).hold ≠ .waitmem) :
    s.tryWaitmem n e w =
      if waitmemThreshold (s.queue n e) w ≤ memRdLE (s.core n).sp (fld w 63 16) 8 then s.modCore n fun c => c.release e
      else s.modQueue n e fun q => q.holdCell (timeoutAt s.now (fld w 15 10)) none false := by
  simp only [State.tryWaitmem, hv, if_neg fresh]
  rfl

section Home
variable (hv : bit w 8 = true) {t : Target} {s1 : State} (ht : s.translate (s.seqVia n e) (fld w 63 16) .read = (.ok t, s1))
  {b : List Byte} {s2 : State} (hr : s1.vread (s1.seqVia n e) (fld w 63 16) 8 = (.ok b, s2))
include hv ht hr

/-- A cell of memory that holds the threshold releases its queue. -/
theorem State.tryWaitmem_releases (hc : waitmemThreshold (s.queue n e) w ≤ leVal b) :
    s.tryWaitmem n e w = s2.modCore n fun c => c.release e := by
  unfold State.tryWaitmem
  simp only [hv, ht, hr, if_pos hc]
  rfl

/-- A cell of memory below the threshold holds its queue, and its line is watched. -/
theorem State.tryWaitmem_watches (fresh : (s.queue n e).hold ≠ .waitmem) {pa : Nat} (hm : t = .mem pa)
    (hc : ¬ waitmemThreshold (s.queue n e) w ≤ leVal b) :
    s.tryWaitmem n e w = s2.modQueue n e fun q => q.holdCell (timeoutAt s2.now (fld w 15 10)) (some (pa / 64)) false := by
  subst hm
  simp only [State.tryWaitmem, hv, ht, hr, if_neg hc, if_neg fresh]
  rfl

end Home
end Cell

/-- A WAITMEM of a legal form with its cell in range tests its cell (R43, R60). -/
theorem execWaitmem_heads {s : State} {n : Fin 576} {e : Eng} {w : QWord} (h : s.heads n e w) (ho : opcode w = 0x04)
    (hb : onlyBits w [(8, 0), (15, 10), (127, 16)] = true) (ht : fld w 15 10 ≤ 24) (ha : fld w 63 16 % 8 = 0)
    (hr : bit w 8 = true ∨ spOk (s.core n).l1Units.toNat (fld w 63 16) 8 = true) :
    execWaitmem n e s = .next (s.tryWaitmem n e w) := by
  have reached : (!bit w 8 && !spOk (s.core n).l1Units.toNat (fld w 63 16) 8) = false := by rcases hr with h | h <;> simp [h]
  unfold execWaitmem
  rw [State.issueOp_heads _ h ho (definedOp_common e 4 (by decide))]
  simp [hb, ht, ha, reached]

/-- A notice, or the answer of the other device, has the cell of a held WAITMEM read again. -/
theorem execWaitmemNotice_held {s : State} {n : Fin 576} {e : Eng} {w : QWord} (hi : s.issues n = true)
    (hh : (s.queue n e).hold = .waitmem) (hn : ((s.queue n e).notice || (s.queue n e).asked) = true)
    (hw : tabGet? (s.queue n e).buf (s.queue n e).pos = some w) : execWaitmemNotice n e s = .next (s.tryWaitmem n e w) := by
  simp [execWaitmemNotice, hi, hh, hn, hw]

/-- Settles O8: one lemma of `State.tryWaitmem` for each place of the cell and each outcome of its test. -/
theorem waitmemWaitsForItsCell : Obligations.WaitmemWaitsForItsCell := by
  unfold Obligations.WaitmemWaitsForItsCell
  refine ⟨?test, ?again⟩
  case test =>
    intro s n e w h ho hb ht ha q
    have fresh := State.heads_not_waitmem h
    refine ⟨fun hv hr => ?_, fun hv pa s1 b s2 hm hr => ?_⟩
    · rw [exec_waitmem, execWaitmem_heads h ho hb ht ha (.inr hr), State.tryWaitmem_sp hv fresh]
      exact apply_ite Host.Outcome.next _ _ _
    · refine ⟨_, (exec_waitmem n e s).trans (execWaitmem_heads h ho hb ht ha (.inl hv)), ?_⟩
      by_cases hc : waitmemThreshold q w ≤ leVal b
      · rw [if_pos hc]
        exact State.tryWaitmem_releases hv hm hr hc
      · rw [if_neg hc, State.tryWaitmem_watches hv hm hr fresh rfl hc, State.queue_modQueue]
        exact ⟨rfl, rfl, rfl, rfl⟩
  case again =>
    intro s n e w t s1 b s2 hi hh hn hw hv ht hr hc
    rw [exec_waitmemNotice, execWaitmemNotice_held hi hh hn hw, State.tryWaitmem_releases hv ht hr hc]

/-! FENCE (R42, R165, R221). -/

/-- Settles O9: a FENCE at the head of its queue tests at once, for none is held in a FENCE there. -/
theorem fenceHoldsUntilPerformed : Obligations.FenceHoldsUntilPerformed := by
  unfold Obligations.FenceHoldsUntilPerformed
  intro s n e w h ho hb hscope q
  have fresh : ¬ (decide ((s.queue n e).hold = .fence) && s.issues n) = true := by simp [State.heads_not_fence h]
  have legal : ¬ (!(onlyBits w [(9, 0)] && decide (fld w 9 8 ≤ 2))) = true := by simp [hb, hscope]
  rw [exec_fence]
  unfold execFence
  dsimp only
  rw [if_neg fresh, State.issueOp_heads _ h ho (definedOp_common e 5 (by decide)), if_neg legal]
  simp only [Bool.and_eq_true]
  exact apply_ite Host.Outcome.next _ _ _

/-! GRANULE_FETCH and WAIT_TIMEOUT (R49, R52). -/

section Feed
variable {s : State} {n : Fin 576} {e : Eng} (hi : s.issues n = true)
include hi

theorem execGranuleFetch_feeds (he : (s.queue n e).ended = false) {p : Nat} {b : List Byte} {s' : State}
    (hp : (s.queue n e).pos < (s.queue n e).len) (hm : (s.queue n e).missing 64 (s.queue n e).pos = some p)
    (hr : s.vread (s.seqVia n e) (((s.queue n e).base + 16 * p) / 64 * 64) 64 = (.ok b, s')) :
    execGranuleFetch n e s = .next (s'.modQueue n e fun x => x.addGranule p (bytesLine b)) := by
  simp [execGranuleFetch, hi, he, Nat.not_le.2 hp, hm, hr]

theorem execGranuleFetch_overruns (he : (s.queue n e).ended = false) (hp : (s.queue n e).len ≤ (s.queue n e).pos) :
    execGranuleFetch n e s = .next (s.faultCtx n e (mkFault .streamOverrun .faulted)) := by
  simp [execGranuleFetch, hi, he, hp]

theorem execWaitTimeout_expired (hh : (s.queue n e).hold = .wait ∨ (s.queue n e).hold = .waitmem)
    (hd : (s.queue n e).deadline ≤ s.now) :
    execWaitTimeout n e s = .next (s.faultCtx n e (mkFault .waitTimeout .timeout)) := by
  have waits : (s.queue n e).waits = true := by unfold Queue.waits; rcases hh with h | h <;> rw [h] <;> rfl
  simp [execWaitTimeout, hi, waits, hd]

end Feed

/-- Settles O10: the fetch enters the granule it read, or faults past the end; an expired wait faults. -/
theorem queuesAreFedAndTimed : Obligations.QueuesAreFedAndTimed := by
  unfold Obligations.QueuesAreFedAndTimed
  refine ⟨fun s n e hi he => ⟨fun p b s' hp hm hr => ?_, fun hp => ?_⟩, fun s n e hi hh hd => ?_⟩
  · exact (exec_granuleFetch n e s).trans (execGranuleFetch_feeds hi he hp hm hr)
  · exact (exec_granuleFetch n e s).trans (execGranuleFetch_overruns hi he hp)
  · exact (exec_waitTimeout n e s).trans (execWaitTimeout_expired hi hh hd)

/-! QUEUE_DEADLOCK (R50). -/

/-- The queues stand in the order of their numbers: those before a queue are those of lower number. -/
theorem Eng.all_split (e : Eng) : Eng.all = Eng.all.take e.num ++ e :: Eng.all.drop (e.num + 1) := by cases e <;> rfl

theorem Eng.lower_of_mem_take (e : Eng) : ∀ d ∈ Eng.all.take e.num, d.num < e.num := by cases e <;> decide

/-- The first of the queues with a property is the one of the lowest number. -/
theorem Eng.head_filter_all {p : Eng → Bool} {e : Eng} (he : p e = true) (hlow : ∀ d, d.num < e.num → p d = false) :
    (Eng.all.filter p).head? = some e := by
  rw [List.head?_filter, List.find?_eq_some_iff_append]
  exact ⟨he, _, _, e.all_split, fun d hd => by rw [hlow d (e.lower_of_mem_take d hd)]; rfl⟩

theorem Eng.mem_all (e : Eng) : e ∈ Eng.all := by cases e <;> decide

/-- A core whose unended queues all stand in a WAIT, with nothing in progress, is deadlocked; the lowest of them is named. -/
theorem Core.deadlock_of_waits {c : Core} {e : Eng} (he : (c.queue e).ended = false)
    (hw : ∀ d, (c.queue d).ended = false → (c.queue d).hold = .wait)
    (hq : ∀ d, (c.queue d).flights = [] ∧ (c.queue d).sigs = []) (hlow : ∀ d, d.num < e.num → (c.queue d).ended = true) :
    c.deadlock = some e := by
  have waits : (Eng.all.filter fun d => !(c.queue d).ended).all (fun d => (c.queue d).hold == .wait) = true := by
    exact List.all_eq_true.2 fun d hd => by simpa using hw d (by simpa using (List.mem_filter.1 hd).2)
  have idle : (Eng.all.all fun d => (c.queue d).flights.isEmpty && (c.queue d).sigs.isEmpty) = true := by simp [hq]
  unfold Core.deadlock
  dsimp only
  rw [if_pos (by rw [waits, idle]; rfl)]
  exact Eng.head_filter_all (by simp [he]) fun d hd => by simp [hlow d hd]

/-- A queue held otherwise, in a WAITMEM or a FENCE, keeps its core from a deadlock. -/
theorem Core.deadlock_none {c : Core} {e : Eng} (he : (c.queue e).ended = false) (hw : (c.queue e).hold ≠ .wait) :
    c.deadlock = none := by
  have moves : (Eng.all.filter fun d => !(c.queue d).ended).all (fun d => (c.queue d).hold == .wait) = false := by
    rw [List.all_eq_false]
    exact ⟨e, by simp [he, e.mem_all], by simpa using hw⟩
  unfold Core.deadlock
  dsimp only
  rw [moves]
  rfl

/-- Settles O11: `Core.deadlock` names the lowest queue that has not ended, if every such queue stands in a WAIT. -/
theorem queueDeadlockFaults : Obligations.QueueDeadlockFaults := by
  unfold Obligations.QueueDeadlockFaults
  refine ⟨fun s n e hi he hw hq hlow => ?_, fun s n e he hh => ?_⟩
  · have dead : (s.core n).deadlock = some e := Core.deadlock_of_waits he hw hq hlow
    simp [exec_queueDeadlock, execQueueDeadlock, hi, dead]
  · have held : (s.queue n e).hold ≠ .wait := by rcases hh with h | h <;> simp [h]
    have moves : (s.core n).deadlock = none := Core.deadlock_none (e := e) he held
    simp [exec_queueDeadlock, execQueueDeadlock, moves]

end Sys2Proof.Machine
end

section
/-! PROOFS. A core's kernel from its start to its end, the issue of engine instructions, and what the commands about contexts, kernels
and the calendar do. -/

namespace Sys2Proof.Machine

/-! CORE_START and CORE_END (R55 to R57). -/

/-- The state in which an assigned core has started its kernel. -/
def State.afterCoreStart (s1 : State) (n : Nat) (id model seq : Nat) (args : List Byte) : State :=
  let s := s1.setCore n ((s1.core n).begin_ n seq args)
  (s.setPlan n { s.plan n with since := s.now, rest := 0 }).modCmd id fun y =>
    { y with launch := y.launch.map fun l => l.begun model s.now }

/-- An assigned core whose arguments can be read starts. -/
theorem execCoreStart_starts {s : State} {n : Fin 576} {d : Cmd} {args : List Byte} {s1 : State} (ha : (s.core n).assigned = true)
    (hs : (s.core n).stopped = false) (hv : s.serving = true) (hd : s.cmd? (s.core n).cmd = some d)
    (hr : (s.modCore n fun c => { c with tlb := [] }).vread (s.coreVia n) (s.core n).kernel.argAddr (s.core n).kernel.argLen
      = (.ok args, s1)) :
    execCoreStart n s = .next (s1.afterCoreStart n d.id (s.core n).model d.seq args) := by
  simp only [execCoreStart, ha, hs, hv, hd, hr]
  rfl

/-- The start of a kernel changes one core. -/
theorem State.core_afterCoreStart (s1 : State) (n m : Nat) (id model seq : Nat) (args : List Byte) :
    (s1.afterCoreStart n id model seq args).core m = (s1.setCore n ((s1.core n).begin_ n seq args)).core m := rfl

/-- The end of a kernel whose instructions have completed and whose DONE_CTR has been added to. -/
theorem execCoreEnd_ends {s : State} {n : Fin 576} {s1 : State} (hl : s.live n = true) (hq : s.quiet n = true)
    (hd : s.addDone n = (.ok (), s1)) :
    let c := { (s1.core n).vacant with
      lastStatus := 0x00, prev := some ((s.core n).context.toNat, (s.core n).l1Units.toNat) }
    let t := (s1.setCore n c).setPlan n { s1.plan n with next := none }
    execCoreEnd n s = .next (t.coreEnded (s.core n).cmd (s.core n).model (s.core n).index) := by
  simp only [execCoreEnd, hl, hq, hd]
  rfl

/-- A kernel without DONE_CTR has nothing to add (R57). -/
theorem State.addDone_none {s : State} {n : Nat} (h : (s.core n).kernel.doneCtr = 0) : s.addDone n = (.ok (), s) := by
  simp [State.addDone, h]

/-- The scratchpad of a started kernel holds the launch header and the arguments from byte 0 (R56, R59). -/
theorem Core.begin_sp (c : Core) (n seq : Nat) (args : List Byte) :
    (c.begin_ n seq args).sp = memWrN c.startScratch 0 (launchHeader n c seq ++ args) := by
  unfold Core.begin_; dsimp only

/-- Settles O14: the start is `Core.begin_` on the state that the arguments were read in; the end leaves the core vacant. -/
theorem kernelStartsAndEnds : Obligations.KernelStartsAndEnds := by
  unfold Obligations.KernelStartsAndEnds
  refine ⟨?start, ?finish⟩
  case start =>
    intro s n d args s1 ha hs hv hd hr
    refine ⟨_, (exec_coreStart n s).trans (execCoreStart_starts ha hs hv hd hr), ?_⟩
    rw [State.core_afterCoreStart, State.core_setCore]
    exact ⟨rfl, rfl, rfl, rfl, rfl, fun k => rfl, rfl, rfl, rfl, Core.begin_sp _ _ _ _, rfl, rfl,
      fun m hm => State.core_setCore_other _ _ (Ne.symm hm)⟩
  case finish =>
    intro s n s1 hl hq hd c t
    refine ⟨(exec_coreEnd n s).trans (execCoreEnd_ends hl hq hd), rfl, rfl, fun h0 => ?_⟩
    rw [State.addDone_none h0] at hd
    exact (Prod.mk.inj hd).2.symm

/-! Engine instructions (R40, R44, R81, R103). -/

/-- A row that starts an engine instruction launches it when it stands at the head, passes its checks and waits for nothing. -/
theorem exec_launches {s : State} {n : Fin 576} {i : Instr} {e : Eng} {op : Nat} {start : Core → QWord → Except CtxFault Started}
    (hx : exec i s = .next (s.startEngine n e op start)) (hd : definedOp e op = true) :
    ∀ w st, s.heads n e w → opcode w = op → start ((s.core n).view e) w = .ok st → st.fault = none →
      (∀ f ∈ (s.queue n e).flights, st.waitsFor e w f = false) → exec i s = .next (s.setCore n ((s.core n).launch e w st)) :=
  fun _ _ h ho hs hf hw => hx.trans (congrArg _ (State.startEngine_launch h ho hd hs hf hw))

/-- Settles O16: every row of the two engines is `State.startEngine` with an opcode that its queue defines. -/
theorem engineInstructionsIssue : Obligations.EngineInstructionsIssue := by
  unfold Obligations.EngineInstructionsIssue
  refine ⟨?starts, ?otherwise⟩
  case starts =>
    intro s n starts
    have row {i e op start} (hx : exec i s = .next (s.startEngine n e op start)) (hd : definedOp e op = true) :
        starts i e op start := exec_launches hx hd
    exact ⟨⟨row (exec_ldb n s) rfl, row (exec_mma n s) rfl, row (exec_accmode n s) rfl,
        row (exec_acczero n s) rfl, row (exec_accst n s) rfl, row (exec_accld n s) rfl,
        row (exec_ststat n s) rfl⟩,
      row (start := fun _ w => setlenStart (s.queue n .vxe).loops w) (exec_setlen n s) rfl,
      row (exec_vxeLd n s) rfl, row (exec_vxeSt n s) rfl,
      row (exec_stslab n s) rfl, row (exec_alu n s) rfl, row (exec_fma n s) rfl,
      row (exec_vxeSel n s) rfl, row (exec_vxeFunc n s) rfl, row (exec_vxeCvt n s) rfl,
      row (exec_red n s) rfl, row (exec_vstat n s) rfl⟩
  case otherwise =>
    intro s n e op start w h ho hd
    exact ⟨fun f => State.startEngine_fault h ho hd, fun st => State.startEngine_waits h ho hd⟩

/-! Commands that have started (R18): each is its opcode's own effect on the state it started in. -/

/-- A command that has started does what its row says. -/
theorem State.starts.runs {s u : State} {f r i op : Nat} {params : State → Cmd → Chk} {c : Cmd} (h : s.starts f r i op params c u)
    {run : State → Cmd → State} {x : Instr} (hx : exec x s = .next (s.startCmd f r i op params run)) : exec x s = .next (run u c) :=
  hx.trans (congrArg _ (h run))

/-! Calendar entries (R293). -/

/-- An entry is armed at the lowest free index from 256 on, with its due time, class and context. -/
theorem State.armFor_some {s : State} {x : Nat} {e : CalEntry} {k : Nat} {t : State} (h : s.armFor x e = some (k, t)) :
    256 ≤ k ∧ tabGet? s.cal.entries k = none ∧ (∀ j, 256 ≤ j → j < k → tabGet? s.cal.entries j ≠ none) ∧
      ∃ y, tabGet? t.cal.entries k = some y ∧ y.due = e.due ∧ y.cls = e.cls ∧ y.context = BitVec.ofNat 8 x := by
  unfold State.armFor at h
  dsimp only at h
  split at h
  · cases h
  · split at h
    · cases h
    · next i hi =>
      obtain ⟨rfl, rfl⟩ := Prod.mk.inj (Option.some.inj h)
      obtain ⟨hfree, -, hlow⟩ := List.find?_range_eq_some.1 hi
      refine ⟨Nat.le_add_right _ _, by simpa using hfree, fun j hj hjk => ?_, ?_⟩
      · have := hlow (j - 256) (by omega)
        rw [Nat.add_sub_cancel' hj] at this
        exact Option.isSome_iff_ne_none.1 (by simpa using this)
      · exact ⟨_, tabGet?_tabSet_same _ _ _, rfl, rfl, rfl⟩

/-- An entry fires in the 100 ns window of its due time and after it (R297). -/
theorem inDueWindow {o : Option Nat} {now d : Nat} (ho : o = some d) (h : d / 100 ≤ now / 100) :
    (o.any fun d => decide (d / 100 ≤ now / 100)) = true := by
  simp [ho, h]

theorem beforeDueWindow {o : Option Nat} {now : Nat} (h : ∀ d ∈ o, now / 100 < d / 100) :
    ¬ (o.any fun d => decide (d / 100 ≤ now / 100)) = true := by
  simpa [Option.any_eq_true] using h

/-- Settles O51: each clause is the row's own effect, which the command that has started runs. -/
theorem contextAndCalendarCommands : Obligations.ContextAndCalendarCommands := by
  unfold Obligations.ContextAndCalendarCommands
  intro s u f r i c
  refine ⟨?nop, ?query, ?phase, ?calArm, ?calCancel, ?attest, ?create, ?attr, ?destroy, ?aperture, ?launch, ?abort, ?idle⟩
  case nop => exact fun h => h.runs (exec_cmdNop f r i s)
  case query =>
    intro h t ht
    rw [h.runs (exec_query f r i s), ht]
  case phase =>
    intro h
    rw [h.runs (exec_phase f r i s)]
    dsimp only
    exact ⟨fun he => by rw [he], fun k t he => by rw [he]⟩
  case calArm =>
    intro h
    rw [h.runs (exec_calArm f r i s)]
    dsimp only
    exact ⟨fun he => by rw [he], fun k t he => ⟨by rw [he], State.armFor_some he⟩⟩
  case calCancel =>
    intro h
    rw [h.runs (exec_calCancel f r i s)]
    dsimp only
    refine ⟨fun hlater => ?_, fun d hd hnow => ?_⟩
    · rw [if_neg (beforeDueWindow hlater)]
    · rw [if_pos (inDueWindow hd hnow)]
  case attest =>
    intro h
    rw [h.runs (exec_attest f r i s)]
    dsimp only
    exact fun t ht => by rw [ht]
  case create =>
    intro h
    exact ⟨_, h.runs (exec_ctxCreate f r i s), rfl, rfl, rfl, rfl, rfl, rfl, rfl, rfl, rfl, rfl, rfl, rfl, rfl⟩
  case attr =>
    intro h m x
    exact h.runs (exec_ctxAttr f r i s)
  case destroy =>
    intro h ht
    rw [h.runs (exec_ctxDestroy f r i s), State.tear, State.modCtx, ht]
    rfl
  case aperture =>
    intro h
    rw [h.runs (exec_aperture f r i s)]
    exact ⟨fun hb => by rw [hb]; rfl, fun hb => by rw [hb]; rfl⟩
  case launch =>
    intro h d t hf hr
    rw [h.runs (exec_launch f r i s)]
    dsimp only at hr ⊢
    rw [hr]
    dsimp only
    rw [if_pos hf]
    exact ⟨fun hc => by rw [hc], fun e hc => by rw [hc]⟩
  case abort =>
    intro h
    rw [h.runs (exec_abort f r i s)]
    dsimp only
    exact ⟨fun hn => by rw [hn], fun d hn => by rw [hn]⟩
  case idle => exact fun h => h.runs (exec_idleConfig f r i s)

end Sys2Proof.Machine
end

section
/-! PROOFS. Arithmetic on element codes: the saturation of INT32 results in the vector engine, and the FP32 instructions of
threads. -/

namespace Sys2Proof.Machine

/-! INT32 results (R113). -/

/-- A code and its flags are what R113 asks for the exact INT32 result v. -/
def saturatedTo (r : Nat × VFlags) (v : Int) : Prop :=
  (2 ^ 31 - 1 < v → r.1 = 0x7FFFFFFF ∧ r.2 = { intSat := true }) ∧
    (v < -2 ^ 31 → r.1 = 0x80000000 ∧ r.2 = { intSat := true }) ∧
    (-2 ^ 31 ≤ v → v ≤ 2 ^ 31 - 1 → signed 32 r.1 = v ∧ r.1 < 2 ^ 32 ∧ r.2 = {})

theorem satInt_int32_above {v : Int} (h : 2 ^ 31 - 1 < v) : satInt .int32 v = (0x7FFFFFFF, true) := by
  have hgt : (2147483647 : Int) < v := by omega
  simp [satInt, Format.width, hgt, Int.ne_of_lt hgt]

theorem satInt_int32_below {v : Int} (h : v < -2 ^ 31) : satInt .int32 v = (0x80000000, true) := by
  have hle : ¬ (2147483647 : Int) < v := by omega
  have hlt : v < -2147483648 := by omega
  simp [satInt, Format.width, hle, hlt, (Int.ne_of_lt hlt).symm]

theorem satInt_int32_within {v : Int} (hl : -2 ^ 31 ≤ v) (hh : v ≤ 2 ^ 31 - 1) :
    satInt .int32 v = ((v % 2 ^ 32).toNat, false) := by
  have hle : ¬ (2147483647 : Int) < v := by omega
  have hge : ¬ v < -2147483648 := by omega
  simp [satInt, Format.width, hle, hge]

/-- The 32-bit code of a value in range reads back as the value. -/
theorem signed_toNat_emod {v : Int} (hl : -2 ^ 31 ≤ v) (hh : v ≤ 2 ^ 31 - 1) : signed 32 (v % 2 ^ 32).toNat = v := by
  unfold signed
  split <;> omega

/-- `satInt` with INT_SAT for its flag gives the code and the flags of R113. -/
theorem satInt_saturatedTo (v : Int) : saturatedTo ((satInt .int32 v).1, { intSat := (satInt .int32 v).2 }) v := by
  refine ⟨fun h => ?above, fun h => ?below, fun hl hh => ?within⟩
  case above => rw [satInt_int32_above h]; exact ⟨rfl, rfl⟩
  case below => rw [satInt_int32_below h]; exact ⟨rfl, rfl⟩
  case within =>
    rw [satInt_int32_within hl hh]
    exact ⟨signed_toNat_emod hl hh, by dsimp only; omega, rfl⟩

theorem aluOp_int32_add (a b : Nat) : saturatedTo (aluOp .int32 0 a b) (signed 32 a + signed 32 b) := satInt_saturatedTo _
theorem aluOp_int32_sub (a b : Nat) : saturatedTo (aluOp .int32 1 a b) (signed 32 a - signed 32 b) := satInt_saturatedTo _
theorem aluOp_int32_mul (a b : Nat) : saturatedTo (aluOp .int32 2 a b) (signed 32 a * signed 32 b) := satInt_saturatedTo _
theorem fmaOp_int32 (a b d : Nat) : saturatedTo (fmaOp .int32 a b d) (signed 32 a * signed 32 b + signed 32 d) :=
  satInt_saturatedTo _

/-- Settles O18: each operation is `satInt` of its exact result. -/
theorem int32Saturates : Obligations.Int32Saturates := by
  unfold Obligations.Int32Saturates
  intro a b d
  exact ⟨aluOp_int32_add a b, aluOp_int32_sub a b, aluOp_int32_mul a b, fmaOp_int32 a b d⟩

/-! FP32 instructions of a thread (R112, R138, R140). -/

theorem Num.lt_of_nan {x y : Num} (h : x = .nan ∨ y = .nan) : Num.lt x y = false := by
  rcases h with rfl | rfl
  · rfl
  · cases x <;> rfl

theorem Num.eq_of_nan {x y : Num} (h : x = .nan ∨ y = .nan) : Num.eq x y = false := by
  rcases h with rfl | rfl <;> simp [Num.eq, Num.isNan]

/-- A test that fails whenever p holds may be guarded by p. -/
theorem b2n_guard {p : Prop} [Decidable p] {t : Bool} (h : p → t = false) : b2n t = if p then 0 else b2n t := by
  split
  · next hp => rw [h hp]; rfl
  · rfl

/-- The conversion of a thread between two formats that its codes name (R121, R140). -/
theorem tCvt_formats {w : DWord} {x y : Format} (hx : Format.ofCode (fld w 35 32) = some x)
    (hy : Format.ofCode (fld w 39 36) = some y) (a : Nat) : tCvt w a = (cvtNum y (bit w 40) (decodeNum x a)).1 := by
  simp [tCvt, hx, hy]

/-- A row whose meaning is a result for each lane writes that result to D of the active lanes when a group is ready to issue it. -/
theorem exec_wrote {s s' : State} {n k : Nat} {g : Group} {w : DWord} {f : TForm} (h : s.threadReady s' n k g w f)
    {i : Instr} {op : Nat} {lane : DWord → Group → Nat → Nat} (hx : exec i s = .next (s.threadAlu n k op lane))
    {r : Nat → Nat} (hr : ∀ l, lane w g l = r l) :
    tOp w = op → exec i s = .next (s'.threadDone n k (g.wrote (tD w) r)) := by
  intro ho
  rw [hx, State.threadAlu_ready h ho, funext hr]

/-- Settles O20: each row is its lane's function (`tLane`, or its own), and a comparison with a NaN fails. -/
theorem threadFloatResults : Obligations.ThreadFloatResults := by
  unfold Obligations.ThreadFloatResults
  intro s s' n k g w f h
  refine ⟨exec_wrote h (exec_fadd n k s) (tLane_fadd w g), exec_wrote h (exec_fsub n k s) (tLane_fsub w g),
    exec_wrote h (exec_fmul n k s) (tLane_fmul w g), exec_wrote h (exec_ffma n k s) fun _ => rfl,
    exec_wrote h (exec_fmin n k s) (tLane_fmin w g), exec_wrote h (exec_fmax n k s) (tLane_fmax w g), ?fslt, ?fseq, ?cvt,
    exec_wrote h (exec_threadFunc n k s) fun _ => rfl⟩
  case fslt => exact exec_wrote h (exec_fslt n k s) fun l => (tLane_fslt w g l).trans (b2n_guard Num.lt_of_nan)
  case fseq => exact exec_wrote h (exec_fseq n k s) fun l => (tLane_fseq w g l).trans (b2n_guard Num.eq_of_nan)
  case cvt => exact fun x y hx hy => exec_wrote h (exec_threadCvt n k s) fun l => tCvt_formats hx hy (g.reg l (tA w))

end Sys2Proof.Machine
end

section
/-! PROOFS. Thread groups: integer instructions, collectives, the start and the end of a TSTART, fences, the store buffer and the
invalidations of an L1. -/

namespace Sys2Proof.Machine

/-! Integer instructions (R138, R140). -/

/-- A row that is one thread instruction does what that instruction does, when a group is ready to issue it. -/
theorem exec_threadOp_ready {s s' : State} {n k : Nat} {g : Group} {w : DWord} {f : TForm} (h : s.threadReady s' n k g w f)
    {i : Instr} {op : Nat} {run : Group → DWord → State → State} (hx : exec i s = .next (s.threadOp n k op run)) :
    tOp w = op → exec i s = .next (run g w s') :=
  fun ho => hx.trans (congrArg _ (State.threadOp_ready h ho run))

/-- Settles O19: each row is its lane's function (`tLane`, or its own); ADD64 and NOP are their own instruction. -/
theorem threadIntegerResults : Obligations.ThreadIntegerResults := by
  unfold Obligations.ThreadIntegerResults
  intro s s' n k g w f h
  exact ⟨exec_wrote h (exec_add n k s) (tLane_add w g), exec_wrote h (exec_sub n k s) (tLane_sub w g),
    exec_wrote h (exec_mul n k s) (tLane_mul w g), exec_wrote h (exec_mulhi n k s) (tLane_mulhi w g),
    exec_wrote h (exec_and n k s) (tLane_and w g), exec_wrote h (exec_or n k s) (tLane_or w g),
    exec_wrote h (exec_xor n k s) (tLane_xor w g), exec_wrote h (exec_shl n k s) (tLane_shl w g),
    exec_wrote h (exec_shr n k s) (tLane_shr w g), exec_wrote h (exec_sra n k s) (tLane_sra w g),
    exec_wrote h (exec_slt n k s) (tLane_slt w g), exec_wrote h (exec_sltu n k s) (tLane_sltu w g),
    exec_threadOp_ready h (exec_add64 n k s), exec_wrote h (exec_addi n k s) fun _ => rfl,
    exec_wrote h (exec_movi n k s) fun _ => rfl, exec_wrote h (exec_threadSel n k s) fun l => by simp only [bne_iff_ne],
    exec_threadOp_ready h (exec_threadNop n k s)⟩

/-! Collectives (R149 to R151). -/

/-- The mask of some lanes as a number is the sum of their bits. -/
theorem foldl_add_two_pow (ls : List Nat) : ls.foldl (fun m l => m + 2 ^ l) 0 = (ls.map (2 ^ ·)).sum := by
  rw [List.sum_eq_foldl, List.foldl_map]

theorem b2n_not_isEmpty (ls : List Nat) : b2n (!ls.isEmpty) = if ls = [] then 0 else 1 := by cases ls <;> rfl

section Collective
variable {s s' : State} {n : Fin 576} {k : Fin 64} {g : Group} {w : DWord} {f : TForm} (h : s.threadReady s' n k g w f)
include h

theorem exec_vote_ready (ho : tOp w = 0x40) :
    let yes := g.active.filter fun l => g.reg l (tA w) != 0
    exec (.vote n k) s = .next (s'.threadDone n k (g.wrote (tD w) fun _ =>
      if fld w 33 32 = 0 then (if yes = [] then 0 else 1)
      else if fld w 33 32 = 1 then (if yes.length = g.active.length then 1 else 0)
      else (yes.map (2 ^ ·)).sum)) := by
  refine exec_wrote h (exec_vote n k s) (fun l => ?_) ho
  dsimp only
  split
  case h_1 any => rw [if_pos any, b2n_not_isEmpty]
  case h_2 all => rw [if_neg (by omega), if_pos all]; simp only [b2n, beq_iff_eq]
  case h_3 notAny notAll => rw [if_neg notAny, if_neg notAll, foldl_add_two_pow]

theorem exec_bar_ready (ho : tOp w = 0x42) :
    exec (.bar n k) s = .next (if g.converged then s'.threadDone n k { g.step with bar := true }
      else s'.threadFault n k g.run.pc g.run.mask (mkFault .unconvergedCollective .faulted)) := by
  rw [exec_threadOp_ready h (exec_bar n k s) ho]
  cases g.converged <;> rfl

theorem exec_grpmul_unconverged (ho : tOp w = 0x48) (hm : g.run.mask ≠ 0xFFFFFFFF#32) :
    exec (.grpmul n k) s = .next (s'.threadFault n k g.run.pc g.run.mask (mkFault .unconvergedCollective .faulted)) := by
  rw [exec_threadOp_ready h (exec_grpmul n k s) ho, if_pos (bne_iff_ne.2 hm)]

/-- GRPMUL on tiles that lie aligned in the scratchpad writes the eight results of every lane. -/
theorem exec_grpmul_ready (ho : tOp w = 0x48) (hm : g.run.mask = 0xFFFFFFFF#32) (ha : g.reg 0 (tA w) % 64 = 0)
    (hb : g.reg 0 (tB w) % 64 = 0) (hpa : spOk (s'.core n).l1Units.toNat (g.reg 0 (tA w)) 1024 = true)
    (hpb : spOk (s'.core n).l1Units.toNat (g.reg 0 (tB w)) 1024 = true) :
    let out (l : Nat) : List Nat :=
      grpmulLane (s'.core n).sp (grpmulFormat (fld w 43 40)) (g.reg 0 (tA w)) (g.reg 0 (tB w)) g w l
    let written := (List.range 32).foldl (fun h l =>
      ((List.range 8).zip (out l)).foldl (fun h p => h.setReg l (tD w + p.1) p.2) h) g
    exec (.grpmul n k) s = .next ((s'.threadDone n k written.step).modCore n fun c => c.bump 12 2048) := by
  rw [exec_threadOp_ready h (exec_grpmul n k s) ho, if_neg (by simp [hm]), if_neg (by simp [ha, hb]), if_neg (by simp [hpa, hpb])]

end Collective

/-- A group with its wait at BAR ended if it belongs to the TSTART. -/
def Group.releasedFor (i : Nat) (g : Group) : Group := if g.ts = i then { g with bar := false } else g

theorem Group.releasedFor_ts (i : Nat) (g : Group) : (g.releasedFor i).ts = g.ts := by
  unfold Group.releasedFor; split <;> rfl

theorem Group.releasedFor_bar {i : Nat} {g : Group} (hg : g.ts = i) : (g.releasedFor i).bar = false := by
  simp [Group.releasedFor, hg]

/-- The groups of a TSTART that have all arrived at BAR are released in one step. -/
theorem execBarRelease_releases {s : State} {n : Fin 576} {i : Nat} (hi : s.issues n = true)
    (some_group : ∃ p ∈ (s.core n).tge.groups, p.2.ts = i) (arrived : ∀ p ∈ (s.core n).tge.groups, p.2.ts = i → p.2.bar = true) :
    execBarRelease n i s = .next (s.modCore n fun c =>
      { c with tge := { c.tge with groups := c.tge.groups.map fun p => (p.1, p.2.releasedFor i) } }) := by
  obtain ⟨p, hp, hts⟩ := some_group
  have present : ((s.core n).tge.groups.filter fun p => p.2.ts == i).isEmpty = false := by
    rw [List.isEmpty_eq_false_iff]
    exact List.ne_nil_of_mem (List.mem_filter.2 ⟨hp, beq_iff_eq.2 hts⟩)
  have all_there : ((s.core n).tge.groups.filter fun p => p.2.ts == i).all (fun p => p.2.bar) = true :=
    List.all_eq_true.2 fun q hq => arrived q (List.mem_filter.1 hq).1 (beq_iff_eq.1 (List.mem_filter.1 hq).2)
  simp only [execBarRelease, hi, present, all_there]
  rfl

/-- Settles O23: each row is its thread instruction on a ready group, and a release maps `Group.releasedFor` over the groups. -/
theorem collectivesNeedTheirLanes : Obligations.CollectivesNeedTheirLanes := by
  unfold Obligations.CollectivesNeedTheirLanes
  refine ⟨fun s s' n k g w f h => ⟨exec_vote_ready h, exec_wrote h (exec_shfl n k s) fun _ => rfl, exec_bar_ready h,
    exec_grpmul_unconverged h, exec_grpmul_ready h⟩, fun s n i hi hsome harr => ?release⟩
  case release =>
    refine ⟨_, (exec_barRelease n i s).trans (execBarRelease_releases hi hsome harr), ?_⟩
    simp only [State.core_modCore, List.length_map, State.modCore_mem, and_true, List.mem_map]
    rintro _ ⟨p, -, rfl⟩ hts
    exact Group.releasedFor_bar (p.2.releasedFor_ts i ▸ hts)

/-! TSTART (R133 to R135, R166). -/

section Tstart
variable {s : State} {n : Fin 576} {w : QWord} (h : s.heads n .tge w) (ho : opcode w = 0x10)
  (hb : onlyBits w [(7, 0), (14, 8), (95, 16)] = true) (ha : fld w 63 16 % 8 = 0)
include h ho hb ha

/-- TSTART without groups is passed over. -/
theorem execTstart_empty (h0 : fld w 14 8 = 0) : execTstart n s = .next (s.modQueue n .tge Queue.advance) := by
  simp only [execTstart, State.issueOp_heads _ h ho rfl]
  simp [hb, ha, h0]

/-- TSTART with groups holds its queue and waits for its slots, when no earlier one does. -/
theorem execTstart_waits (hl : fld w 14 8 ≤ (s.core n).tge.limit.toNat) (h64 : fld w 14 8 ≤ 64) (h0 : fld w 14 8 ≠ 0)
    (hs : ∀ x ∈ (s.core n).tge.starts, x.started = true) :
    execTstart n s = .next (s.modCore n fun c =>
      ({ c with tge := { (s.core n).tge with
          nextTs := (s.core n).tge.nextTs + 1
          starts := (s.core n).tge.starts ++ [{
            id := (s.core n).tge.nextTs, seq := (c.queue .tge).seq, groups := fld w 14 8, pc := fld w 63 16, arg := fld w 95 64 }] }
      } : Core).setQueue .tge { c.queue .tge with hold := .full }) := by
  have earlier : ((s.core n).tge.starts.any fun x => !x.started) = false := by simpa using hs
  simp only [execTstart, State.issueOp_heads _ h ho rfl]
  simp [hb, hl, h64, ha, h0, earlier]

end Tstart

/-- A TSTART that finds enough free slots starts its groups, with the L1's invalidations applied. -/
theorem execTstartGroupsStart_starts {s : State} {n : Fin 576} {x : TStart} (hi : s.issues n = true)
    (hx : ((s.core n).tge.starts.find? fun y => !y.started) = some x) (hf : x.groups ≤ (s.core n).tge.freeSlots.length) :
    execTstartGroupsStart n s = .next (s.setCore n
      (({ s.core n with l1 := (s.core n).l1.applyAll, tge := (s.core n).tge.place x n } : Core).setQueue .tge
        { (s.queue n .tge).advance with
          flights := (s.queue n .tge).flights ++ [{ seq := (s.queue n .tge).seq, op := 0x10, ts := x.id }] })) := by
  simp only [execTstartGroupsStart, hx, hi, Nat.not_lt.2 hf]
  rfl

/-- A TSTART that has finished leaves the engine and its queue. -/
theorem execTstartComplete_completes {s : State} {n : Fin 576} {i : Nat} (hf : (s.core n).tge.finished i = true) :
    execTstartComplete n i s = .next (s.setCore n
      (({ s.core n with tge := { (s.core n).tge with starts := (s.core n).tge.starts.filter fun x => x.id != i } } : Core).setQueue .tge
        { s.queue n .tge with flights := (s.queue n .tge).flights.filter fun f => f.ts != i })) := by
  simp only [execTstartComplete, hf]
  rfl

/-- What a started lane finds in s1 to s4 (R133). -/
def startReg (x : TStart) (i core l : Nat) : Nat → Nat
  | 1 => l
  | 2 => i
  | 3 => x.arg
  | 4 => core
  | _ => 0

/-- A group with s1 to s4 of one lane as they start. -/
def Group.startLane (x : TStart) (i core : Nat) (g : Group) (l : Nat) : Group :=
  (((g.setReg l 1 l).setReg l 2 i).setReg l 3 x.arg).setReg l 4 core

theorem Group.reg_startLane (x : TStart) (i core : Nat) (g : Group) (l m r : Nat) (hr : r < 256) :
    (g.startLane x i core l).reg m r = if m = l ∧ 1 ≤ r ∧ r ≤ 4 then startReg x i core l r % 2 ^ 32 else g.reg m r := by
  simp (disch := omega) only [Group.startLane, Group.reg_setReg]
  by_cases hm : m = l
  · by_cases hr4 : 1 ≤ r ∧ r ≤ 4
    · have named : r = 1 ∨ r = 2 ∨ r = 3 ∨ r = 4 := by omega
      rcases named with rfl | rfl | rfl | rfl <;> simp [hm, startReg]
    · rw [if_neg (by omega), if_neg (by omega), if_neg (by omega), if_neg (by omega), if_neg (by omega)]
  · simp [hm]

theorem Group.reg_foldl_startLane (x : TStart) (i core : Nat) (ls : List Nat) (g : Group) (l r : Nat) (hr : r < 256) :
    (ls.foldl (Group.startLane x i core) g).reg l r =
      if l ∈ ls ∧ 1 ≤ r ∧ r ≤ 4 then startReg x i core l r % 2 ^ 32 else g.reg l r := by
  induction ls generalizing g with
  | nil => simp
  | cons a ls ih =>
    rw [List.foldl_cons, ih, Group.reg_startLane _ _ _ _ _ _ _ hr]
    by_cases hl : l ∈ ls <;> by_cases ha : l = a <;> simp_all

theorem startGroup_eq (x : TStart) (i core age : Nat) :
    startGroup x i core age = (List.range 32).foldl (Group.startLane x i core)
      { ts := x.id, idx := i, age := age, paths := [{ pc := x.pc, mask := 0xFFFFFFFF#32, age := 0 }] } := by
  unfold startGroup; rfl

/-- The registers of a group as it starts. -/
theorem startGroup_reg (x : TStart) (i core age : Nat) {l r : Nat} (hl : l < 32) (hr : r < 256) :
    (startGroup x i core age).reg l r = if 1 ≤ r ∧ r ≤ 4 then startReg x i core l r % 2 ^ 32 else 0 := by
  rw [startGroup_eq, Group.reg_foldl_startLane _ _ _ _ _ _ _ hr]
  simp [hl, Group.reg, zGet, tabGet?]

/-- A group starts on one path of all its lanes. -/
theorem startGroup_paths (x : TStart) (i core age : Nat) :
    (startGroup x i core age).paths = [{ pc := x.pc, mask := 0xFFFFFFFF#32, age := 0 }] := by
  rw [startGroup_eq]
  exact foldl_keeps Group.paths _ (fun g l => by simp [Group.startLane]) _ _

theorem lanesOf_all : lanesOf 0xFFFFFFFF#32 = List.range 32 := by decide

/-- Settles O24: TSTART and the start and end of its groups by their cases; a lane's registers by `startGroup_reg`. -/
theorem tstartRunsItsGroups : Obligations.TstartRunsItsGroups := by
  unfold Obligations.TstartRunsItsGroups
  refine ⟨?tstart, ?starts, ?lanes, ?completes⟩
  case tstart =>
    intro s n w h ho hb hl h64 ha
    refine ⟨fun h0 => (exec_tstart n s).trans (execTstart_empty h ho hb ha h0), fun h0 hs => ?_⟩
    refine ⟨_, (exec_tstart n s).trans (execTstart_waits h ho hb ha hl h64 h0 hs), ?_, ?_⟩
    · simp [State.queue]
    · simp [State.queue]
  case starts =>
    intro s n x hi hx hf
    refine ⟨_, (exec_tstartGroupsStart n s).trans (execTstartGroupsStart_starts hi hx hf), ?_⟩
    simp [State.queue]
  case lanes =>
    intro x i core age l hl g
    have hreg (r : Nat) (hr : r < 256) : g.reg l r = if 1 ≤ r ∧ r ≤ 4 then startReg x i core l r % 2 ^ 32 else 0 :=
      startGroup_reg x i core age hl hr
    have hrun : g.run = { pc := x.pc, mask := 0xFFFFFFFF#32, age := 0 } := congrArg (List.headD · {}) (startGroup_paths x i core age)
    refine ⟨?_, hreg 2 (by decide), hreg 3 (by decide), hreg 4 (by decide), fun r hr hother => ?_, ?_, ?_⟩
    · exact (hreg 1 (by decide)).trans (Nat.mod_eq_of_lt (show l < 2 ^ 32 by omega))
    · rw [hreg r hr, if_neg (by omega)]
    · rw [Group.active, hrun, lanesOf_all]
    · rw [hrun]
  case completes =>
    intro s n i hf
    refine ⟨_, (exec_tstartComplete n i s).trans (execTstartComplete_completes hf), ?_⟩
    simp [State.queue]

/-! Fences, the store buffer, invalidations (R153, R155, R156, R221). -/

/-- A release that is asked for only when it is done lets its instruction go on. -/
theorem releaseReady_of {n : Nat} {w : DWord} {s : State} (h : 2 ≤ tOrder w → s.releaseClear n (tScope w) = true) :
    releaseReady n w s = true := by
  unfold releaseReady
  by_cases ho : tOrder w < 2
  · simp [ho]
  · simp [h (Nat.le_of_not_lt ho)]

/-- An entry that its home takes leaves the store buffer, its bytes also in the L1's copy (R153, R189). -/
theorem State.drainEntry_done {s s1 : State} {n : Nat} {e : StoreLine} {y : Served} (hi : e.imp = none) (hm : inMemory e.line = true)
    (hd : s.access { kind := .wrThrough, requester := 4 * n, line := e.line, data := e.data, mask := e.mask,
                     tag := (s.engVia n .tge).tag, lastUse := e.dead } = (.done y, s1)) :
    s.drainEntry n e = (true, (s1.modCore n fun c => { c with l1 := c.l1.write c.l1Units.toNat e.line e.data e.mask }).modCore n fun c =>
      { c with tge := { c.tge with stores := c.tge.stores.filter fun x => !(x.imp == none && x.line == e.line) } }) := by
  simp only [State.drainEntry, hi, hm, hd]
  rfl

/-- The oldest invalidation leaves the queue, and its line the L1 (R221). -/
theorem L1.applyOne_cons {l : L1} {a i : Nat} {r : List (Nat × Nat)} (h : l.invq = (a, i) :: r) :
    l.applyOne.invq = r ∧ ∀ p ∈ l.applyOne.lines, p.2.line ≠ a := by
  simp [L1.applyOne, h, L1.inv]

theorem L1.applyOne_nil {l : L1} (h : l.invq = []) : l.applyOne = l := by simp [L1.applyOne, h]

/-- Settles O27: a fence waits for its release only; `State.drainEntry_done` and `L1.applyOne` give the rest. -/
theorem fencesAndBuffersDrain : Obligations.FencesAndBuffersDrain := by
  unfold Obligations.FencesAndBuffersDrain
  refine ⟨?fence, fun s n => ⟨rfl, rfl⟩, ?drain, ?apply⟩
  case fence =>
    intro s s1 n k g w f h ho hr
    rw [exec_threadOp_ready h (exec_threadFence n k s) ho, releaseReady_of hr]
    rfl
  case drain =>
    intro s n i e y s1 hv he hi hm hd
    have drains : execStoreBufferDrain n i s = .next (s.drainEntry n e).2 := by simp [execStoreBufferDrain, hv, he]
    refine ⟨_, (exec_storeBufferDrain n i s).trans drains, ?_⟩
    rw [State.drainEntry_done hi hm hd]
    simp
  case apply =>
    intro s n
    refine ⟨_, exec_invalidationApply n s, fun a i r hq => ?_, fun hq => ?_, rfl, rfl⟩
    · rw [State.core_modCore]; exact L1.applyOne_cons hq
    · rw [State.core_modCore]; exact L1.applyOne_nil hq

end Sys2Proof.Machine
end

section
/-! PROOFS. The unified cache and its memory: the slice hash, requests that find their line, what they leave in line and directory, what
the slices and the memory controllers do by themselves, and the responses of other devices. -/

namespace Sys2Proof.Machine

/-! The slice hash (R183). -/

/-- Rotating a byte as a number is rotating it as a word (R183). -/
theorem rotl8_toNat (x : BitVec 8) {k : Nat} (hk : k < 8) : rotl8 x.toNat k = (x.rotateLeft k).toNat := by
  rw [BitVec.rotateLeft_def, Nat.mod_eq_of_lt hk]
  simp [rotl8, Nat.or_mod_two_pow (n := 8), Nat.mod_eq_of_lt (Nat.lt_of_le_of_lt (Nat.shiftRight_le x.toNat (8 - k)) x.isLt)]

/-- Settles O28: byte by byte, the hash on numbers is the hash on words. -/
theorem sliceHashIsTheXor : Obligations.SliceHashIsTheXor := by
  unfold Obligations.SliceHashIsTheXor
  intro a
  have byte (i : Nat) : (a.toNat >>> (8 * i)) % 256 = (a.extractLsb' (8 * i) 8).toNat := by rw [BitVec.extractLsb'_toNat]
  have top : (a.toNat >>> 40) % 4 = ((a.extractLsb' 40 2).setWidth 8).toNat := by
    rw [BitVec.toNat_setWidth, BitVec.extractLsb'_toNat]; omega
  simp only [sliceOf, byte, top, rotl8_toNat _ (show 1 < 8 by omega), rotl8_toNat _ (show 2 < 8 by omega),
    rotl8_toNat _ (show 3 < 8 by omega), rotl8_toNat _ (show 4 < 8 by omega), rotl8_toNat _ (show 5 < 8 by omega), BitVec.toNat_xor]

/-! Requests that find their line (R186, R217, R218). -/

theorem onLine_inMemory {line : BitVec 42} (h : inMemory line.toNat = true) (f : Nat → State) : onLine line f = .next (f line.toNat) := by
  simp [onLine, h]

theorem onLine_beyond {line : BitVec 42} (h : inMemory line.toNat = false) (f : Nat → State) :
    onLine line f = .fault (.noSuchAddress (64 * line.toNat)) := by
  simp [onLine, h]

/-- An RD_UNIQUE or UPGRADE of an agent outside that finds its line is served at once (R218). -/
theorem State.ownRequest_hit {s : State} {r : Req} {k : Nat} (h : s.homeHit r k) (hr : r.reread = false)
    (ha : ∃ a, reqAgent r.requester = some a ∧ 576 ≤ a) :
    s.ownRequest r = s.servedAt
      (if r.kind = .upgrade ∧ holdsCopy ((s.slice (sliceOf r.line)).way k) r = false then { r with kind := .rdUnique } else r) k := by
  obtain ⟨a, ha, hout⟩ := ha
  have hl1 : ¬ a < 576 := by omega
  simp only [State.ownRequest, ha, hl1, decide_false, Bool.false_and, Bool.false_eq_true, if_false]
  exact State.request_hit h _ (State.accept_hit h hr)

/-- Settles O29: each request passes its own checks, and `State.request_hit` and `State.accept_hit` serve it. -/
theorem homeServesRequests : Obligations.HomeServesRequests := by
  unfold Obligations.HomeServesRequests
  refine ⟨fun s q line ctx part dev last k hm => ⟨fun off len h0 h64 hit => ?rdOnce, fun hq hit => ?rdShared, fun ha hit => ?rdUnique,
    fun ha hit => ?upgrade, fun op off len x cmp hred hlen hal hit => ?atomic⟩, fun s q line ctx part dev last hm => ?beyond⟩
  case rdOnce =>
    have fits : ¬ 64 < off.val + len := by omega
    rw [exec_rdOnce, execRdOnce, onLine_inMemory hm]
    simp only [h0, fits, decide_false, Bool.or_false, Bool.false_eq_true, if_false]
    exact congrArg _ (State.request_hit hit _ (State.accept_hit hit rfl))
  case rdShared =>
    rw [exec_rdShared, execRdShared, onLine_inMemory hm]
    simp only [Option.isNone_eq_false_iff.mpr hq, Bool.false_eq_true, if_false]
    exact congrArg _ (State.request_hit hit _ (by rw [State.accept_hit hit rfl]; rfl))
  case rdUnique =>
    rw [exec_rdUnique, execRdUnique, onLine_inMemory hm, State.ownRequest_hit hit rfl ha]
    rfl
  case upgrade =>
    rw [exec_upgrade, execUpgrade, onLine_inMemory hm, State.ownRequest_hit hit rfl ha]
    simp only [true_and, ← Bool.not_eq_true, ite_not]
  case atomic =>
    have fits : (len != 0 && len % len == 0 && off.val % len == 0 && decide (off.val + len ≤ 64) && (op.isRed || len == 4 || len == 8)) = true := by
      have := off.isLt
      rcases hlen with rfl | rfl <;> simp [hal, hred] <;> omega
    rw [exec_atomic, execAtomic, onLine_inMemory hm]
    simp only [hred, Bool.false_eq_true, if_false] at fits ⊢
    rw [if_pos fits]
    exact congrArg _ (State.request_hit hit _ (by rw [State.accept_hit hit rfl]; rfl))
  case beyond => rw [exec_rdShared, execRdShared, onLine_beyond hm]

/-! What a request leaves in line and directory (R186, R194, R200, R214, R215, R218). -/

theorem insertNat_contains (x : Nat) (l : List Nat) : (insertNat x l).contains x = true := by
  unfold insertNat; split <;> simp_all

theorem mem_insertNat {x y : Nat} {l : List Nat} (h : x ∈ l) : x ∈ insertNat y l := by
  unfold insertNat; split <;> simp [h]

/-- An agent added to the sharers is a sharer, in coarse mode by its row (R215). -/
theorem Sharers.has_add (sh : Sharers) (a : Nat) : (sh.add a).1.has a = true := by
  unfold Sharers.add
  split
  · simp only [Sharers.has, *, if_true, insertNat_contains]
  · split
    · simp only [Sharers.has, *, if_false, if_true, insertNat_contains]
    · split
      · simp_all only [Sharers.has, if_false, insertNat_contains]
        simp_all
      · simp [Sharers.has, *, List.foldl_append, insertNat_contains, -List.contains_eq_mem]

/-- Settles O30: `State.performAt_plain` and `Slice.way_performed` say what stands in the way, `dirAfter` what the directory is. -/
theorem homeKeepsTheDirectory : Obligations.HomeKeepsTheDirectory := by
  unfold Obligations.HomeKeepsTheDirectory
  refine ⟨fun s n k r hl hp _ _ => ?way, fun d sh r a => ⟨fun hk ha => ?shared, fun hk ha => ?unique, fun hk => ?inv, fun hk => ?once⟩⟩
  case way =>
    obtain ⟨hdata, hmem, hway⟩ := State.performAt_plain (reread := false) hl hp
    dsimp only
    rw [hdata, hmem, hway, Slice.way_performed]
    exact ⟨rfl, rfl, rfl, rfl, rfl, rfl, rfl⟩
  case shared => simp [dirAfter, hk, ha, Sharers.has_add]
  case unique => simp [dirAfter, hk, ha]
  case inv => simp [dirAfter, hk]
  case once => simp [dirAfter, hk]

/-! What the slices and the memory controllers do by themselves (R190, R200, R202, R242, R245, R248 to R250). -/

/-- A refresh report of a channel that runs sets its factor and OVER_TEMP (R249). -/
theorem execRefreshReport_running {s : State} {c : Fin 256} (r : Fin 4) (hc : (s.chan c).state = 2) :
    execRefreshReport c r s = .next (s.setChan c
      { s.chan c with refresh := if r.val = 3 then 2 else BitVec.ofNat 2 r.val, overTemp := r.val == 3 }) := by
  have running : ¬ ((s.chan c).state != 2) = true := by rw [hc]; decide
  simp only [execRefreshReport, running, Bool.false_eq_true, if_false]

/-- Settles O36: each event's guards hold by its hypotheses; moving channels between states 2 and 3 is `State.moveChans_state`. -/
theorem memoryWorksByItself : Obligations.MemoryWorksByItself := by
  unfold Obligations.MemoryWorksByItself
  have differ : (2 : BitVec 4) ≠ 3 := by decide
  refine ⟨?fill, ?pin, ?reduction, ?patrol, ?report, ?entry, ?exit⟩
  case fill =>
    intro s line first second m l t n he hf hc hs hr
    rw [exec_fillLanded]
    simp only [execFillLanded, he, hf, hs, hr, beq_eq_false_iff_ne.mpr hc, Bool.not_true, Bool.or_false, Bool.false_eq_true, if_false, n]
  case pin =>
    intro s line k n w hf hp hm
    rw [exec_pinRelease]
    simp [execPinRelease, hf, hp, hm, n, w]
  case reduction =>
    intro s line r v t n hf hc hd hs hr
    rw [exec_memoryControllerReduction]
    simp only [execMemoryControllerReduction, hf, hd, hs, hr, beq_eq_false_iff_ne.mpr hc, Bool.not_true, Bool.or_false, Bool.false_eq_true, if_false, n]
  case patrol =>
    intro s c first second l t h0 hc hr
    rw [exec_patrolScrub]
    have guard : ¬ (decide (s.mem.scrubHours = 0) || (s.chan c).state != 2) = true := by rw [decide_eq_false h0, hc]; decide
    simp only [execPatrolScrub, guard, hr, Bool.false_eq_true, if_false]
  case report =>
    intro s c hc
    refine ⟨fun r => ⟨_, (exec_refreshReport c r s).trans (execRefreshReport_running r hc), ?_⟩, fun d hd => ?_, fun d hd => ?_⟩
    · rw [State.chan_setChan]
      exact ⟨rfl, rfl, rfl, fun d hd => State.chan_setChan_other _ _ (Ne.symm hd)⟩
    · rw [exec_dqsTracking]; simp [execDqsTracking, hc, Nat.not_lt.mpr hd]
    · rw [exec_dqsTracking]; simp [execDqsTracking, hc, hd]
  case entry =>
    intro s hi hq
    have quiet : (s.cache.slices.all fun p => p.2.forwarded.isEmpty && p.2.miss.isEmpty) = true := by
      simpa using hq
    refine ⟨s.moveChans 2 3, ?_, s.moveChans_bytes differ, fun c hc => s.moveChans_state differ hc⟩
    rw [exec_selfRefreshEntry]
    simp [execSelfRefreshEntry, hi, quiet]
  case exit =>
    intro s hw
    refine ⟨s.moveChans 3 2, ?_, s.moveChans_bytes differ.symm, fun c hc => s.moveChans_state differ.symm hc⟩
    rw [exec_selfRefreshExit]
    simp [execSelfRefreshExit, hw]

/-! Responses of other devices (R197, R323, R326, R327). -/

/-- A response whose CRC holds ends the request that it names and does what its kind asks for (R322, R323). -/
theorem State.response_tracked {s : State} {k op : Nat} {h : Line} {data : List Byte} {o : Outstanding} (act : State → Outstanding → State)
    (hon : s.sup.on = true) (hup : (s.port k).up = true) (hd : packetDest h = s.fab.device.toNat) (hok : packetOk h data = true)
    (hs : s.shut = false) (hop : hf h 0 1 = op) (ho : (s.fab.tracker.find? fun o => o.tag == hf h 0x1C 2 % 2 ^ 14) = some o) :
    s.response k op h data act = act { s with fab := { s.fab with tracker := s.fab.tracker.filter fun x => x.tag != o.tag } } o := by
  simp only [State.response, hon, hup, hd, hok, hs, hop, ho, bne_self_eq_false, Bool.not_true, Bool.or_false, Bool.false_eq_true, if_false]

/-- A response that names no request is discarded (R323). -/
theorem State.response_untracked {s : State} {k op : Nat} {h : Line} {data : List Byte} (act : State → Outstanding → State)
    (hon : s.sup.on = true) (hup : (s.port k).up = true) (hd : packetDest h = s.fab.device.toNat) (hok : packetOk h data = true)
    (hs : s.shut = false) (hop : hf h 0 1 = op) (ho : (s.fab.tracker.find? fun o => o.tag == hf h 0x1C 2 % 2 ^ 14) = none) :
    s.response k op h data act = s.discard := by
  simp only [State.response, hon, hup, hd, hok, hs, hop, ho, bne_self_eq_false, Bool.not_true, Bool.or_false, Bool.false_eq_true, if_false]

theorem Eng.find_num (e : Eng) : (Eng.all.find? fun x => x.num == e.num) = some e := by cases e <;> rfl

/-- A refused request of a resident core that runs is a context fault on its queue (R326). -/
theorem State.refused_resident {s : State} {n q : Nat} {e : Eng} {f : CtxFault} (hn : n < 576) (hq : q = e.num)
    (hres : (s.core n).resident = true) (hst : (s.core n).stopped = false) : s.refused n q f = s.faultCtx n e f := by
  simp only [State.refused, Nat.not_le.mpr hn, if_false, hq, Eng.find_num, hres, hst, Bool.not_true, Bool.or_false, Bool.false_eq_true]

/-- Settles O45: `State.response_tracked` finds the request; the kind of the response does the rest. -/
theorem remoteResponsesArrive : Obligations.RemoteResponsesArrive := by
  unfold Obligations.RemoteResponsesArrive
  refine ⟨fun s k h data hon hup hd hok hs => ⟨fun o ho => ⟨fun hop => ?data, fun hop hr => ?comp, fun e hop hn hq hres hst => ?error⟩,
    fun ho hop => ?discard⟩, fun s tag o ho hn => ?timeout, fun s a bs owner f => ⟨rfl, fun g k n => ?stream⟩⟩
  case data => rw [exec_data, execData, State.response_tracked _ hon hup hd hok hs hop ho]
  case comp =>
    rw [exec_remoteComp, execRemoteComp, State.response_tracked _ hon hup hd hok hs hop ho]
    simp only [hr, Bool.false_and, Bool.false_eq_true, if_false]
  case error =>
    rw [exec_error, execError, State.response_tracked _ hon hup hd hok hs hop ho]
    simp only [hn, if_true]
    exact congrArg _ (State.refused_resident hn hq hres hst)
  case discard => rw [exec_data, execData, State.response_untracked _ hon hup hd hok hs hop ho]
  case timeout =>
    rw [exec_remoteRequestTimeout, execRemoteRequestTimeout, ho]
    simp only [hn, if_true]
  case stream => simp [State.acked]

end Sys2Proof.Machine
end

section
/-! PROOFS. What leaves the bytes of device memory as they were, operation by operation: for the statements EveryCommandAnswers
and StepKeepsMemoryCanonical. -/

namespace Sys2Proof.Machine

theorem eq_mk_iff {α β : Type} {p : α × β} {a : α} {b : β} : p = (a, b) ↔ p.1 = a ∧ b = p.2 := by
  cases p; simp [eq_comm]

@[simp] theorem ite_bytes (c : Prop) [Decidable c] (s t : State) :
    (if c then s else t).mem.bytes = if c then s.mem.bytes else t.mem.bytes := apply_ite (·.mem.bytes) c s t

@[simp] theorem foldl_bytes {α : Type} {f : State → α → State} (hf : ∀ s x, (f s x).mem.bytes = s.mem.bytes)
    (l : List α) (s : State) : (l.foldl f s).mem.bytes = s.mem.bytes := by
  induction l generalizing s with
  | nil => rfl
  | cons x l ih => rw [List.foldl_cons, ih, hf]

@[simp] theorem foldl_snd_bytes {α β : Type} {f : β × State → α → β × State} (hf : ∀ p x, (f p x).2.mem.bytes = p.2.mem.bytes)
    (l : List α) (p : β × State) : (l.foldl f p).2.mem.bytes = p.2.mem.bytes := by
  induction l generalizing p with
  | nil => rfl
  | cons x l ih => rw [List.foldl_cons, ih, hf]

section Frame
variable (s : State)

/-! Tables, free choices and the record of faults. -/

@[simp] theorem State.setChan_bytes (n : Nat) (x : Chan) : (s.setChan n x).mem.bytes = s.mem.bytes := by rfl
@[simp] theorem State.choose_bytes (n : Nat) : (s.choose n).2.mem.bytes = s.mem.bytes := by rfl
@[simp] theorem State.record_bytes (r : FaultRec) : (s.record r).2.mem.bytes = s.mem.bytes := by rfl
@[simp] theorem State.modRecord_bytes (n : Nat) (f : FaultRec → FaultRec) : (s.modRecord n f).mem.bytes = s.mem.bytes := by
  unfold State.modRecord; split <;> simp
@[simp] theorem State.faultCtx_bytes (n : Nat) (e : Eng) (f : CtxFault) : (s.faultCtx n e f).mem.bytes = s.mem.bytes := by
  simp [State.faultCtx]
@[simp] theorem State.jobFault_bytes (t : Tag) (cause die addr detail : Nat) :
    (s.jobFault t cause die addr detail).mem.bytes = s.mem.bytes := by simp [State.jobFault]
@[simp] theorem State.deviceFault_bytes (cause detail die : Nat) : (s.deviceFault cause detail die).mem.bytes = s.mem.bytes := by
  simp [State.deviceFault]

/-! Time as it passes. -/

@[simp] theorem State.occupy_bytes (n ns : Nat) : (s.occupy n ns).mem.bytes = s.mem.bytes := by simp [State.occupy]
@[simp] theorem State.charge_bytes (n ns : Nat) : (s.charge n ns).mem.bytes = s.mem.bytes := by rfl
@[simp] theorem State.pass_bytes (ns : Nat) : (s.pass ns).mem.bytes = s.mem.bytes := by simp [State.pass]

/-! The home of a line. -/

@[simp] theorem State.recordUe_bytes (a source : Nat) (t : Tag) (sub : Nat) : (s.recordUe a source t sub).mem.bytes = s.mem.bytes := by
  rfl
@[simp] theorem State.readOnce_bytes (a : Nat) (flips : ErrPat) : (s.readOnce a flips).2.2.mem.bytes = s.mem.bytes := by rfl
@[simp] theorem State.ueFault_bytes (a : Nat) (t : Tag) : (s.ueFault a t).mem.bytes = s.mem.bytes := by simp [State.ueFault]
@[simp] theorem State.snoop_bytes (n a : Nat) (kind : MsgKind) (targets : List Nat) (id : Nat) :
    (s.snoop n a kind targets id).mem.bytes = s.mem.bytes := by rfl
@[simp] theorem State.newId_bytes : s.newId.2.mem.bytes = s.mem.bytes := by rfl
@[simp] theorem State.setDead_bytes (n k : Nat) : (s.setDead n k).mem.bytes = s.mem.bytes := by rfl
@[simp] theorem State.startTxn_bytes (n a k : Nat) (t : Txn) (filling : Bool) (waiters : List Req) :
    (s.startTxn n a k t filling waiters).mem.bytes = s.mem.bytes := by simp [State.startTxn]
@[simp] theorem State.dropLine_bytes (n k : Nat) (t : Tag) : (s.dropLine n k t).mem.bytes = s.mem.bytes := by simp [State.dropLine]
@[simp] theorem State.invalidate_bytes (n : Nat) (r : Req) (inv : List Nat) : (s.invalidate n r inv).2.mem.bytes = s.mem.bytes := by
  unfold State.invalidate; split <;> simp
@[simp] theorem State.performAt_bytes (n k : Nat) (r : Req) (reread : Bool) : (s.performAt n k r reread).2.mem.bytes = s.mem.bytes := by
  simp [State.performAt]
@[simp] theorem State.noteReread_bytes (n : Nat) (r : Req) : (s.noteReread n r).mem.bytes = s.mem.bytes := by rfl
@[simp] theorem State.install_bytes (n k a : Nat) (l : Line) : (s.install n k a l).mem.bytes = s.mem.bytes := by rfl

/-! Translation and remote requests on their way out. -/

@[simp] theorem State.setTlb_bytes (v : Via) (t : Tab Nat) : (s.setTlb v t).mem.bytes = s.mem.bytes := by
  unfold State.setTlb; split <;> simp
@[simp] theorem State.depart_bytes (dest vc : Nat) (p : Packet) : (s.depart dest vc p).mem.bytes = s.mem.bytes := by
  unfold State.depart; split <;> simp
theorem State.sendRemote_bytes {v : Via} {op aop imp taddr len operands k : Nat} {data : List Byte} {lastUse : Bool} {dest : RemoteDest}
    {s t : State} (h : s.sendRemote v op aop imp taddr len operands data lastUse dest = some (k, t)) : t.mem.bytes = s.mem.bytes := by
  unfold State.sendRemote at h; split at h
  · cases h
  · split at h
    · cases h
    · cases h; simp
@[simp] theorem State.remoteBytes_bytes (v : Via) (owner imp taddr len : Nat) :
    (s.remoteBytes v owner imp taddr len).2.mem.bytes = s.mem.bytes := by
  unfold State.remoteBytes; split
  · rfl
  · dsimp only; split
    · rfl
    · split
      · rfl
      · next h => exact State.sendRemote_bytes h
@[simp] theorem State.sendOutbound_bytes (k : Nat) (r : Req) (dest : RemoteDest) : (s.sendOutbound k r dest).2.mem.bytes = s.mem.bytes := by
  rfl
@[simp] theorem State.apertureBytes_bytes (v : Via) (owner pa len : Nat) : (s.apertureBytes v owner pa len).2.mem.bytes = s.mem.bytes := by
  unfold State.apertureBytes; dsimp only; repeat' split
  all_goals simp

/-! Commands in hand. -/

@[simp] theorem State.disableRing_bytes (fn n cause : Nat) : (s.disableRing fn n cause).mem.bytes = s.mem.bytes := by rfl
@[simp] theorem State.dropCmd_bytes (id : Nat) : (s.dropCmd id).mem.bytes = s.mem.bytes := by rfl
@[simp] theorem State.settled_bytes (c : Cmd) (written : Bool) : (s.settled c written).mem.bytes = s.mem.bytes := by simp [State.settled]
@[simp] theorem State.noteLate_bytes (c : Cmd) (l : Launch) : (s.noteLate c l).mem.bytes = s.mem.bytes := by simp [State.noteLate]
@[simp] theorem State.orphan_bytes (n : Nat) : (s.orphan n).mem.bytes = s.mem.bytes := by rfl
@[simp] theorem State.vacate_bytes (n last : Nat) : (s.vacate n last).mem.bytes = s.mem.bytes := by simp [State.vacate]
@[simp] theorem State.dropSaved_bytes (id model : Nat) : (s.dropSaved id model).mem.bytes = s.mem.bytes := by rfl
@[simp] theorem State.stopModel_bytes (id model last : Nat) : (s.stopModel id model last).mem.bytes = s.mem.bytes := by
  simp [State.stopModel]
@[simp] theorem State.raiseV_bytes (ctx n : Nat) : (s.raiseV ctx n).mem.bytes = s.mem.bytes := by
  unfold State.raiseV; dsimp only; repeat' split
  all_goals simp
@[simp] theorem State.queueKernel_bytes (id : Nat) (k : Kernel) (from_ : Nat) : (s.queueKernel id k from_).mem.bytes = s.mem.bytes := by
  unfold State.queueKernel; split <;> simp
@[simp] theorem State.activate_bytes (ctx : Nat) : (s.activate ctx).mem.bytes = s.mem.bytes := by
  refine foldl_bytes (fun t c => ?_) _ s
  split
  · rfl
  · simp
@[simp] theorem State.restate_bytes (ctx : Nat) : (s.restate ctx).mem.bytes = s.mem.bytes := by rfl
@[simp] theorem State.endLaunch_bytes (c : Cmd) (l : Launch) (last : Nat) : (s.endLaunch c l last).mem.bytes = s.mem.bytes := by
  unfold State.endLaunch; split <;> simp
@[simp] theorem State.dropJoin_bytes (id : Nat) : (s.dropJoin id).mem.bytes = s.mem.bytes := by
  refine foldl_bytes (fun t g => ?_) _ s
  dsimp only; split
  · simp
  · rfl
@[simp] theorem State.wait_bytes (id : Nat) : (s.wait id).mem.bytes = s.mem.bytes := by rfl

/-! Idling. -/

@[simp] theorem State.checkPwrOk_bytes : s.checkPwrOk.mem.bytes = s.mem.bytes := by simp [State.checkPwrOk]

/-! The hub. -/

@[simp] theorem State.secEvent_bytes (code unit arg : Nat) : (s.secEvent code unit arg).mem.bytes = s.mem.bytes := by rfl
@[simp] theorem State.declareHang_bytes : s.declareHang.mem.bytes = s.mem.bytes := by simp [State.declareHang]
@[simp] theorem State.writeMwCtrl_bytes (fn : Nat) (v : Word) : (s.writeMwCtrl fn v).mem.bytes = s.mem.bytes := by
  simp [State.writeMwCtrl]
@[simp] theorem State.writeInject_bytes (fn : Nat) (v : Word) : (s.writeInject fn v).mem.bytes = s.mem.bytes := by
  simp [State.writeInject]
@[simp] theorem State.rouse_bytes : s.rouse.mem.bytes = s.mem.bytes := by simp [State.rouse]
theorem State.armFor_bytes {s t : State} {ctx k : Nat} {e : CalEntry} (h : s.armFor ctx e = some (k, t)) : t.mem.bytes = s.mem.bytes := by
  unfold State.armFor at h; dsimp only at h; split at h
  · cases h
  · split at h <;> cases h; rfl

/-! The sequencer's shared operations. -/

@[simp] theorem State.stopped_bytes (n : Nat) (e : Eng) (x : Stop) : (s.stopped n e x).mem.bytes = s.mem.bytes := by
  unfold State.stopped; split <;> simp

/-! Answers from other devices. -/

@[simp] theorem State.modGroup_bytes (n slot : Nat) (f : Group → Group) : (s.modGroup n slot f).mem.bytes = s.mem.bytes := by rfl
@[simp] theorem State.modCopy_bytes (n k id : Nat) (f : Copy → Copy) : (s.modCopy n k id f).mem.bytes = s.mem.bytes := by rfl
@[simp] theorem State.takeFlags_bytes (n k : Nat) (f : RedFlags) : (s.takeFlags n k f).mem.bytes = s.mem.bytes := by
  simp [State.takeFlags]
@[simp] theorem State.deliver_bytes (dest : RemoteDest) (addr : Nat) (data : List Byte) (reread : Bool) :
    (s.deliver dest addr data reread).mem.bytes = s.mem.bytes := by
  unfold State.deliver; split <;> simp
@[simp] theorem State.acked_bytes (dest : RemoteDest) (f : RedFlags) : (s.acked dest f).mem.bytes = s.mem.bytes := by
  unfold State.acked; split <;> simp
@[simp] theorem State.refused_bytes (n q : Nat) (f : CtxFault) : (s.refused n q f).mem.bytes = s.mem.bytes := by
  unfold State.refused; repeat' split
  all_goals simp

/-! Copy descriptors. -/

@[simp] theorem mixOverlap_bytes (d : Line) (data : List Byte) : (mixOverlap d s data).2.mem.bytes = s.mem.bytes := by
  unfold mixOverlap; dsimp only; split
  · refine foldl_snd_bytes (fun p j => ?_) _ (data, s)
    split
    · rfl
    · simp
  · rfl
@[simp] theorem State.wrote_bytes (n k id m : Nat) (w : Option Nat) (away : Bool) : (s.wrote n k id m w away).mem.bytes = s.mem.bytes := by
  rfl
@[simp] theorem State.pushUnit_bytes (n k : Nat) (c : Copy) : (s.pushUnit n k c).2.mem.bytes = s.mem.bytes := by
  unfold State.pushUnit; dsimp only; repeat' split
  all_goals simp
@[simp] theorem State.endCopy_bytes (n k : Nat) (c : Copy) : (s.endCopy n k c).mem.bytes = s.mem.bytes := by
  unfold State.endCopy; dsimp only; split <;> simp

/-! A core's part of a kernel. -/

@[simp] theorem State.coreStop_bytes (n : Nat) (x : Stop) : (s.coreStop n x).mem.bytes = s.mem.bytes := by
  unfold State.coreStop; split <;> simp

/-! The queue instructions. -/

@[simp] theorem State.performSignal_bytes (n : Nat) (e : Eng) : (s.performSignal n e).mem.bytes = s.mem.bytes := by
  unfold State.performSignal; dsimp only; split <;> simp

/-! Thread groups. -/

@[simp] theorem State.threadFault_bytes (n slot pc : Nat) (lanes : BitVec 32) (f : CtxFault) :
    (s.threadFault n slot pc lanes f).mem.bytes = s.mem.bytes := by simp [State.threadFault]
@[simp] theorem State.threadStop_bytes (n slot pc : Nat) (lanes : BitVec 32) (x : Stop) :
    (s.threadStop n slot pc lanes x).mem.bytes = s.mem.bytes := by
  unfold State.threadStop; split <;> simp
@[simp] theorem State.threadDone_bytes (n slot : Nat) (g : Group) : (s.threadDone n slot g).mem.bytes = s.mem.bytes := by rfl

/-! Memory instructions of threads. -/

@[simp] theorem State.freshen_bytes (n : Nat) (acquire : Bool) : (s.freshen n acquire).mem.bytes = s.mem.bytes := by simp [State.freshen]
@[simp] theorem State.sendRuns_bytes (v : Via) (imp line : Nat) (dead : Bool) (rs : List (Nat × Nat)) (e : StoreLine) :
    (State.sendRuns v imp line dead rs e s).2.mem.bytes = s.mem.bytes := by
  induction rs generalizing e s with
  | nil => rfl
  | cons r rs ih =>
    simp only [State.sendRuns]; split
    · rfl
    · next h => rw [ih, State.sendRemote_bytes h]

/-! Sharing a core. -/

@[simp] theorem State.assign_bytes (n : Nat) (c : Cmd) (l : Launch) : (s.assign n c l).mem.bytes = s.mem.bytes := by rfl
@[simp] theorem State.tear_bytes (ctx : Nat) (t : Teardown) : (s.tear ctx t).mem.bytes = s.mem.bytes := by rfl
@[simp] theorem State.freeSegs_bytes (ctx : Nat) : (s.freeSegs ctx).mem.bytes = s.mem.bytes := by rfl
@[simp] theorem State.stopStreams_bytes (ctx : Nat) : (s.stopStreams ctx).mem.bytes = s.mem.bytes := by rfl
@[simp] theorem State.unmapApertures_bytes (ctx : Nat) : (s.unmapApertures ctx).mem.bytes = s.mem.bytes := by rfl
@[simp] theorem State.freeCal_bytes (ctx : Nat) : (s.freeCal ctx).mem.bytes = s.mem.bytes := by rfl
@[simp] theorem State.release_bytes (ctx : Nat) (t : Teardown) : (s.release ctx t).mem.bytes = s.mem.bytes := by simp [State.release]
@[simp] theorem State.setStep_bytes (ctx k : Nat) : (s.setStep ctx k).mem.bytes = s.mem.bytes := by rfl

/-! The home's side of the coherence messages. -/

@[simp] theorem State.owesComp_bytes (r : Req) (v : Served) (grants : Bool) : (s.owesComp r v grants).mem.bytes = s.mem.bytes := by
  unfold State.owesComp; split <;> simp
@[simp] theorem State.respond_bytes (r : Req) (v : Served) : (s.respond r v).mem.bytes = s.mem.bytes := by
  unfold State.respond; split <;> simp
@[simp] theorem State.answerFault_bytes (r : Req) : (s.answerFault r).mem.bytes = s.mem.bytes := by rfl
@[simp] theorem State.park_bytes (n : Nat) (r : Req) : (s.park n r).mem.bytes = s.mem.bytes := by rfl
@[simp] theorem State.refuseAll_bytes (n : Nat) : (s.refuseAll n).mem.bytes = s.mem.bytes := by simp [State.refuseAll]
@[simp] theorem State.cohDown_bytes (cause agent : Nat) (isReq : Bool) (line : Nat) (tag : Option Tag) :
    (s.cohDown cause agent isReq line tag).mem.bytes = s.mem.bytes := by simp [State.cohDown]
@[simp] theorem State.violation_bytes (agent line : Nat) (tag : Option Tag) : (s.violation agent line tag).mem.bytes = s.mem.bytes := by
  simp [State.violation]
@[simp] theorem State.recallAgent_bytes (agent : Nat) : (s.recallAgent agent).2.mem.bytes = s.mem.bytes := by simp [State.recallAgent]
theorem State.takeMsg_bytes {s t : State} {k : MsgKind} {a l : Nat} {m : Msg} (h : s.takeMsg k a l = some (m, t)) :
    t.mem.bytes = s.mem.bytes := by
  rw [State.takeMsg_some h]

/-! Accesses of several lines. -/

@[simp] theorem State.extendP_bytes (p : Nat) (d : List Byte) : (s.extendP p d).mem.bytes = s.mem.bytes := by rfl

/-! The flush. -/

@[simp] theorem State.askOwners_bytes : s.askOwners.2.mem.bytes = s.mem.bytes := by simp [State.askOwners]

/-! Reference time and the calendar. -/

@[simp] theorem State.measure_bytes (i : TimeInput) (o : Int) : (s.measure i o).mem.bytes = s.mem.bytes := by simp [State.measure]
@[simp] theorem State.markLate_bytes : s.markLate.mem.bytes = s.mem.bytes := by rfl

/-! Power and temperature. -/

@[simp] theorem State.setLevel_bytes (n level : Nat) : (s.setLevel n level).mem.bytes = s.mem.bytes := by simp [State.setLevel]
@[simp] theorem State.raiseLevel_bytes (k n : Nat) : (State.raiseLevel k s n).mem.bytes = s.mem.bytes := by simp [State.raiseLevel]
@[simp] theorem State.estimateCore_bytes (temps : List (BitVec 12)) (millivolts : List Nat) (n : Nat) :
    (State.estimateCore temps millivolts s n).mem.bytes = s.mem.bytes := by rfl
@[simp] theorem State.throttleDie_bytes (d : Nat) : (s.throttleDie d).mem.bytes = s.mem.bytes := by simp [State.throttleDie]
@[simp] theorem State.levelCore_bytes (level : Nat) (low : Bool) (n : Nat) : (State.levelCore level low s n).mem.bytes = s.mem.bytes := by
  simp [State.levelCore]
@[simp] theorem State.applyLevels_bytes (full : Nat) : (s.applyLevels full).mem.bytes = s.mem.bytes := by simp [State.applyLevels]
@[simp] theorem State.sealedLevels_bytes (p common : Nat) : (s.sealedLevels p common).mem.bytes = s.mem.bytes := by
  simp [State.sealedLevels]
@[simp] theorem State.clearEnergy_bytes (n : Nat) : (s.clearEnergy n).mem.bytes = s.mem.bytes := by simp [State.clearEnergy]
@[simp] theorem State.measureStep_bytes (power : Nat) (tj : BitVec 12) (die : Nat) :
    (s.measureStep power tj die).mem.bytes = s.mem.bytes := by rfl
@[simp] theorem State.noteBreach_bytes (power : Nat) : (s.noteBreach power).mem.bytes = s.mem.bytes := by simp [State.noteBreach]
@[simp] theorem State.levelStep_bytes (power loose : Nat) : (s.levelStep power loose).mem.bytes = s.mem.bytes := by simp [State.levelStep]
@[simp] theorem State.notePartLevels_bytes (cores : List Nat) : (s.notePartLevels cores).mem.bytes = s.mem.bytes := by rfl
@[simp] theorem State.clearEnergies_bytes (cores : List Nat) : (s.clearEnergies cores).mem.bytes = s.mem.bytes := by
  simp [State.clearEnergies]
@[simp] theorem State.governHot_bytes : s.governHot.mem.bytes = s.mem.bytes := by rfl
@[simp] theorem State.stopDies_bytes : s.stopDies.mem.bytes = s.mem.bytes := by rfl

/-! Slots, epochs and points. -/

@[simp] theorem State.discardUnits_bytes (n : Nat) : (s.discardUnits n).mem.bytes = s.mem.bytes := by rfl
@[simp] theorem State.collide_bytes (g cause point stream slot : Nat) : (s.collide g cause point stream slot).mem.bytes = s.mem.bytes := by
  simp [State.collide]
@[simp] theorem State.sample_bytes (g : Nat) (ended : Bool) : (s.sample g ended).mem.bytes = s.mem.bytes := by rfl
@[simp] theorem State.beginEpoch_bytes (g t : Nat) : (s.beginEpoch g t).mem.bytes = s.mem.bytes := by
  unfold State.beginEpoch; dsimp only; repeat' split
  all_goals simp
@[simp] theorem State.relayEpochs_bytes (g : Nat) : (s.relayEpochs g).mem.bytes = s.mem.bytes := by simp [State.relayEpochs]
@[simp] theorem State.startRun_bytes (g cause t0 : Nat) : (s.startRun g cause t0).mem.bytes = s.mem.bytes := by simp [State.startRun]
@[simp] theorem State.armEpoch_bytes (g t q n : Nat) : (s.armEpoch g t q n).mem.bytes = s.mem.bytes := by rfl

/-! The Solstice path at work. -/

@[simp] theorem State.emit_bytes (point : Nat) (group : List Line) : (s.emit point group).mem.bytes = s.mem.bytes := by simp [State.emit]
@[simp] theorem State.enqueue_bytes (g due slot : Nat) (e : SlotEntry) (us : List Line) :
    (s.enqueue g due slot e us).mem.bytes = s.mem.bytes := by simp [State.enqueue]
@[simp] theorem State.takeLists_bytes (g source epochAbs slot : Nat) (x4 : List (Nat × Nat)) (x5 : List Line) :
    (State.takeLists g source epochAbs slot x4 x5 s).mem.bytes = s.mem.bytes := by
  induction x4 generalizing x5 s with
  | nil => simp only [State.takeLists]; split <;> simp
  | cons p ps ih => rw [State.takeLists, ih]; repeat' split <;> simp
@[simp] theorem State.takeGroup_bytes (source : Nat) (h : Line) (us : List Line) : (s.takeGroup source h us).mem.bytes = s.mem.bytes := by
  unfold State.takeGroup; split <;> simp

/-! Loading and stopping schedules. -/

@[simp] theorem State.faultSaved_bytes (ctx n k : Nat) (c : Core) : (s.faultSaved ctx n k c).mem.bytes = s.mem.bytes := by rfl
@[simp] theorem State.stopCopies_bytes (g : Nat) : (s.stopCopies g).mem.bytes = s.mem.bytes := by simp [State.stopCopies]

/-! Joining a job. -/

@[simp] theorem State.sendJoin_bytes (ctx dest g : Nat) (data : List Byte) : (s.sendJoin ctx dest g data).mem.bytes = s.mem.bytes := by
  unfold State.sendJoin; dsimp only; split <;> simp
@[simp] theorem State.tell_bytes (ctx dest g : Nat) : (s.tell ctx dest g).mem.bytes = s.mem.bytes := by simp [State.tell]
@[simp] theorem State.go_bytes (g : Nat) (j : Joining) (cause t0 spread : Nat) : (s.go g j cause t0 spread).mem.bytes = s.mem.bytes := by
  simp [State.go]
@[simp] theorem State.setJoining_bytes (g : Nat) (j : Joining) : (s.setJoining g j).mem.bytes = s.mem.bytes := by rfl

/-! The partner sites. -/

@[simp] theorem State.extendAdmission_bytes (k : Nat) : (s.extendAdmission k).mem.bytes = s.mem.bytes := by rfl
@[simp] theorem State.answerSite_bytes (k : Nat) (a : Option (List Byte)) : (s.answerSite k a).mem.bytes = s.mem.bytes := by rfl
@[simp] theorem State.denySite_bytes (k op : Nat) (noRule : Bool) (addr : Nat) : (s.denySite k op noRule addr).mem.bytes = s.mem.bytes := by
  rfl
@[simp] theorem State.expireOut_bytes (o : SiteReq) : (s.expireOut o).mem.bytes = s.mem.bytes := by
  unfold State.expireOut; split <;> simp
@[simp] theorem State.quiesce_bytes (k : Nat) : (s.quiesce k).mem.bytes = s.mem.bytes := by rfl

/-! Reference time and idle states. -/

@[simp] theorem State.setPtp_bytes (p : Nat) (x : PtpPort) : (s.setPtp p x).mem.bytes = s.mem.bytes := by rfl

/-! Power-up and boot. -/

@[simp] theorem State.extendMap_bytes : s.extendMap.mem.bytes = s.mem.bytes := by rfl
/-- The state that a check ends in, whether it passed or not. -/
def endState {ε α : Type} (f : ε → State) (g : α → State) : Except ε α → State
  | .error e => f e
  | .ok a => g a
theorem State.buildMap_bytes (m : MapInputs) (record : List Byte) (key : Option (List Byte)) :
    (endState Prod.fst id (s.buildMap m record key)).mem.bytes = s.mem.bytes := by
  unfold State.buildMap; extract_lets; repeat' split
  all_goals rfl
@[simp] theorem State.endBoot_bytes (code : Nat) : (s.endBoot code).mem.bytes = s.mem.bytes := by rfl
@[simp] theorem State.bootFail_bytes (reason : Nat) : (s.bootFail reason).mem.bytes = s.mem.bytes := by rfl
@[simp] theorem State.raiseCounter_bytes (k v : Nat) : (s.raiseCounter k v).mem.bytes = s.mem.bytes := by simp [State.raiseCounter]
@[simp] theorem State.chooseImage_bytes (b : BootInputs) : (s.chooseImage b).2.mem.bytes = s.mem.bytes := by
  refine foldl_snd_bytes (fun p k => ?_) _ (none, s)
  repeat' split
  all_goals simp
@[simp] theorem State.chooseConfig_bytes (b : BootInputs) : (s.chooseConfig b).2.mem.bytes = s.mem.bytes := by
  unfold State.chooseConfig; dsimp only; repeat' split
  all_goals simp
@[simp] theorem State.applyConfig_bytes (r : List Byte) : (s.applyConfig r).mem.bytes = s.mem.bytes := by rfl
@[simp] theorem State.trainSites_bytes : s.trainSites.mem.bytes = s.mem.bytes := by simp [State.trainSites]
@[simp] theorem State.armHeartbeat_bytes : s.armHeartbeat.mem.bytes = s.mem.bytes := by rfl
theorem State.bootImage_bytes (b : BootInputs) : (endState id Prod.fst (s.bootImage b)).mem.bytes = s.mem.bytes := by
  unfold State.bootImage; dsimp only; repeat' split
  all_goals simp_all [endState, eq_mk_iff]
theorem State.bootRecords_bytes (b : BootInputs) : (endState id id (s.bootRecords b)).mem.bytes = s.mem.bytes := by
  unfold State.bootRecords; dsimp only; repeat' split
  all_goals simp_all [endState, eq_mk_iff]
@[simp] theorem Memory.attempt_bytes (m : Memory) (rate : Nat) (bad : List (Fin 256)) : (m.attempt rate bad).bytes = m.bytes := rfl

theorem Memory.train_bytes (m : Memory) (rate : Nat) (fails : List (List (Fin 256))) : (m.train rate fails).1.bytes = m.bytes := by
  induction rate generalizing m fails with
  | zero => rfl
  | succ rate ih =>
    simp only [Memory.train]; split
    · rfl
    · rw [ih]; rfl
theorem State.bootTrain_bytes (t : TrainInputs) : (endState id id (s.bootTrain t)).mem.bytes = s.mem.bytes := by
  unfold State.bootTrain; split
  next m ok h =>
  have : m.bytes = s.mem.bytes := by rw [← Memory.train_bytes s.mem, h]
  split <;> exact this
@[simp] theorem State.bootEnd_bytes (b : BootInputs) (i : List Byte) : (s.bootEnd b i).mem.bytes = s.mem.bytes := by simp [State.bootEnd]

/-! The fabric. -/

@[simp] theorem State.discard_bytes : s.discard.mem.bytes = s.mem.bytes := by rfl
@[simp] theorem State.reply_bytes (h : Line) (op flags status flags2 : Nat) (data : List Byte) :
    (s.reply h op flags status flags2 data).mem.bytes = s.mem.bytes := by simp [State.reply]
@[simp] theorem State.refuseIn_bytes (h : Line) (st : Status) : (s.refuseIn h st).mem.bytes = s.mem.bytes := by simp [State.refuseIn]
@[simp] theorem State.compInbound_bytes : s.compInbound.mem.bytes = s.mem.bytes := by simp [State.compInbound]
@[simp] theorem State.credit_bytes (k i n : Nat) : (s.credit k i n).mem.bytes = s.mem.bytes := by rfl

/-! The coherence messages. -/

@[simp] theorem State.await_bytes (r : Req) : (s.await r).mem.bytes = s.mem.bytes := by simp [State.await]
@[simp] theorem State.snoopArrives_bytes (agent a : Nat) (kind : SnoopKind) : (s.snoopArrives agent a kind).mem.bytes = s.mem.bytes := by
  unfold State.snoopArrives; split
  · rfl
  · next m t h => have := State.takeMsg_bytes h; repeat' split <;> simp [this]
@[simp] theorem State.ackWrite_bytes (agent id : Nat) : (s.ackWrite agent id).mem.bytes = s.mem.bytes := by rfl

/-! Cache and memory events. -/

@[simp] theorem State.stand_bytes (a : Nat) (e : ErrPat) : (s.stand a e).mem.bytes = s.mem.bytes := by rfl
@[simp] theorem State.faultWaiters_bytes (a : Nat) (rs : List Req) : (s.faultWaiters a rs).mem.bytes = s.mem.bytes := by
  simp [State.faultWaiters]

/-! The host's accesses. -/

@[simp] theorem State.writeTail_bytes (fn ring : Nat) (v : Word) : (s.writeTail fn ring v).mem.bytes = s.mem.bytes := by rfl
@[simp] theorem State.writeRingCtrl_bytes (fn ring : Nat) (v : Word) : (s.writeRingCtrl fn ring v).mem.bytes = s.mem.bytes := by
  simp [State.writeRingCtrl]
@[simp] theorem State.bar0Read_bytes (fn off : Nat) : (s.bar0Read fn off).2.mem.bytes = s.mem.bytes := by
  unfold State.bar0Read; dsimp only; split <;> rfl
@[simp] theorem State.writeRingBase_bytes (fn ring b v : Nat) : (s.writeRingBase fn ring b v).mem.bytes = s.mem.bytes := by
  simp [State.writeRingBase]
@[simp] theorem State.bar0Write_bytes (fn off : Nat) (v : Word) : (s.bar0Write fn off v).mem.bytes = s.mem.bytes := by
  unfold State.bar0Write; dsimp only; repeat' split
  all_goals simp

/-! What the recoveries share. -/

@[simp] theorem State.giveNotice_bytes (g : Nat) : (s.giveNotice g).mem.bytes = s.mem.bytes := by simp [State.giveNotice]
@[simp] theorem State.errorInbound_bytes : s.errorInbound.mem.bytes = s.mem.bytes := by simp [State.errorInbound]
@[simp] theorem State.errorHeld_bytes (k : Nat) : (s.errorHeld k).mem.bytes = s.mem.bytes := by rfl
@[simp] theorem State.halt_bytes : (s.halt).mem.bytes = s.mem.bytes := by
  simp [State.halt, State.moveChans_bytes]
@[simp] theorem State.resetCompute_bytes : s.resetCompute.mem.bytes = s.mem.bytes := by rfl
@[simp] theorem State.resetLinks_bytes : s.resetLinks.mem.bytes = s.mem.bytes := by rfl
@[simp] theorem State.resetMemory_bytes : s.resetMemory.mem.bytes = s.mem.bytes := by rfl
@[simp] theorem State.outOfService_bytes (code : Nat) : (s.outOfService code).mem.bytes = s.mem.bytes := by rfl
@[simp] theorem State.settleTear_bytes (ctx : Nat) (t : Teardown) : (s.settleTear ctx t).mem.bytes = s.mem.bytes := by
  simp [State.settleTear]
@[simp] theorem State.settleCtx_bytes (full : Bool) (named : List Nat) (c : Nat) : (s.settleCtx full named c).mem.bytes = s.mem.bytes := by
  unfold State.settleCtx; dsimp only; split <;> simp
@[simp] theorem State.settleCtxs_bytes (full : Bool) : (s.settleCtxs full).mem.bytes = s.mem.bytes := by simp [State.settleCtxs]
@[simp] theorem State.endRecovery_bytes (memLost : Bool) : (s.endRecovery memLost).mem.bytes = s.mem.bytes := by rfl

/-! Recoveries. -/

@[simp] theorem State.readmit_bytes (k : Nat) : (s.readmit k).mem.bytes = s.mem.bytes := by simp [State.readmit]
@[simp] theorem State.resettle_bytes : s.resettle.mem.bytes = s.mem.bytes := by
  unfold State.resettle; split <;> simp
@[simp] theorem State.beginFull_bytes : s.beginFull.mem.bytes = s.mem.bytes := by rfl
@[simp] theorem State.refreshAll_bytes : (s.refreshAll).mem.bytes = s.mem.bytes := by
  simp [State.refreshAll, State.moveChans_bytes]

/-! Segments, partitions and sites. -/

@[simp] theorem State.fenceSites_bytes : (s.fenceSites).2.mem.bytes = s.mem.bytes := by
  refine foldl_snd_bytes (fun p k => ?_) _ (true, s)
  dsimp only; repeat' split
  all_goals simp_all [eq_mk_iff]

/-! Supplies and pins. -/

@[simp] theorem State.watchPwrOk_bytes : s.watchPwrOk.mem.bytes = s.mem.bytes := by rfl
@[simp] theorem State.setMain_bytes (v : BitVec 8) : (s.setMain v).mem.bytes = s.mem.bytes := by rfl
@[simp] theorem State.powerBack_bytes : s.powerBack.mem.bytes = s.mem.bytes := by simp [State.powerBack]
@[simp] theorem State.powerOff_bytes (memory : Bool) : (s.powerOff memory).mem.bytes = s.mem.bytes := by rfl
@[simp] theorem State.retrain_bytes : s.retrain.mem.bytes = s.mem.bytes := by rfl

/-! The step. -/

@[simp] theorem State.withFetchWord_bytes (nbits w : Nat) : (s.withFetchWord nbits w).mem.bytes = s.mem.bytes := by rfl

end Frame

end Sys2Proof.Machine
end

section
/-! PROOFS. What writes device memory, operation by operation: each leaves the bytes in their canonical form (assumption 1) if they were
in it, since every write of a line does (`State.chanWrite_canonical`). The form is
`State.memoryCanonical`, written out so that the equations above rewrite the bytes under it. -/

namespace Sys2Proof.Machine

theorem foldl_memWf {α : Type} {f : State → α → State}
    (hf : ∀ s x, memWf s.mem.bytes = true → memWf (f s x).mem.bytes = true)
    (l : List α) {s : State} (h : memWf s.mem.bytes = true) : memWf (l.foldl f s).mem.bytes = true := by
  induction l generalizing s with
  | nil => exact h
  | cons x l ih => exact ih (hf s x h)

theorem foldl_snd_memWf {α β : Type} {f : β × State → α → β × State}
    (hf : ∀ p x, memWf p.2.mem.bytes = true → memWf (f p x).2.mem.bytes = true) (l : List α) {p : β × State}
    (h : memWf p.2.mem.bytes = true) : memWf (l.foldl f p).2.mem.bytes = true := by
  induction l generalizing p with
  | nil => exact h
  | cons x l ih => exact ih (hf p x h)

/-- What a state in a result keeps, it keeps under its name. -/
theorem wf_of_eq {α : Type} {p : α × State} {a : α} {t : State} (e : p = (a, t)) (h : memWf p.2.mem.bytes = true) :
    memWf t.mem.bytes = true := by
  rw [e] at h; exact h

section Writes
variable {s : State} (h : memWf s.mem.bytes = true)
include h

@[simp] theorem State.chanWrite_memWf (a : Nat) (l : Line) : memWf (s.chanWrite a l).mem.bytes = true :=
  State.chanWrite_canonical h a l

/-! The home of a line. -/

@[simp] theorem State.readGood_memWf (a : Nat) (r0 r1 : HalfRead) : memWf (s.readGood a r0 r1).2.mem.bytes = true := by
  unfold State.readGood; dsimp only; split
  · exact h
  · exact State.chanWrite_memWf (by exact h) _ _

@[simp] theorem State.chanRead_memWf (a source : Nat) (t : Tag) (first second : ErrPat) :
    memWf (s.chanRead a source t first second).2.mem.bytes = true := by
  unfold State.chanRead; dsimp only; repeat' split
  all_goals simp [h]

@[simp] theorem State.writeBack_memWf (n k : Nat) : memWf (s.writeBack n k).mem.bytes = true := by
  unfold State.writeBack; dsimp only; split
  · exact State.chanWrite_memWf (by exact h) _ _
  · exact h

theorem State.room_way_memWf {n a mask k : Nat} {t : Tag} {u : State} (e : s.room n a mask t = .way k u) : memWf u.mem.bytes = true := by
  unfold State.room at e; dsimp only at e; repeat' split at e
  all_goals cases e
  · exact h
  · exact State.writeBack_memWf h _ _

theorem State.room_evicting_memWf {n a mask : Nat} {t : Tag} {u : State} (e : s.room n a mask t = .evicting u) :
    memWf u.mem.bytes = true := by
  unfold State.room at e; dsimp only at e; repeat' split at e
  all_goals cases e
  simp [h]

@[simp] theorem State.redAtMemory_memWf (r : Req) (first second : ErrPat) : memWf (s.redAtMemory r first second).2.mem.bytes = true := by
  unfold State.redAtMemory; extract_lets n; split <;> rename_i hx <;> have read := wf_of_eq hx (State.chanRead_memWf h ..)
  · simp [read]
  next old t =>
    extract_lets x
    have counted : memWf (t.count n 7 1).mem.bytes = true := by simpa using read
    simpa only [State.notify_mem] using State.chanWrite_memWf counted r.line x.1

@[simp] theorem State.access_memWf (r : Req) : memWf (s.access r).2.mem.bytes = true := by
  unfold State.access; extract_lets a n sl fills
  have fills_wf {t : State} (ht : memWf t.mem.bytes = true) (k : Nat) : memWf (fills k t).2.mem.bytes = true := by
    simp only [fills]; split
    · simp [ht]
    · split <;> rename_i hx <;> have read := wf_of_eq hx (State.chanRead_memWf (s := t.count n 1 1) (by simpa using ht) ..)
      · split <;> simp [read]
      · split <;> simp [read]
  split
  · exact h
  · split
    · exact h
    · split
      · extract_lets w; split
        · split
          · exact h
          · simp [h]
        · simp [h]
      · split
        · split <;> simp [h]
        · split
          · exact h
          · exact State.room_evicting_memWf h ‹_›
          · exact fills_wf (State.room_way_memWf h ‹_›) _

/-! Translation and remote requests on their way out. -/

theorem walkLevels_memWf {rd : State → Nat → Ans × State}
    (hr : ∀ t a, memWf t.mem.bytes = true → memWf (rd t a).2.mem.bytes = true)
    (t : Tag) (va n level table : Nat) : memWf (walkLevels rd t va n level table s).2.mem.bytes = true := by
  induction n generalizing level table s with
  | zero => exact h
  | succ n ih =>
    have read := hr s ((table + 8 * ((va >>> levelBits level) % 512)) / 64) h
    unfold walkLevels; dsimp only; split
    · exact h
    · split
      next t e => exact wf_of_eq e read
      next t e => exact wf_of_eq e read
      next v t e =>
        repeat' split
        any_goals exact wf_of_eq e read
        exact ih (wf_of_eq e read) _ _

@[simp] theorem State.translate_memWf (v : Via) (va : Nat) (need : Right) : memWf (s.translate v va need).2.mem.bytes = true := by
  unfold State.translate
  -- under a name of its own, so that no comparison of two forms of the goal looks into the walk
  obtain ⟨levels, hlevels⟩ : ∃ levels, walkLevels = levels := ⟨_, rfl⟩
  rw [hlevels]
  extract_lets fin root rd walk peek
  have fin_wf {t : State} (ht : memWf t.mem.bytes = true) (r : Except Nat Target) : memWf (fin t r).2.mem.bytes = true := by
    cases r <;> exact ht
  have walk_wf {t : State} (ht : memWf t.mem.bytes = true) : memWf (walk t).2.mem.bytes = true := by
    have walked : memWf (levels rd v.tag va 4 0 root t).2.mem.bytes = true :=
      hlevels ▸ walkLevels_memWf ht (fun u a hu => State.access_memWf hu _) v.tag va 4 0 root
    simp only [walk]; split <;> rename_i hx <;> replace walked := wf_of_eq hx walked
    · exact fin_wf walked (.error _)
    · exact walked
    · exact walked
    · exact fin_wf (by simpa using walked) (State.leaf ..)
  split
  · exact fin_wf h (.error 7)
  · split
    · exact walk_wf h
    · extract_lets same
      clear_value same
      split; next k t hx =>
      have chosen : memWf t.mem.bytes = true := by
        split at hx
        · cases hx; exact h
        · exact wf_of_eq hx (by simpa using h)
      split
      · exact fin_wf chosen (State.leaf ..)
      · exact walk_wf chosen

@[simp] theorem State.readPiece_memWf (v : Via) (lastUse : Bool) (va len : Nat) :
    memWf (s.readPiece v lastUse va len).2.mem.bytes = true := by
  unfold State.readPiece; repeat' split
  all_goals simp_all [eq_mk_iff]

@[simp] theorem State.readPieces_memWf (v : Via) (ps : List (Nat × Nat)) : memWf (State.readPieces v ps s).2.mem.bytes = true := by
  induction ps generalizing s with
  | nil => exact h
  | cons p ps ih =>
    have read := State.readPiece_memWf h v false p.1 p.2
    unfold State.readPieces; split
    next e t hx => exact wf_of_eq hx read
    next b t hx => split <;> exact wf_of_eq ‹_› (ih (wf_of_eq hx read))

@[simp] theorem State.vread_memWf (v : Via) (va len : Nat) : memWf (s.vread v va len).2.mem.bytes = true := by
  unfold State.vread; repeat' split
  all_goals simp_all [eq_mk_iff]

@[simp] theorem State.writeAt_memWf (v : Via) (pa : Nat) (bs : List Byte) : memWf (s.writeAt v pa bs).2.mem.bytes = true := by
  simp [State.writeAt, h]

theorem State.sendRemote_memWf {v : Via} {op aop imp taddr len operands k : Nat} {data : List Byte} {lastUse : Bool} {dest : RemoteDest}
    {t : State} (e : s.sendRemote v op aop imp taddr len operands data lastUse dest = some (k, t)) : memWf t.mem.bytes = true := by
  rw [State.sendRemote_bytes e]; exact h

@[simp] theorem State.writePiece_memWf (v : Via) (va : Nat) (bs : List Byte) : memWf (s.writePiece v va bs).2.mem.bytes = true := by
  unfold State.writePiece; split <;> rename_i hx <;> have walk := wf_of_eq hx (State.translate_memWf h ..)
  · exact walk
  · split <;> exact wf_of_eq ‹_› (State.writeAt_memWf walk ..)
  · split <;> simp [walk]
  · split
    · exact walk
    · exact State.sendRemote_memWf walk ‹_›

@[simp] theorem State.writePieces_memWf (v : Via) (ps : List (Nat × Nat)) (bs : List Byte) :
    memWf (State.writePieces v ps bs s).2.mem.bytes = true := by
  induction ps generalizing bs s with
  | nil => exact h
  | cons p ps ih =>
    have write := State.writePiece_memWf h v p.1 (bs.take p.2)
    unfold State.writePieces; split
    next e t hx => exact wf_of_eq hx write
    next u t hx => exact ih (wf_of_eq hx write) _

@[simp] theorem State.vwrite_memWf (v : Via) (va : Nat) (bs : List Byte) : memWf (s.vwrite v va bs).2.mem.bytes = true := by
  simp [State.vwrite, h]

@[simp] theorem State.checkRange_memWf (v : Via) (need : Right) (ps : List (Nat × Nat)) :
    memWf (State.checkRange v need ps s).2.mem.bytes = true := by
  induction ps generalizing s with
  | nil => exact h
  | cons p ps ih =>
    have walk := State.translate_memWf h v p.1 need
    unfold State.checkRange; split
    next e t hx => exact wf_of_eq hx walk
    next u t hx => exact ih (wf_of_eq hx walk)

/-! Commands in hand. -/

@[simp] theorem State.post_memWf (id : Nat) : memWf (s.post id).mem.bytes = true := by
  unfold State.post; dsimp only; repeat' split
  all_goals simp_all [eq_mk_iff]

@[simp] theorem State.flushStatus_memWf : memWf s.flushStatus.mem.bytes = true :=
  foldl_memWf (fun _ _ ht => State.post_memWf ht _) _ h

@[simp] theorem State.update_memWf (id : Nat) (f : Cmd → Cmd) : memWf (s.update id f).mem.bytes = true := by simp [State.update, h]

@[simp] theorem State.finish_memWf (id : Nat) (st : Status) (detail result : Nat) :
    memWf (s.finish id st detail result).mem.bytes = true := by
  unfold State.finish; repeat' split
  all_goals simp [h]

@[simp] theorem State.cancel_memWf (id : Nat) (st : Status) (detail : Nat) : memWf (s.cancel id st detail).mem.bytes = true := by
  simp [State.cancel, h]

@[simp] theorem State.cmdStop_memWf (id : Nat) (x : Stop) : memWf (s.cmdStop id x).mem.bytes = true := by
  unfold State.cmdStop; repeat' split
  all_goals simp [h]

theorem State.startCmd_memWf {fn ring index op : Nat} {params : State → Cmd → Chk} {run : State → Cmd → State}
    (hr : ∀ t c, memWf t.mem.bytes = true → memWf (run t c).mem.bytes = true) :
    memWf (s.startCmd fn ring index op params run).mem.bytes = true := by
  unfold State.startCmd; dsimp only; repeat' split
  any_goals simp [h]
  all_goals exact hr _ _ h

/-! Idling. -/

@[simp] theorem State.expireSet_memWf : memWf s.expireSet.mem.bytes = true := by
  refine foldl_memWf (fun t c ht => ?_) _ h
  exact State.cancel_memWf ht ..

@[simp] theorem State.tick_memWf : memWf s.tick.mem.bytes = true := by
  unfold State.tick; split <;> simp [h]

/-! The sequencer's shared operations. -/

theorem State.issueOp_memWf {n op : Nat} {e : Eng} {f : QWord → State} (hf : ∀ w, memWf (f w).mem.bytes = true) :
    memWf (s.issueOp n e op f).mem.bytes = true := by
  unfold State.issueOp; repeat' split
  all_goals simp [h, hf]

/-! Copy descriptors. -/

@[simp] theorem State.resolve_memWf (v : Via) (need : Right) (ps : List (Nat × Nat)) (x : Resolved) :
    memWf (State.resolve v need ps x s).2.mem.bytes = true := by
  induction ps generalizing x s with
  | nil => exact h
  | cons p ps ih =>
    have walk := State.translate_memWf h v p.1 need
    unfold State.resolve; split <;> rename_i hx
    · exact ih (wf_of_eq hx walk) _
    · exact ih (wf_of_eq hx walk) _
    · exact ih (wf_of_eq hx walk) _
    · exact ih (wf_of_eq hx walk) _
    · exact wf_of_eq hx walk

@[simp] theorem State.checkDesc_memWf (n k : Nat) (d : Line) : memWf (s.checkDesc n k d).2.mem.bytes = true := by
  unfold State.checkDesc; split
  · exact h
  · split
    · exact h
    · extract_lets v len pages
      split; next a s1 ha =>
      split; next b s2 hb =>
      split; next c s3 hc =>
      have resolved := wf_of_eq hc (State.resolve_memWf (wf_of_eq hb (State.resolve_memWf (wf_of_eq ha (State.resolve_memWf h ..)) ..)) ..)
      extract_lets; repeat' split
      all_goals exact resolved

@[simp] theorem State.readNext_memWf (n k id : Nat) : memWf (s.readNext n k id).2.mem.bytes = true := by
  unfold State.readNext; split
  · exact h
  next c _ =>
    extract_lets d v took
    split
    · exact h
    · split
      · simp [took, h]
      · dsimp only; split
        · exact h
        · split
          · simp [took, h]
          · split <;> rename_i hx <;> have walk := wf_of_eq hx (State.translate_memWf h ..)
            · simp [walk]
            · split <;> rename_i hy <;> have read := wf_of_eq hy (State.access_memWf walk _)
              · split <;> simp [took, read]
              · exact read
              · simp [read]
            · split <;> simp [walk]
            · split
              · exact walk
              · simp [State.sendRemote_memWf walk ‹_›]

@[simp] theorem State.readAll_memWf (n k id m : Nat) : memWf (State.readAll n k id m s).mem.bytes = true := by
  induction m generalizing s with
  | zero => exact h
  | succ m ih =>
    have read := State.readNext_memWf h n k id
    unfold State.readAll; split
    next t e => exact ih (wf_of_eq e read)
    next t e => exact wf_of_eq e read

@[simp] theorem State.landed_memWf (n k : Nat) (c : Copy) : memWf (s.landed n k c).2.mem.bytes = true := by
  unfold State.landed; dsimp only; repeat' split
  all_goals simp_all [eq_mk_iff]

@[simp] theorem State.writeNext_memWf (n k id : Nat) : memWf (s.writeNext n k id).2.mem.bytes = true := by
  unfold State.writeNext; split
  · exact h
  next c _ =>
    extract_lets d v x a len bytes red need
    split
    · exact h
    · split
      · simp [h]
      · split
        · simp [h]
        · split <;> rename_i hx <;> have walk := wf_of_eq hx (State.translate_memWf h ..)
          · simp [walk]
          · extract_lets; split
            · exact walk
            · simp [State.sendRemote_memWf walk ‹_›]
          · extract_lets; split
            · split <;> simp [walk]
            · split <;> rename_i hy <;> have wrote := wf_of_eq hy (State.access_memWf walk _)
              · extract_lets u; split <;> simp [u, wrote]
              · exact wrote
              · simp [wrote]

@[simp] theorem State.writeAll_memWf (n k id m : Nat) : memWf (State.writeAll n k id m s).mem.bytes = true := by
  induction m generalizing s with
  | zero => exact h
  | succ m ih =>
    have write := State.writeNext_memWf h n k id
    unfold State.writeAll; split
    next t e => exact ih (wf_of_eq e write)
    next t e => exact wf_of_eq e write

@[simp] theorem State.addCounter_memWf (n k : Nat) (d : Line) (amount : Nat) : memWf (s.addCounter n k d amount).2.mem.bytes = true := by
  unfold State.addCounter; split
  · exact h
  · split
    · simp [h]
    · extract_lets v
      split <;> rename_i hx <;> have walk := wf_of_eq hx (State.translate_memWf h ..)
      · simp [walk]
      · split
        · exact walk
        · exact State.sendRemote_memWf walk ‹_›
      · extract_lets; split
        · split <;> simp [walk]
        · split <;> rename_i hy <;> have added := wf_of_eq hy (State.access_memWf walk _)
          · exact added
          · exact added
          · simp [added]

@[simp] theorem State.countUnits_memWf (n k id : Nat) : memWf (s.countUnits n k id).mem.bytes = true := by
  unfold State.countUnits; repeat' split
  all_goals simp_all [eq_mk_iff]

@[simp] theorem State.unitLeft_memWf (n k id : Nat) : memWf (s.unitLeft n k id).mem.bytes = true := by simp [State.unitLeft, h]

/-! The copy engines. -/

@[simp] theorem State.fetchDesc_memWf (n k : Nat) (va : Bool) (addr : Nat) : memWf (s.fetchDesc n k va addr).2.mem.bytes = true := by
  unfold State.fetchDesc; extract_lets read fresh
  have read_wf {t : State} (ht : memWf t.mem.bytes = true) : memWf (read t).2.mem.bytes = true := by
    simp only [read]; repeat' split
    all_goals simp [ht]
  have fresh_wf {t : State} (ht : memWf t.mem.bytes = true) : memWf (fresh t).2.mem.bytes = true := by
    simp only [fresh]; split <;> rename_i hx
    · exact wf_of_eq hx (read_wf ht)
    · simpa using wf_of_eq hx (read_wf ht)
  split
  · exact fresh_wf h
  · extract_lets; split
    · exact h
    · dsimp only; split
      · exact h
      · exact fresh_wf h

@[simp] theorem State.startCopy_memWf (n k : Nat) (f : Flight) (d : Line) : memWf (s.startCopy n k f d).mem.bytes = true := by
  unfold State.startCopy; dsimp only; repeat' split
  all_goals simp_all [eq_mk_iff]

@[simp] theorem State.driveCopy_memWf (n k id : Nat) : memWf (s.driveCopy n k id).mem.bytes = true := by
  unfold State.driveCopy; split
  · exact h
  · extract_lets d
    split <;> rename_i hx <;> have landed := wf_of_eq hx (State.landed_memWf h ..)
    · exact landed
    · extract_lets t
      have read : memWf t.mem.bytes = true := State.readAll_memWf landed ..
      split
      · exact read
      · split
        · exact read
        next c _ _ =>
          extract_lets mixed u v
          have hmixed : memWf mixed.mem.bytes = true := by
            simp only [mixed]; split <;> simp [read]
          have written : memWf u.mem.bytes = true := State.writeAll_memWf hmixed ..
          have counted : memWf v.mem.bytes = true := by
            simp only [v]; split <;> simp [written]
          split
          · exact counted
          · repeat' split
            any_goals simp [counted]
            all_goals exact wf_of_eq ‹_› (State.addCounter_memWf counted ..)

/-! The matrix and the vector engine. -/

@[simp] theorem State.startEngine_memWf (n : Nat) (e : Eng) (op : Nat) (start : Core → QWord → Except CtxFault Started) :
    memWf (s.startEngine n e op start).mem.bytes = true := by
  refine State.issueOp_memWf h fun w => ?_
  dsimp only; repeat' split
  all_goals simp [h]

/-! A core's part of a kernel. -/

@[simp] theorem State.addDone_memWf (n : Nat) : memWf (s.addDone n).2.mem.bytes = true := by
  unfold State.addDone; extract_lets a v; split
  · exact h
  · split <;> rename_i hx <;> have walk := wf_of_eq hx (State.translate_memWf h ..)
    · exact walk
    · split
      · exact walk
      · exact State.sendRemote_memWf walk ‹_›
    · split <;> simp [walk]
    · split <;> exact wf_of_eq ‹_› (State.access_memWf walk _)

@[simp] theorem State.coreEnded_memWf (id model index : Nat) : memWf (s.coreEnded id model index).mem.bytes = true := by
  unfold State.coreEnded; dsimp only; repeat' split
  all_goals simp [h]

/-! The queue instructions. -/

@[simp] theorem State.tryWaitmem_memWf (n : Nat) (e : Eng) (w : QWord) : memWf (s.tryWaitmem n e w).mem.bytes = true := by
  unfold State.tryWaitmem; dsimp only; repeat' split
  all_goals simp_all [eq_mk_iff]

/-! Thread groups. -/

@[simp] theorem State.threadWord_memWf (n pc : Nat) : memWf (s.threadWord n pc).2.mem.bytes = true := by
  unfold State.threadWord
  obtain ⟨read, hread⟩ : ∃ read, State.vread = read := ⟨_, rfl⟩
  rw [hread]
  extract_lets v fetch
  have fetch_wf {t : State} (ht : memWf t.mem.bytes = true) : memWf (fetch t).2.mem.bytes = true := by
    simp only [fetch]; split <;> rename_i hx <;> have read := wf_of_eq hx (hread ▸ State.vread_memWf ht ..)
    · exact read
    · simpa using read
  split
  · exact fetch_wf h
  · extract_lets; split
    · exact h
    · dsimp only; split
      · exact h
      · exact fetch_wf h

theorem State.threadOp_memWf {n slot op : Nat} {f : Group → DWord → State → State}
    (hf : ∀ g w t, memWf t.mem.bytes = true → memWf (f g w t).mem.bytes = true) : memWf (s.threadOp n slot op f).mem.bytes = true := by
  unfold State.threadOp; split
  · exact h
  · split
    · exact h
    · split
      · exact h
      · split <;> rename_i hx <;> have fetched := wf_of_eq hx (State.threadWord_memWf h ..)
        · simp [fetched]
        · repeat' split
          any_goals simp [fetched]
          exact hf _ _ _ fetched

@[simp] theorem State.threadAlu_memWf (n slot op : Nat) (lane : DWord → Group → Nat → Nat) :
    memWf (s.threadAlu n slot op lane).mem.bytes = true :=
  State.threadOp_memWf h fun g w t ht => by simp [ht]

@[simp] theorem State.threadBranch_memWf (n slot op : Nat) (zero : Bool) : memWf (s.threadBranch n slot op zero).mem.bytes = true :=
  State.threadOp_memWf h fun g w t ht => by split <;> simp [ht]

/-! Memory instructions of threads. -/

@[simp] theorem State.laneCheck_memWf (n : Nat) (need : Right) (g : Group) (w : DWord) (l : Nat) :
    memWf (s.laneCheck n need g w l).2.mem.bytes = true := by
  unfold State.laneCheck; dsimp only; repeat' split
  all_goals simp_all [eq_mk_iff]

@[simp] theorem State.checkLanes_memWf (n : Nat) (need : Right) (g : Group) (w : DWord) (ls : List Nat) (x : LaneChecks) :
    memWf (State.checkLanes n need g w ls x s).2.mem.bytes = true := by
  induction ls generalizing x s with
  | nil => exact h
  | cons l ls ih =>
    have check := State.laneCheck_memWf h n need g w l
    unfold State.checkLanes; split <;> rename_i hx
    · exact ih (wf_of_eq hx check) _
    · exact ih (wf_of_eq hx check) _
    · exact wf_of_eq hx check

/-- The state that a lane's access ends in. -/
def LaneOut.state : LaneOut → State
  | .value _ s | .waits s | .busy s | .fault _ s | .faulted s => s

theorem State.runLanes_memWf {n slot pc : Nat} {f : Nat → Option Target → State → LaneOut}
    (hf : ∀ l t u, memWf u.mem.bytes = true → memWf (f l t u).state.mem.bytes = true) (ls : List (Nat × Option Target)) :
    memWf (State.runLanes n slot pc f ls s).2.mem.bytes = true := by
  induction ls generalizing s with
  | nil => exact h
  | cons l ls ih =>
    have lane := hf l.1 l.2 s h
    unfold State.runLanes; split <;> rename_i hx <;> rw [hx] at lane
    · exact ih lane
    · exact ih lane
    · exact lane
    next _ t => simp [show memWf t.mem.bytes = true from lane]
    next t => simp [show memWf t.mem.bytes = true from lane]

theorem State.threadMem_memWf {n slot op : Nat} {need : DWord → Right} {ready : DWord → State → Bool}
    {lane : Group → DWord → Nat → Option Target → State → LaneOut} {fin : DWord → Group → Group}
    (hl : ∀ g w l t u, memWf u.mem.bytes = true → memWf (lane g w l t u).state.mem.bytes = true) :
    memWf (s.threadMem n slot op need ready lane fin).mem.bytes = true := by
  refine State.threadOp_memWf h fun g w t ht => ?_
  extract_lets pc u todo; split
  · exact ht
  · have hu : memWf u.mem.bytes = true := by simpa [u] using ht
    split <;> rename_i hx <;> have checked := wf_of_eq hx (State.checkLanes_memWf hu ..)
    · exact checked
    · simp [checked]
    · split
      · dsimp only; split <;> simp [checked]
      · split <;> rename_i hy <;> have ran := wf_of_eq hy (State.runLanes_memWf checked (hl g w) _)
        · exact ran
        · split
          · exact ran
          · split <;> simp [ran]

@[simp] theorem State.l1Load_memWf (n line : Nat) : memWf (s.l1Load n line).2.mem.bytes = true := by
  unfold State.l1Load; dsimp only; repeat' split
  all_goals simp_all [eq_mk_iff]

@[simp] theorem State.drainEntry_memWf (n : Nat) (e : StoreLine) : memWf (s.drainEntry n e).2.mem.bytes = true := by
  unfold State.drainEntry; dsimp only; repeat' split
  all_goals simp_all [eq_mk_iff]

theorem State.sendAway_memWf {n slot l reg size : Nat} {send : RemoteDest → Option State}
    (hs : ∀ d t, send d = some t → memWf t.mem.bytes = true) : memWf (s.sendAway n slot l reg size send).state.mem.bytes = true := by
  unfold State.sendAway; split
  · exact h
  · split
    · exact h
    next t e => exact hs _ t e

theorem State.rereadOut_memWf (n : Nat) (reread : Bool) (v : Nat) : memWf (s.rereadOut n reread v).state.mem.bytes = true := by
  unfold State.rereadOut; split <;> exact h

/-- A lane's request to another device or to a partner die leaves memory as it was (R154, R278, R322). -/
theorem State.sendAway_remote_memWf (n slot l reg size : Nat) (v : Via) (op aop imp taddr len operands : Nat) (lastUse : Bool) :
    memWf (s.sendAway n slot l reg size fun d =>
      (s.sendRemote v op aop imp taddr len operands [] lastUse d).map (·.2)).state.mem.bytes = true := by
  refine State.sendAway_memWf h fun d t e => ?_
  obtain ⟨p, hp, rfl⟩ := Option.map_eq_some_iff.mp e
  exact State.sendRemote_memWf h hp

theorem State.sendAway_site_memWf (n slot l reg size site : Nat) (r : Req) :
    memWf (s.sendAway n slot l reg size fun d => some (s.sendOutbound site r d).2).state.mem.bytes = true :=
  State.sendAway_memWf h fun d t e => by cases e; simpa using h

theorem State.loadLane_memWf (n slot : Nat) (g : Group) (w : DWord) (l : Nat) (t : Option Target) :
    memWf (s.loadLane n slot g w l t).state.mem.bytes = true := by
  unfold State.loadLane; extract_lets size v; split
  · exact h
  · extract_lets k mask e own
    split
    · split
      · split <;> rename_i hx <;> have read := wf_of_eq hx (State.access_memWf h _)
        · exact State.rereadOut_memWf read ..
        · exact read
        · exact read
      · split
        · exact h
        · split <;> rename_i hx <;> have read := wf_of_eq hx (State.l1Load_memWf h ..)
          · exact State.rereadOut_memWf read ..
          · exact read
          · exact read
    · repeat' split
      any_goals exact h
      exact State.sendAway_site_memWf h ..
    · repeat' split
      any_goals exact h
      exact State.sendAway_remote_memWf h ..

theorem State.storeLane_memWf (n : Nat) (g : Group) (w : DWord) (l : Nat) (t : Option Target) :
    memWf (s.storeLane n g w l t).state.mem.bytes = true := by
  unfold State.storeLane; extract_lets; repeat' split
  all_goals exact h

theorem State.atomicLane_memWf (n slot : Nat) (op : AtomOp) (aop : Nat) (g : Group) (w : DWord) (l : Nat) (t : Option Target) :
    memWf (s.atomicLane n slot op aop g w l t).state.mem.bytes = true := by
  unfold State.atomicLane; extract_lets size v x cmp; split
  · exact h
  · extract_lets k
    split; next clear u hx =>
    have drained : memWf u.mem.bytes = true := by
      split at hx
      · cases hx; exact h
      · exact wf_of_eq hx (State.drainEntry_memWf h ..)
    split
    · exact drained
    · split
      · split <;> rename_i hy <;> have done := wf_of_eq hy (State.access_memWf drained _)
        · refine State.rereadOut_memWf ?_ ..
          split <;> exact done
        · exact done
        · exact done
      · split
        · exact drained
        · exact State.sendAway_site_memWf drained ..
      · exact State.sendAway_remote_memWf drained ..

@[simp] theorem State.threadAtomic_memWf (n slot op : Nat) (a : AtomOp) : memWf (s.threadAtomic n slot op a).mem.bytes = true :=
  State.threadMem_memWf h fun _ _ _ _ _ hu => State.atomicLane_memWf hu ..

/-! Sharing a core. -/

@[simp] theorem State.retest_memWf (n : Nat) (e : Eng) : memWf (s.retest n e).mem.bytes = true := by
  unfold State.retest; dsimp only; repeat' split
  all_goals simp [h]

@[simp] theorem State.restore_memWf (n ctx : Nat) (saved : Core) : memWf (s.restore n ctx saved).mem.bytes = true := by
  unfold State.restore; dsimp only
  refine foldl_memWf (fun t e ht => ?_) _ (by simpa using h)
  exact State.retest_memWf ht ..

@[simp] theorem State.giveCore_memWf (n ctx : Nat) : memWf (s.giveCore n ctx).mem.bytes = true := by
  unfold State.giveCore; repeat' split
  all_goals simp [h]

@[simp] theorem State.drainStores_memWf (n k : Nat) : memWf (State.drainStores n k s).mem.bytes = true := by
  induction k generalizing s with
  | zero => exact h
  | succ k ih =>
    unfold State.drainStores; split
    · exact h
    next e es _ =>
      have drain := State.drainEntry_memWf h n e
      split
      next t hx => exact ih (wf_of_eq hx drain)
      next t hx => exact wf_of_eq hx drain

@[simp] theorem State.finishCopies_memWf (n : Nat) : memWf (s.finishCopies n).mem.bytes = true :=
  foldl_memWf (fun _ _ ht => foldl_memWf (fun _ _ hu => State.driveCopy_memWf hu n _ _) _ ht) _ h

@[simp] theorem State.switchModel_memWf (c : Cmd) (l : Launch) (f : Kernel) : memWf (s.switchModel c l f).mem.bytes = true := by
  unfold State.switchModel; dsimp only; split <;> simp [h]

@[simp] theorem State.evaluate_memWf (c : Cmd) (l : Launch) : memWf (s.evaluate c l).mem.bytes = true := by
  unfold State.evaluate; dsimp only; repeat' split
  all_goals simp [h]

@[simp] theorem State.tearStatuses_memWf (ctx : Nat) (t : Teardown) : memWf (s.tearStatuses ctx t).mem.bytes = true := by
  refine foldl_memWf (fun u c hu => ?_) _ h
  repeat' split
  all_goals simp [hu]

@[simp] theorem State.tearEnd_memWf (ctx : Nat) (t : Teardown) : memWf (s.tearEnd ctx t).mem.bytes = true := by
  unfold State.tearEnd; repeat' split
  all_goals simp [h]

@[simp] theorem State.tearStep_memWf (ctx : Nat) : memWf (s.tearStep ctx).mem.bytes = true := by
  unfold State.tearStep; split
  · exact h
  · split
    · exact foldl_memWf (fun _ _ ht => by simpa using ht) _ h
    · split <;> simp [h]
    · simp [h]
    · simp [h]
    · simp [h]

@[simp] theorem State.resetFn_memWf (fn : Nat) : memWf (s.resetFn fn).mem.bytes = true := by
  unfold State.resetFn; extract_lets mine t u v made
  have cancelled : memWf u.mem.bytes = true := foldl_memWf (fun _ _ hw => State.cancel_memWf hw ..) _ (by simpa [t] using h)
  refine foldl_memWf (fun w c hw => ?_) _ (by simpa [v] using cancelled)
  split <;> simp [hw]

/-! Contexts, kernels and the calendar. -/

@[simp] theorem State.resultTo_memWf (c : Cmd) (kinds dst : Nat) (bs : List Byte) :
    memWf (s.resultTo c kinds dst bs).2.mem.bytes = true := by
  unfold State.resultTo; split <;> simp [h]

@[simp] theorem State.beginLaunch_memWf (c : Cmd) (d : List Byte) (fb : Option (List Byte)) :
    memWf (s.beginLaunch c d fb).mem.bytes = true := by
  unfold State.beginLaunch; extract_lets dl frame l e go
  have go_wf {t : State} (ht : memWf t.mem.bytes = true) (l : Launch) : memWf (go t l).mem.bytes = true := by
    simp only [go]; repeat' split
    all_goals simp [ht]
  split
  · exact go_wf h _
  · split
    · simp [h]
    next i t e => exact go_wf (by rw [State.armFor_bytes e]; exact h) _

/-! The home's side of the coherence messages. -/

theorem State.accept_memWf {r : Req} {force : Bool} {t : State} (e : s.accept r force = some t) : memWf t.mem.bytes = true := by
  unfold State.accept at e; dsimp only at e; repeat' split at e
  all_goals cases e
  any_goals simp [h]
  all_goals solve_by_elim [State.room_way_memWf, State.room_evicting_memWf]

@[simp] theorem State.acceptAll_memWf (rs : List Req) : memWf (s.acceptAll rs).mem.bytes = true := by
  refine foldl_memWf (fun t r ht => ?_) rs h
  cases e : t.accept r true with
  | none => exact ht
  | some u => exact State.accept_memWf ht e

@[simp] theorem State.unpark_memWf (n : Nat) : memWf (s.unpark n).mem.bytes = true := by
  refine foldl_memWf (fun t m ht => ?_) _ h
  split
  · exact ht
  · simp [ht]

/-- A request at its home takes in what its slice makes of it; turned away, it leaves memory alone (R226). -/
theorem State.arrive_memWf {r : Req} {take : Bool → State → Option State}
    (ht : ∀ b t u, memWf t.mem.bytes = true → take b t = some u → memWf u.mem.bytes = true) :
    memWf (s.arrive r take).mem.bytes = true := by
  have taken {b : Bool} {t : State} (hw : memWf t.mem.bytes = true) : memWf ((take b t).getD t).mem.bytes = true := by
    cases e : take b t with
    | none => exact hw
    | some u => exact ht b t u hw e
  unfold State.arrive; dsimp only; repeat' split
  any_goals simp [h]
  · exact taken (by exact h)
  all_goals exact ht _ _ _ h ‹_›

@[simp] theorem State.endTxn_memWf (n : Nat) (m : MissEntry) (t : Txn) : memWf (s.endTxn n m t).mem.bytes = true := by
  unfold State.endTxn; dsimp only
  refine State.unpark_memWf (State.acceptAll_memWf ?_ _) _
  repeat' split
  all_goals simp [h]

@[simp] theorem State.settleTxn_memWf (a : Nat) : memWf (s.settleTxn a).mem.bytes = true := by
  unfold State.settleTxn; dsimp only; repeat' split
  all_goals simp [h]

/-! Accesses of several lines. -/

@[simp] theorem State.accessEach_memWf (rs : List Req) (acc : List Served) : memWf (State.accessEach rs acc s).2.mem.bytes = true := by
  induction rs generalizing acc s with
  | nil => exact h
  | cons r rs ih =>
    have access := State.access_memWf h r
    unfold State.accessEach; split <;> rename_i hx
    · exact ih (wf_of_eq hx access) _
    · exact wf_of_eq hx access
    · exact wf_of_eq hx access

@[simp] theorem State.accessAll_memWf (rs : List Req) : memWf (s.accessAll rs).2.mem.bytes = true := by
  unfold State.accessAll; repeat' split
  all_goals simp_all [eq_mk_iff]

/-! The flush. -/

@[simp] theorem State.flushWay_memWf (n k : Nat) : memWf (s.flushWay n k).mem.bytes = true := by
  unfold State.flushWay; extract_lets sl w t w' u; split
  · exact h
  · have ht : memWf t.mem.bytes = true := by
      simp only [t]; split
      · exact State.chanWrite_memWf (by exact h) _ _
      · exact h
    split <;> simp [u, ht]

@[simp] theorem State.drainForwarded_memWf (n : Nat) : memWf (s.drainForwarded n).mem.bytes = true :=
  foldl_memWf (fun _ _ ht => State.redAtMemory_memWf ht ..) _ (by simpa using h)

@[simp] theorem State.flushAll_memWf : memWf s.flushAll.mem.bytes = true :=
  foldl_memWf (fun _ _ ht => State.drainForwarded_memWf (foldl_memWf (fun _ _ hu => State.flushWay_memWf hu _ _) _ ht) _) _ h

/-! Reference time and the calendar. -/

theorem State.fireEntry_memWf {i cls : Nat} {act : State → CalEntry → Bool → State}
    (ha : ∀ t e late, memWf t.mem.bytes = true → memWf (act t e late).mem.bytes = true) :
    memWf (s.fireEntry i cls act).mem.bytes = true := by
  unfold State.fireEntry; split
  · exact h
  · exact ha _ _ _ h

/-! The Solstice path at work. -/

@[simp] theorem State.takeSource_memWf (g : Nat) (e : SlotEntry) : memWf (s.takeSource g e).2.mem.bytes = true := by
  unfold State.takeSource; dsimp only
  refine foldl_memWf (fun t u ht => ?_) _ ?_
  · exact State.unitLeft_memWf ht ..
  · split <;> simp [h]

@[simp] theorem State.takeFor_memWf (g abs : Nat) (e : SlotEntry) : memWf (s.takeFor g abs e).2.mem.bytes = true := by
  unfold State.takeFor; dsimp only; repeat' split
  all_goals simp [h]

@[simp] theorem State.sendGroup_memWf (g point : Nat) : memWf (s.sendGroup g point).mem.bytes = true := by
  have taken {α β : Type} {f : α × β × State → SlotEntry → α × β × State}
      (hf : ∀ p e, memWf p.2.2.mem.bytes = true → memWf (f p e).2.2.mem.bytes = true) (es : List SlotEntry) {p : α × β × State}
      (hp : memWf p.2.2.mem.bytes = true) : memWf (es.foldl f p).2.2.mem.bytes = true := by
    induction es generalizing p with
    | nil => exact hp
    | cons e es ih => exact ih (hf p e hp)
  unfold State.sendGroup; dsimp only; split
  · split
    · simp [h]
    · simp only [State.emit_bytes]
      exact taken (fun p e hp => State.takeFor_memWf hp ..) _ (by simpa using h)
  · simp [h]

theorem State.landUnit_memWf {g : Nat} {r : StreamRec} {data : Line} {t : State} (e : s.landUnit g r data = some t) :
    memWf t.mem.bytes = true := by
  unfold State.landUnit at e; extract_lets x y v ring at e; split at e
  · cases e; simp [h]
  · split at e <;> rename_i hx <;> have written := wf_of_eq hx (State.vwrite_memWf h ..)
    · cases e
    · cases e; simpa using written
    · cases e; exact written
    · split at e
      next hy =>
        have walk := wf_of_eq hy (State.translate_memWf written ..)
        split at e <;> rename_i hz
        · cases e
        · cases e; exact wf_of_eq hz (State.access_memWf walk _)
        · cases e; simpa using wf_of_eq hz (State.access_memWf walk _)
      · cases e
      next hy => cases e; simpa using wf_of_eq hy (State.translate_memWf written ..)

@[simp] theorem State.fallAdd_memWf (g n : Nat) (r : StreamRec) : memWf (s.fallAdd g n r).mem.bytes = true := by
  unfold State.fallAdd; extract_lets x y v; split
  · exact h
  · split <;> rename_i hx
    · split
      · exact wf_of_eq hx (State.translate_memWf h ..)
      · simp [State.sendRemote_memWf (wf_of_eq hx (State.translate_memWf h ..)) ‹_›]
    · exact wf_of_eq hx (State.translate_memWf h ..)
    · simp [wf_of_eq hx (State.translate_memWf h ..)]
    · exact wf_of_eq hx (State.translate_memWf h ..)

@[simp] theorem State.fallUnit_memWf (g n : Nat) : memWf (s.fallUnit g n).mem.bytes = true := by
  unfold State.fallUnit; extract_lets x; split
  · exact h
  · split
    · exact h
    · extract_lets y v left
      have left_wf {t : State} (ht : memWf t.mem.bytes = true) : memWf (left t).mem.bytes = true := by simp [left, ht]
      split
      · split
        · exact h
        · split
          · exact h
          · exact left_wf (State.landUnit_memWf h ‹_›)
      · split <;> rename_i hx
        · split
          · exact wf_of_eq hx (State.translate_memWf h ..)
          · exact left_wf (State.sendRemote_memWf (wf_of_eq hx (State.translate_memWf h ..)) ‹_›)
        · exact wf_of_eq hx (State.translate_memWf h ..)
        · simp [wf_of_eq hx (State.translate_memWf h ..)]
        · exact wf_of_eq hx (State.translate_memWf h ..)

@[simp] theorem State.fallBack_memWf (g n : Nat) : memWf (s.fallBack g n).mem.bytes = true := by
  unfold State.fallBack; dsimp only; split
  · exact h
  · exact State.fallUnit_memWf (foldl_memWf (fun _ _ ht => State.fallAdd_memWf ht _ _ _) _ h) _ _

/-! Loading and stopping schedules. -/

@[simp] theorem State.streamReach_memWf (r : StreamRec) : memWf (s.streamReach r).2.mem.bytes = true := by
  unfold State.streamReach; extract_lets v ring both
  have both_wf {t : State} (ht : memWf t.mem.bytes = true) (a c : Nat) : memWf (both a c t).2.mem.bytes = true := by
    simp only [both]; split <;> rename_i hx <;> have ok := wf_of_eq hx (State.checkRange_memWf ht ..)
    · exact ok
    · simp [ok]
  have first : memWf (if r.role.getLsbD 1 then both r.ringVa r.ctrVa s else (.ok (), s)).2.mem.bytes = true := by
    split
    · exact both_wf h ..
    · exact h
  split <;> rename_i hx <;> have ok := wf_of_eq hx first
  · exact ok
  · split
    · exact both_wf ok ..
    · exact ok

@[simp] theorem State.allReach_memWf (rs : List StreamRec) : memWf (State.allReach rs s).2.mem.bytes = true := by
  induction rs generalizing s with
  | nil => exact h
  | cons r rs ih =>
    have reach := State.streamReach_memWf h r
    unfold State.allReach; split <;> rename_i hx
    · exact wf_of_eq hx reach
    · exact ih (wf_of_eq hx reach)

@[simp] theorem State.endLoad_memWf (c : Cmd) (i : Image) (x : Schedule) (reach : Bool) :
    memWf (s.endLoad c i x reach).mem.bytes = true := by
  unfold State.endLoad; dsimp only; split <;> simp [h]

@[simp] theorem State.loadImage_memWf (c : Cmd) (b : List Byte) : memWf (s.loadImage c b).mem.bytes = true := by
  unfold State.loadImage; dsimp only; repeat' split
  all_goals simp_all [eq_mk_iff]

@[simp] theorem State.haltSched_memWf (g : Nat) : memWf (s.haltSched g).mem.bytes = true := by
  unfold State.haltSched; split <;> simp [h]

/-! Joining a job. -/

@[simp] theorem State.mismatch_memWf (j : Joining) (device : Nat) : memWf (s.mismatch j device).mem.bytes = true := by
  simp [State.mismatch, h]

@[simp] theorem State.lead_memWf (g : Nat) : memWf (s.lead g).mem.bytes = true := by
  unfold State.lead; dsimp only; repeat' split
  all_goals simp [h]

/-! The partner sites. -/

@[simp] theorem State.placesOf_memWf (v : Via) (need : Right) (ps : List (Nat × Nat)) :
    memWf (State.placesOf v need ps s).2.mem.bytes = true := by
  induction ps generalizing s with
  | nil => exact h
  | cons p ps ih =>
    have walk := State.translate_memWf h v p.1 need
    unfold State.placesOf; split <;> rename_i hx
    · split <;> exact wf_of_eq ‹_› (ih (wf_of_eq hx walk))
    · exact wf_of_eq hx walk
    · exact wf_of_eq hx walk

@[simp] theorem State.passSite_memWf (k : Nat) (q : SiteIn) : memWf (s.passSite k q).2.mem.bytes = true := by
  unfold State.passSite; dsimp only; repeat' split
  all_goals simp_all [eq_mk_iff]

/-! Power-up and boot. -/

theorem memWf_of_endState {ε α : Type} {f : ε → State} {g : α → State} {x y : Except ε α} (e : x = y)
    (hx : (endState f g x).mem.bytes = s.mem.bytes) : memWf (endState f g y).mem.bytes = true := by
  rw [← e, hx]; exact h

@[simp] theorem State.boot_memWf (b : BootInputs) : memWf (s.boot b).mem.bytes = true := by
  unfold State.boot; split <;> rename_i hi <;> have image := memWf_of_endState h hi (State.bootImage_bytes ..)
  · exact image
  · split <;> rename_i hm <;> have map := memWf_of_endState image hm (State.buildMap_bytes ..)
    · simpa [endState] using map
    · split <;> rename_i hr <;> have records := memWf_of_endState map hr (State.bootRecords_bytes ..)
      · exact records
      · split <;> rename_i ht
        · exact memWf_of_endState records ht (State.bootTrain_bytes ..)
        · simp [bootMemory, memWf_memWrN _ _ _ (show memWf [] = true from rfl)]

/-! The fabric. -/

@[simp] theorem State.inbound_memWf (port op : Nat) (h : Line) (data : List Byte) : memWf (s.inbound port op h data).mem.bytes = true := by
  unfold State.inbound; dsimp only; repeat' split
  all_goals simp_all [eq_mk_iff]

theorem State.response_memWf {port op : Nat} {hdr : Line} {data : List Byte} {act : State → Outstanding → State}
    (ha : ∀ t o, memWf t.mem.bytes = true → memWf (act t o).mem.bytes = true) :
    memWf (s.response port op hdr data act).mem.bytes = true := by
  unfold State.response; repeat' split
  any_goals simp [h]
  exact ha _ _ h

/-! The coherence messages. -/

theorem State.request_memWf {r : Req} {take : Bool → State → Option State}
    (ht : ∀ b t u, memWf t.mem.bytes = true → take b t = some u → memWf u.mem.bytes = true) :
    memWf (s.request r take).mem.bytes = true := by
  unfold State.request; repeat' split
  all_goals simp [h, State.arrive_memWf h ht]

@[simp] theorem State.ownRequest_memWf (r : Req) : memWf (s.ownRequest r).mem.bytes = true := by
  unfold State.ownRequest; repeat' split
  · exact h
  · simp [h]
  · exact State.request_memWf h fun b t u ht e => State.accept_memWf ht e

@[simp] theorem State.writeRequest_memWf (r : Req) : memWf (s.writeRequest r).mem.bytes = true := by
  refine State.request_memWf h fun b t u ht e => ?_
  split at e <;> cases e
  simpa using ht

@[simp] theorem State.ackInv_memWf (agent a id : Nat) : memWf (s.ackInv agent a id).mem.bytes = true := by
  unfold State.ackInv; dsimp only; repeat' split
  all_goals simp [h]

@[simp] theorem State.snoopAnswer_memWf (agent a : Nat) (data : Option Line) (wb : Bool) :
    memWf (s.snoopAnswer agent a data wb).mem.bytes = true := by
  unfold State.snoopAnswer; dsimp only; repeat' split
  all_goals simp [h]

/-! The host's accesses. -/

@[simp] theorem State.takePacket_memWf (fn ring : Nat) (p : Line) (corrupt : Bool) :
    memWf (s.takePacket fn ring p corrupt).mem.bytes = true := by
  unfold State.takePacket; split <;> simp [h]

@[simp] theorem State.takeCorrupt_memWf (fn ring : Nat) : memWf (s.takeCorrupt fn ring).mem.bytes = true := by simp [State.takeCorrupt, h]

@[simp] theorem State.takeMapped_memWf (fn ring : Nat) : memWf (s.takeMapped fn ring).mem.bytes = true := by
  unfold State.takeMapped
  obtain ⟨read, hread⟩ : ∃ read, State.vread = read := ⟨_, rfl⟩
  rw [hread]
  extract_lets r f; split
  · simp [h]
  · split <;> rename_i hx <;> have read := wf_of_eq hx (hread ▸ State.vread_memWf h ..)
    · split <;> simp [read]
    · simp [read]
    · exact read
    · simp [read]

/-! What the recoveries share. -/

@[simp] theorem State.storeLines_memWf (pa : Nat) (bs : List Byte) : memWf (s.storeLines pa bs).mem.bytes = true :=
  foldl_memWf (fun _ _ ht => State.chanWrite_memWf ht _ _) _ h

@[simp] theorem State.fillCrash_memWf : memWf s.fillCrash.mem.bytes = true :=
  State.storeLines_memWf (foldl_memWf (fun _ _ ht => State.storeLines_memWf (State.storeLines_memWf ht _ _) _ _) _ h) _ _

@[simp] theorem State.readLines_memWf (a n : Nat) : memWf (State.readLines a n s).2.mem.bytes = true := by
  induction n generalizing a s with
  | zero => exact h
  | succ n ih =>
    have read := State.chanRead_memWf h a 0 {} [] []
    unfold State.readLines; split
    next t hx => exact wf_of_eq hx read
    next l t hx => split <;> exact wf_of_eq ‹_› (ih (wf_of_eq hx read) _)

@[simp] theorem State.readCopy_memWf : memWf s.readCopy.2.mem.bytes = true := by simp [State.readCopy, h]

@[simp] theorem State.endNamed_memWf (r : FaultRec) : memWf (s.endNamed r).mem.bytes = true := by
  unfold State.endNamed; repeat' split
  all_goals simp [h]

@[simp] theorem State.closeTear_memWf (ctx : Nat) : memWf (s.closeTear ctx).mem.bytes = true := by
  unfold State.closeTear; split <;> simp [h]

@[simp] theorem State.endCommands_memWf : memWf s.endCommands.mem.bytes = true :=
  foldl_memWf (fun _ _ ht => State.cancel_memWf ht _ _ _) _ (foldl_memWf (fun _ _ ht => State.finish_memWf ht _ _ _ _) _
    (foldl_memWf (fun _ _ ht => State.closeTear_memWf ht _) _ (foldl_memWf (fun _ _ ht => State.endNamed_memWf ht _) _ h)))

/-! Recoveries. -/

@[simp] theorem State.computeStep_memWf (k : Nat) (bist : List (Fin 48 × BitVec 13)) : memWf (s.computeStep k bist).mem.bytes = true := by
  unfold State.computeStep; repeat' split
  all_goals simp_all [eq_mk_iff]

omit h in
/-- Whatever lost memory holds afterwards, writing it keeps the form (R464). -/
@[simp] theorem State.loseMemory_memWf (image : List Byte) : memWf (s.loseMemory image).mem.bytes = true :=
  foldl_memWf (fun _ _ ht => by simpa using ht) _ (memWf_memWrN _ _ _ (memWf_memWrL _ _ rfl))

@[simp] theorem State.fullStep_memWf (k : Nat) (x : RecoveryInputs) : memWf (s.fullStep k x).mem.bytes = true := by
  unfold State.fullStep; split
  · simp [h]
  · simp [h]
  · simp [h]
  · extract_lets t; split <;> simp [t, h]
  · split <;> rename_i hm <;> have map := memWf_of_endState h hm (State.buildMap_bytes ..)
    · exact map
    · simpa [endState] using map
  · extract_lets bad t; split <;> simp [t, h]
  · simp [h]
  · dsimp only; split <;> simp [h]

/-! Segments, partitions and sites. -/

@[simp] theorem State.purgeWay_memWf (n k : Nat) : memWf (s.purgeWay n k).2.mem.bytes = true := by
  unfold State.purgeWay; dsimp only; repeat' split
  all_goals simp [h]

@[simp] theorem State.purge_memWf (ways : Nat) : memWf (s.purge ways).2.mem.bytes = true := by
  refine foldl_snd_memWf (fun p x hp => State.drainForwarded_memWf ?_ _) _ (p := (true, s)) h
  refine foldl_snd_memWf (fun q w hq => ?_) _ hp
  exact State.purgeWay_memWf hq _ _

/-! Supplies and pins. -/

omit h in
/-- Without auxiliary power nothing stays, and empty memory is canonical (R491). -/
@[simp] theorem State.powerLost_memWf : memWf s.powerLost.mem.bytes = true := rfl

@[simp] theorem State.feed_memWf : memWf s.feed.mem.bytes = true := by
  unfold State.feed; dsimp only; repeat' split
  all_goals simp [h]

@[simp] theorem State.powerDown_memWf : memWf s.powerDown.mem.bytes = true := by
  unfold State.powerDown
  obtain ⟨move, hmove⟩ : ∃ move, State.moveChans = move := ⟨_, rfl⟩
  rw [hmove]; extract_lets r t u
  rw [State.powerOff_bytes]
  have moved : memWf u.mem.bytes = true := by
    simp only [u, ← hmove]; rw [State.moveChans_bytes _ (by decide)]; simp [t, h]
  exact moved

theorem State.takeReread_memWf {r : Req} {ok : State} (hk : memWf ok.mem.bytes = true) : memWf (s.takeReread r ok).mem.bytes = true := by
  unfold State.takeReread; repeat' split
  all_goals simp [h, hk]

/-- What a request that waits for its reply leaves, it leaves as the request was accepted. -/
theorem State.accept_map_memWf {r : Req} {force : Bool} {f : State → State} (hf : ∀ t, (f t).mem.bytes = t.mem.bytes) {u : State}
    (e : (s.accept r force).map f = some u) : memWf u.mem.bytes = true := by
  obtain ⟨t, accepted, rfl⟩ := Option.map_eq_some_iff.mp e
  rw [hf]; exact State.accept_memWf h accepted

theorem State.passSite_some_memWf {k : Nat} {q : SiteIn} {t u : State} (e : s.passSite k q = (some t, u)) :
    memWf t.mem.bytes = true := by
  unfold State.passSite at e; extract_lets v spend at e
  have spent {u : State} (hu : memWf u.mem.bytes = true) : memWf (spend u).mem.bytes = true := by simpa [spend] using hu
  split at e <;> rename_i hx <;> have placed := wf_of_eq hx (State.placesOf_memWf h ..)
  · cases e
  · cases e; simp [spent placed]
  · cases e; simp [placed]
  · extract_lets rs at e
    split at e <;> rename_i hy <;> have served := wf_of_eq hy (State.accessAll_memWf placed ..)
    · cases e; simp [spent served]
    · cases e
    · cases e; simp [spent served]

theorem getD_memWf {o : Option State} (ho : ∀ t, o = some t → memWf t.mem.bytes = true) : memWf (o.getD s).mem.bytes = true := by
  cases o with
  | none => exact h
  | some t => exact ho t rfl

end Writes

end Sys2Proof.Machine
end

section
/-! PROOFS. What each command answers, and the statements EveryCommandAnswers and StepKeepsMemoryCanonical. -/

namespace Sys2Proof.Machine

/-- How a command is answered: with a state whose memory is in its canonical form if it was before, or with the fault of a
coherence message for a line beyond device memory (R182). -/
def Answers (s : State) : Host.Outcome State Fault Refusal → Prop
  | .next t => memWf s.mem.bytes = true → memWf t.mem.bytes = true
  | .fault f => ∃ line : BitVec 42, 2 ^ 36 ≤ line.toNat ∧ f = .noSuchAddress (64 * line.toNat)
  | .refused _ => False

theorem answers_next {s t : State} (ht : memWf s.mem.bytes = true → memWf t.mem.bytes = true) : Answers s (.next t) := ht

theorem answers_onLine {s : State} {line : BitVec 42} {f : Nat → State}
    (hf : ∀ a, memWf s.mem.bytes = true → memWf (f a).mem.bytes = true) : Answers s (onLine line f) := by
  unfold onLine; split
  · exact hf _
  next beyond => exact ⟨line, by simpa [inMemory] using beyond, rfl⟩

section Commands
variable {s : State}

/-! The copy engines. -/

theorem execIssue_answers (core : Fin 576) (cpe : Fin 2) : Answers s (execIssue core cpe s) :=
  answers_next fun h => State.issueOp_memWf h fun w => by simp [h]
theorem execDescriptorStart_answers (core : Fin 576) (cpe : Fin 2) : Answers s (execDescriptorStart core cpe s) :=
  answers_next fun h => by
    split
    · exact h
    · split
      · exact h
      · split <;> rename_i hx <;> have fetched := wf_of_eq hx (State.fetchDesc_memWf h ..)
        · simp [fetched]
        · split <;> rename_i hy <;> have checked := wf_of_eq hy (State.checkDesc_memWf fetched ..)
          · simp [checked]
          · simp [checked]
          · simp [checked]
          · extract_lets x; split
            · simp [checked]
            · split <;> simp [checked]

theorem execDescriptorComplete_answers (core : Fin 576) (cpe : Fin 2) (index : Fin 16) :
    Answers s (execDescriptorComplete core cpe index s) :=
  answers_next fun h => by
    repeat' split
    all_goals simp [h]

/-! The matrix and the vector engine. -/

theorem execLdb_answers (core : Fin 576) : Answers s (execLdb core s) := answers_next fun h => by simp [h]
theorem execMma_answers (core : Fin 576) : Answers s (execMma core s) := answers_next fun h => by simp [h]
theorem execAccmode_answers (core : Fin 576) : Answers s (execAccmode core s) := answers_next fun h => by simp [h]
theorem execAcczero_answers (core : Fin 576) : Answers s (execAcczero core s) := answers_next fun h => by simp [h]
theorem execAccst_answers (core : Fin 576) : Answers s (execAccst core s) := answers_next fun h => by simp [h]
theorem execAccld_answers (core : Fin 576) : Answers s (execAccld core s) := answers_next fun h => by simp [h]
theorem execStstat_answers (core : Fin 576) : Answers s (execStstat core s) := answers_next fun h => by simp [h]
theorem execSetlen_answers (core : Fin 576) : Answers s (execSetlen core s) := answers_next fun h => by simp [h]
theorem execVxeLd_answers (core : Fin 576) : Answers s (execVxeLd core s) := answers_next fun h => by simp [h]
theorem execVxeSt_answers (core : Fin 576) : Answers s (execVxeSt core s) := answers_next fun h => by simp [h]
theorem execStslab_answers (core : Fin 576) : Answers s (execStslab core s) := answers_next fun h => by simp [h]
theorem execAlu_answers (core : Fin 576) : Answers s (execAlu core s) := answers_next fun h => by simp [h]
theorem execFma_answers (core : Fin 576) : Answers s (execFma core s) := answers_next fun h => by simp [h]
theorem execVxeSel_answers (core : Fin 576) : Answers s (execVxeSel core s) := answers_next fun h => by simp [h]
theorem execVxeFunc_answers (core : Fin 576) : Answers s (execVxeFunc core s) := answers_next fun h => by simp [h]
theorem execVxeCvt_answers (core : Fin 576) : Answers s (execVxeCvt core s) := answers_next fun h => by simp [h]
theorem execRed_answers (core : Fin 576) : Answers s (execRed core s) := answers_next fun h => by simp [h]
theorem execVstat_answers (core : Fin 576) : Answers s (execVstat core s) := answers_next fun h => by simp [h]
theorem execInstructionCompletion_answers (core : Fin 576) (q : Eng) (index : Fin 64) :
    Answers s (execInstructionCompletion core q index s) :=
  answers_next fun h => by
    repeat' split
    all_goals simp [h]

/-! A core's part of a kernel. -/

theorem execCoreStart_answers (core : Fin 576) : Answers s (execCoreStart core s) := answers_next fun h => by
  repeat' split
  all_goals simp_all [eq_mk_iff]

theorem execCoreEnd_answers (core : Fin 576) : Answers s (execCoreEnd core s) := answers_next fun h => by
  repeat' split
  all_goals simp_all [eq_mk_iff]

/-! The queue instructions. -/

theorem execNop_answers (core : Fin 576) (q : Eng) : Answers s (execNop core q s) :=
  answers_next fun h => State.issueOp_memWf h fun w => by simp [h]
theorem execEndQueue_answers (core : Fin 576) (q : Eng) : Answers s (execEndQueue core q s) :=
  answers_next fun h => State.issueOp_memWf h fun w => by simp [h]
theorem execSignal_answers (core : Fin 576) (q : Eng) : Answers s (execSignal core q s) :=
  answers_next fun h => State.issueOp_memWf h fun w => by simp [h]
theorem execSignalPerform_answers (core : Fin 576) (qs : List Eng) : Answers s (execSignalPerform core qs s) :=
  answers_next fun h => by simp [h]
theorem execWait_answers (core : Fin 576) (q : Eng) : Answers s (execWait core q s) :=
  answers_next fun h => State.issueOp_memWf h fun w => by simp [h]
theorem execWaitmem_answers (core : Fin 576) (q : Eng) : Answers s (execWaitmem core q s) :=
  answers_next fun h => State.issueOp_memWf h fun w => by
    repeat' split
    all_goals simp [h]

theorem execWaitmemNotice_answers (core : Fin 576) (q : Eng) : Answers s (execWaitmemNotice core q s) := answers_next fun h => by
  repeat' split
  all_goals simp [h]

theorem execWaitTimeout_answers (core : Fin 576) (q : Eng) : Answers s (execWaitTimeout core q s) := answers_next fun h => by simp [h]
theorem execQueueDeadlock_answers (core : Fin 576) : Answers s (execQueueDeadlock core s) := answers_next fun h => by
  repeat' split
  all_goals simp [h]

theorem execFence_answers (core : Fin 576) (q : Eng) : Answers s (execFence core q s) := by
  unfold execFence; extract_lets go x
  have go_wf {t : State} (ht : memWf t.mem.bytes = true) (w : QWord) : memWf (go t w).mem.bytes = true := by
    simp only [go]; split <;> simp [ht]
  refine answers_next fun h => ?_
  split
  · split
    · exact go_wf h _
    · exact h
  · refine State.issueOp_memWf h fun w => ?_
    split
    · simp [h]
    · exact go_wf h w

theorem execLoop_answers (core : Fin 576) (q : Eng) : Answers s (execLoop core q s) :=
  answers_next fun h => State.issueOp_memWf h fun w => by simp [h]
theorem execGranuleFetch_answers (core : Fin 576) (q : Eng) : Answers s (execGranuleFetch core q s) := answers_next fun h => by
  repeat' split
  all_goals simp_all [eq_mk_iff]

/-! Thread groups. -/

theorem execTstart_answers (core : Fin 576) : Answers s (execTstart core s) :=
  answers_next fun h => State.issueOp_memWf h fun w => by simp [h]
theorem execTstartGroupsStart_answers (core : Fin 576) : Answers s (execTstartGroupsStart core s) :=
  answers_next fun h => by split <;> simp [h]
theorem execTstartComplete_answers (core : Fin 576) (index : Nat) : Answers s (execTstartComplete core index s) :=
  answers_next fun h => by simp [h]
theorem execThreadNop_answers (core : Fin 576) (slot : Fin 64) : Answers s (execThreadNop core slot s) :=
  answers_next fun h => State.threadOp_memWf h fun g w t ht => by simp [ht]
theorem execExit_answers (core : Fin 576) (slot : Fin 64) : Answers s (execExit core slot s) :=
  answers_next fun h => State.threadOp_memWf h fun g w t ht => by simp [ht]
theorem execBrnz_answers (core : Fin 576) (slot : Fin 64) : Answers s (execBrnz core slot s) := answers_next fun h => by simp [h]
theorem execBrz_answers (core : Fin 576) (slot : Fin 64) : Answers s (execBrz core slot s) := answers_next fun h => by simp [h]
theorem execPathRotation_answers (core : Fin 576) (slot : Fin 64) : Answers s (execPathRotation core slot s) := answers_next fun h => by
  repeat' split
  all_goals simp [h]

theorem execAdd_answers (core : Fin 576) (slot : Fin 64) : Answers s (execAdd core slot s) := answers_next fun h => by simp [h]
theorem execSub_answers (core : Fin 576) (slot : Fin 64) : Answers s (execSub core slot s) := answers_next fun h => by simp [h]
theorem execMul_answers (core : Fin 576) (slot : Fin 64) : Answers s (execMul core slot s) := answers_next fun h => by simp [h]
theorem execMulhi_answers (core : Fin 576) (slot : Fin 64) : Answers s (execMulhi core slot s) := answers_next fun h => by simp [h]
theorem execAnd_answers (core : Fin 576) (slot : Fin 64) : Answers s (execAnd core slot s) := answers_next fun h => by simp [h]
theorem execOr_answers (core : Fin 576) (slot : Fin 64) : Answers s (execOr core slot s) := answers_next fun h => by simp [h]
theorem execXor_answers (core : Fin 576) (slot : Fin 64) : Answers s (execXor core slot s) := answers_next fun h => by simp [h]
theorem execShl_answers (core : Fin 576) (slot : Fin 64) : Answers s (execShl core slot s) := answers_next fun h => by simp [h]
theorem execShr_answers (core : Fin 576) (slot : Fin 64) : Answers s (execShr core slot s) := answers_next fun h => by simp [h]
theorem execSra_answers (core : Fin 576) (slot : Fin 64) : Answers s (execSra core slot s) := answers_next fun h => by simp [h]
theorem execSlt_answers (core : Fin 576) (slot : Fin 64) : Answers s (execSlt core slot s) := answers_next fun h => by simp [h]
theorem execSltu_answers (core : Fin 576) (slot : Fin 64) : Answers s (execSltu core slot s) := answers_next fun h => by simp [h]
theorem execAdd64_answers (core : Fin 576) (slot : Fin 64) : Answers s (execAdd64 core slot s) :=
  answers_next fun h => State.threadOp_memWf h fun g w t ht => by simp [ht]
theorem execAddi_answers (core : Fin 576) (slot : Fin 64) : Answers s (execAddi core slot s) := answers_next fun h => by simp [h]
theorem execMovi_answers (core : Fin 576) (slot : Fin 64) : Answers s (execMovi core slot s) := answers_next fun h => by simp [h]
theorem execThreadSel_answers (core : Fin 576) (slot : Fin 64) : Answers s (execThreadSel core slot s) :=
  answers_next fun h => by simp [h]
theorem execFadd_answers (core : Fin 576) (slot : Fin 64) : Answers s (execFadd core slot s) := answers_next fun h => by simp [h]
theorem execFsub_answers (core : Fin 576) (slot : Fin 64) : Answers s (execFsub core slot s) := answers_next fun h => by simp [h]
theorem execFmul_answers (core : Fin 576) (slot : Fin 64) : Answers s (execFmul core slot s) := answers_next fun h => by simp [h]
theorem execFfma_answers (core : Fin 576) (slot : Fin 64) : Answers s (execFfma core slot s) := answers_next fun h => by simp [h]
theorem execFmin_answers (core : Fin 576) (slot : Fin 64) : Answers s (execFmin core slot s) := answers_next fun h => by simp [h]
theorem execFmax_answers (core : Fin 576) (slot : Fin 64) : Answers s (execFmax core slot s) := answers_next fun h => by simp [h]
theorem execFslt_answers (core : Fin 576) (slot : Fin 64) : Answers s (execFslt core slot s) := answers_next fun h => by simp [h]
theorem execFseq_answers (core : Fin 576) (slot : Fin 64) : Answers s (execFseq core slot s) := answers_next fun h => by simp [h]
theorem execThreadCvt_answers (core : Fin 576) (slot : Fin 64) : Answers s (execThreadCvt core slot s) :=
  answers_next fun h => by simp [h]
theorem execThreadFunc_answers (core : Fin 576) (slot : Fin 64) : Answers s (execThreadFunc core slot s) :=
  answers_next fun h => by simp [h]
theorem execVote_answers (core : Fin 576) (slot : Fin 64) : Answers s (execVote core slot s) := answers_next fun h => by simp [h]
theorem execShfl_answers (core : Fin 576) (slot : Fin 64) : Answers s (execShfl core slot s) := answers_next fun h => by simp [h]
theorem execBar_answers (core : Fin 576) (slot : Fin 64) : Answers s (execBar core slot s) :=
  answers_next fun h => State.threadOp_memWf h fun g w t ht => by simp [ht]
theorem execBarRelease_answers (core : Fin 576) (index : Nat) : Answers s (execBarRelease core index s) :=
  answers_next fun h => by simp [h]
theorem execGrpmul_answers (core : Fin 576) (slot : Fin 64) : Answers s (execGrpmul core slot s) :=
  answers_next fun h => State.threadOp_memWf h fun g w t ht => by simp [ht]

/-! Memory instructions of threads. -/

theorem execThreadLd_answers (core : Fin 576) (slot : Fin 64) : Answers s (execThreadLd core slot s) :=
  answers_next fun h => State.threadMem_memWf h fun _ _ _ _ _ hu => State.loadLane_memWf hu ..
theorem execThreadSt_answers (core : Fin 576) (slot : Fin 64) : Answers s (execThreadSt core slot s) :=
  answers_next fun h => State.threadMem_memWf h fun _ _ _ _ _ hu => State.storeLane_memWf hu ..
theorem execStoreBufferDrain_answers (core : Fin 576) (index : Fin 32) : Answers s (execStoreBufferDrain core index s) :=
  answers_next fun h => by
    repeat' split
    all_goals simp [h]

theorem execAadd_answers (core : Fin 576) (slot : Fin 64) : Answers s (execAadd core slot s) := answers_next fun h => by simp [h]
theorem execAmin_answers (core : Fin 576) (slot : Fin 64) : Answers s (execAmin core slot s) := answers_next fun h => by simp [h]
theorem execAmax_answers (core : Fin 576) (slot : Fin 64) : Answers s (execAmax core slot s) := answers_next fun h => by simp [h]
theorem execAexch_answers (core : Fin 576) (slot : Fin 64) : Answers s (execAexch core slot s) := answers_next fun h => by simp [h]
theorem execAcas_answers (core : Fin 576) (slot : Fin 64) : Answers s (execAcas core slot s) := answers_next fun h => by simp [h]
theorem execAfadd_answers (core : Fin 576) (slot : Fin 64) : Answers s (execAfadd core slot s) := answers_next fun h => by simp [h]
theorem execThreadFence_answers (core : Fin 576) (slot : Fin 64) : Answers s (execThreadFence core slot s) :=
  answers_next fun h => State.threadOp_memWf h fun g w t ht => by simp [ht]
theorem execInvalidationApply_answers (core : Fin 576) : Answers s (execInvalidationApply core s) := answers_next fun h => by simp [h]

/-! Sharing a core. -/

theorem execSchedulerDecision_answers (core : Fin 576) : Answers s (execSchedulerDecision core s) := answers_next fun h => by
  dsimp only; repeat' split
  all_goals simp [h]

theorem execPreemption_answers (core : Fin 576) : Answers s (execPreemption core s) := answers_next fun h => by
  split
  · exact h
  · split
    · exact h
    · split
      · simp [h]
      · extract_lets a b c me d e vacant f old
        have drained : memWf b.mem.bytes = true :=
          State.finishCopies_memWf (State.drainStores_memWf (by simpa [a] using h) _ _) _
        split
        · exact drained
        · exact State.giveCore_memWf (by simpa [d, e, f] using drained) _ _

theorem execDeadlineEvaluation_answers (fn : Fin 16) (ring : Fin 4) (index : BitVec 32) :
    Answers s (execDeadlineEvaluation fn ring index s) :=
  answers_next fun h => by
    repeat' split
    all_goals simp [h]

theorem execRunLimitExpiry_answers (fn : Fin 16) (ring : Fin 4) (index : BitVec 32) : Answers s (execRunLimitExpiry fn ring index s) :=
  answers_next fun h => by
    repeat' split
    all_goals simp [h]

theorem execTeardown_answers (ctx : BitVec 8) : Answers s (execTeardown ctx s) := answers_next fun h => by split <;> simp [h]
theorem execFunctionLevelReset_answers (fn : Fin 16) : Answers s (execFunctionLevelReset fn s) := answers_next fun h => by simp [h]

/-! Contexts, kernels and the calendar. -/

theorem execCmdNop_answers (fn : Fin 16) (ring : Fin 4) (index : BitVec 32) : Answers s (execCmdNop fn ring index s) :=
  answers_next fun h => State.startCmd_memWf h fun t c ht => by simp [ht]
theorem execQuery_answers (fn : Fin 16) (ring : Fin 4) (index : BitVec 32) : Answers s (execQuery fn ring index s) :=
  answers_next fun h => State.startCmd_memWf h fun t c ht => by
    repeat' split
    all_goals simp_all [eq_mk_iff]

theorem execCtxCreate_answers (fn : Fin 16) (ring : Fin 4) (index : BitVec 32) : Answers s (execCtxCreate fn ring index s) :=
  answers_next fun h => State.startCmd_memWf h fun t c ht => by simp [ht]
theorem execCtxAttr_answers (fn : Fin 16) (ring : Fin 4) (index : BitVec 32) : Answers s (execCtxAttr fn ring index s) :=
  answers_next fun h => State.startCmd_memWf h fun t c ht => by simp [ht]
theorem execCtxDestroy_answers (fn : Fin 16) (ring : Fin 4) (index : BitVec 32) : Answers s (execCtxDestroy fn ring index s) :=
  answers_next fun h => State.startCmd_memWf h fun t c ht => by simp [ht]
theorem execAperture_answers (fn : Fin 16) (ring : Fin 4) (index : BitVec 32) : Answers s (execAperture fn ring index s) :=
  answers_next fun h => State.startCmd_memWf h fun t c ht => by simp [ht]
theorem execLaunch_answers (fn : Fin 16) (ring : Fin 4) (index : BitVec 32) : Answers s (execLaunch fn ring index s) := by
  unfold execLaunch
  obtain ⟨read, hread⟩ : ∃ read, State.vread = read := ⟨_, rfl⟩
  rw [hread]
  refine answers_next fun h => State.startCmd_memWf h fun t c ht => ?_
  extract_lets hd v ready
  have ready_wf {u : State} (hu : memWf u.mem.bytes = true) (d : List Byte) (fb : Option (List Byte)) :
      memWf (ready u d fb).mem.bytes = true := by
    simp only [ready]; split <;> simp [hu]
  clear_value ready
  split <;> rename_i hx <;> have first := wf_of_eq hx (hread ▸ State.vread_memWf ht ..)
  · simp [first]
  · split
    · exact ready_wf first ..
    · split <;> rename_i hy <;> have both := wf_of_eq hy (hread ▸ State.vread_memWf first ..)
      · simp [both]
      · exact ready_wf both ..

theorem execAbort_answers (fn : Fin 16) (ring : Fin 4) (index : BitVec 32) : Answers s (execAbort fn ring index s) :=
  answers_next fun h => State.startCmd_memWf h fun t c ht => by
    split <;> simp [ht]

theorem execCalArm_answers (fn : Fin 16) (ring : Fin 4) (index : BitVec 32) : Answers s (execCalArm fn ring index s) :=
  answers_next fun h => State.startCmd_memWf h fun t c ht => by
    extract_lets e; split
    · simp [ht]
    next i u armed => simp [State.armFor_bytes armed, ht]

theorem execCalCancel_answers (fn : Fin 16) (ring : Fin 4) (index : BitVec 32) : Answers s (execCalCancel fn ring index s) :=
  answers_next fun h => State.startCmd_memWf h fun t c ht => by simp [ht]
theorem execPhase_answers (fn : Fin 16) (ring : Fin 4) (index : BitVec 32) : Answers s (execPhase fn ring index s) :=
  answers_next fun h => State.startCmd_memWf h fun t c ht => by
    extract_lets e; split
    · simp [ht]
    next i u armed => simp [State.armFor_bytes armed, ht]

theorem execIdleConfig_answers (fn : Fin 16) (ring : Fin 4) (index : BitVec 32) : Answers s (execIdleConfig fn ring index s) :=
  answers_next fun h => State.startCmd_memWf h fun t c ht => by simp [ht]

/-! Power and temperature. -/

theorem execEstimateWindow_answers (temps : List (BitVec 12)) (millivolts : List Nat) :
    Answers s (execEstimateWindow temps millivolts s) :=
  answers_next fun h => by simp [h]
theorem execCalibration_answers (die : Fin 5) (measured : Nat) : Answers s (execCalibration die measured s) :=
  answers_next fun h => by simp [h]
theorem execDroopDetect_answers (die : Fin 4) : Answers s (execDroopDetect die s) := answers_next fun h => by simp [h]
theorem execCappingLoopStep_answers (power : Nat) (tj : BitVec 12) (die : Fin 5) : Answers s (execCappingLoopStep power tj die s) :=
  answers_next fun h => by simp [h]
theorem execSealBreachClear_answers : Answers s (execSealBreachClear s) := answers_next fun h => by simp [h]
theorem execPhaseFire_answers (entry : Fin 4096) : Answers s (execPhaseFire entry s) :=
  answers_next fun h => State.fireEntry_memWf h fun t e late ht => by simp [ht]
theorem execPhaseExpiry_answers : Answers s (execPhaseExpiry s) := answers_next fun h => by simp [h]
theorem execHot_answers : Answers s (execHot s) := answers_next fun h => by simp [h]
theorem execHotClear_answers : Answers s (execHotClear s) := answers_next fun h => by simp [h]
theorem execThermalTrip_answers (sensor : Fin 68) (reading : BitVec 12) : Answers s (execThermalTrip sensor reading s) :=
  answers_next fun h => by simp [h]
theorem execCoolantRead_answers (reading : Option (BitVec 12)) : Answers s (execCoolantRead reading s) :=
  answers_next fun h => by simp [h]
theorem execTelemetry_answers (entry : Fin 4096) : Answers s (execTelemetry entry s) := answers_next fun h => by
  split
  · exact h
  · extract_lets late; split
    · exact State.fireEntry_memWf h fun _ _ _ ht => ht
    · split <;> rename_i hx <;> have written := wf_of_eq hx (State.vwrite_memWf h ..)
      · exact written
      all_goals exact State.fireEntry_memWf written fun _ _ _ ht => ht

/-! The Solstice path at work. -/

theorem execSlotSend_answers (point : Fin 4096) : Answers s (execSlotSend point s) := answers_next fun h => by
  split
  · exact h
  · extract_lets t
    have sent : memWf t.mem.bytes = true := by
      simp only [t]; refine foldl_memWf (fun u g hu => ?_) _ h
      exact State.sendGroup_memWf hu g _
    split
    · refine foldl_memWf (fun u g hu => ?_) _ sent
      exact State.fallBack_memWf hu g _
    · exact sent

theorem execSlotHeaderReceive_answers (source : Fin 4096) (header : BitVec 512) (units : List (BitVec 512)) :
    Answers s (execSlotHeaderReceive source header units s) :=
  answers_next fun h => by
    repeat' split
    all_goals simp [h]

theorem execUnitLand_answers (core : Fin 576) (g : Fin 4) (stream : BitVec 16) : Answers s (execUnitLand core g stream s) :=
  answers_next fun h => by
    split
    · extract_lets y done fits z; split
      · exact h
      · exact getD_memWf h fun _ e => State.landUnit_memWf (by simpa using h) e
    · exact h

theorem execUnitOverdue_answers (g : Fin 4) (point : Fin 4096) (stream : BitVec 16) : Answers s (execUnitOverdue g point stream s) :=
  answers_next fun h => by split <;> simp [h]
theorem execEpoch_answers (entry : Fin 4096) : Answers s (execEpoch entry s) :=
  answers_next fun h => State.fireEntry_memWf h fun t e late ht => by
    extract_lets now
    refine foldl_memWf (fun u g hu => ?_) _ ht
    extract_lets x v x' w y
    have begun : memWf v.mem.bytes = true := by
      simp only [v]; repeat' split
      all_goals simp [hu]
    have paced : memWf w.mem.bytes = true := by
      simp only [w]; repeat' split
      all_goals simp [begun]
    split
    · exact hu
    · split <;> simp [paced]

theorem execPaceRecord_answers (g : Fin 4) : Answers s (execPaceRecord g s) := answers_next fun h => by split <;> simp [h]
theorem execPaceDecisionMissing_answers (g : Fin 4) : Answers s (execPaceDecisionMissing g s) := answers_next fun h => by simp [h]

/-! Loading and stopping schedules. -/

theorem execSchedLoad_answers (fn : Fin 16) (ring : Fin 4) (index : BitVec 32) : Answers s (execSchedLoad fn ring index s) :=
  answers_next fun h => State.startCmd_memWf h fun t c ht => by
    repeat' split
    all_goals simp_all [eq_mk_iff]

theorem execSchedStop_answers (fn : Fin 16) (ring : Fin 4) (index : BitVec 32) : Answers s (execSchedStop fn ring index s) :=
  answers_next fun h => State.startCmd_memWf h fun t c ht => by
    dsimp only; repeat' split
    all_goals simp [ht]

/-! Joining a job. -/

theorem execJoin_answers (fn : Fin 16) (ring : Fin 4) (index : BitVec 32) : Answers s (execJoin fn ring index s) :=
  answers_next fun h => State.startCmd_memWf h fun t c ht => by
    dsimp only; repeat' split
    all_goals simp [ht]

theorem execHello_answers (g : Fin 4) (device : BitVec 16) (digest : BitVec 256) : Answers s (execHello g device digest s) :=
  answers_next fun h => by split <;> simp [h]
theorem execReply_answers (g : Fin 4) (t2 t3 : BitVec 64) : Answers s (execReply g t2 t3 s) :=
  answers_next fun h => by split <;> simp [h]
theorem execTime_answers (g : Fin 4) (device : BitVec 16) (offset : Int) (tod : Bool) : Answers s (execTime g device offset tod s) :=
  answers_next fun h => by
    repeat' split
    all_goals simp [h]

theorem execGo_answers (g : Fin 4) (outcome : JoinOutcome) : Answers s (execGo g outcome s) := answers_next fun h => by
  repeat' split
  all_goals simp [h]

theorem execJoinT0_answers (g : Fin 4) : Answers s (execJoinT0 g s) := answers_next fun h => by
  repeat' split
  all_goals simp [h]

theorem execJoinTimeout_answers (g : Fin 4) : Answers s (execJoinTimeout g s) := answers_next fun h => by
  repeat' split
  all_goals simp [h]

/-! The partner sites. -/

theorem execPartnerAdmission_answers (site : Fin 2) (training : SiteTraining) (record : List (BitVec 8)) :
    Answers s (execPartnerAdmission site training record s) :=
  answers_next fun h => by
    dsimp only; repeat' split
    all_goals simp [h]

theorem execPartnerInboundRequest_answers (site : Fin 2) (op : Option SiteOp) (aop : AtomOp) (addr : BitVec 48)
    (len : Nat) (data : List (BitVec 8)) (compare : BitVec 64) :
    Answers s (execPartnerInboundRequest site op aop addr len data compare s) :=
  by
  unfold execPartnerInboundRequest; extract_lets x
  refine answers_next fun h => ?_
  split
  · exact h
  · split
    · simp [h]
    · split
      · simp [h]
      next o =>
        extract_lets q; split
        · exact h
        · split
          · simp [h]
          · extract_lets c q' hold; split
            · simp [h]
            · split
              · simp [h]
              · split
                · simp [h]
                · split <;> rename_i hx <;> have placed := wf_of_eq hx (State.placesOf_memWf h ..)
                  · exact placed
                  · simp [placed]
                  · simp [placed]
                  · have hold_wf {t : State} (ht : memWf t.mem.bytes = true) : memWf (hold t).mem.bytes = true := by simpa [hold] using ht
                    split
                    · exact hold_wf placed
                    · split <;> rename_i passed
                      · exact State.passSite_some_memWf placed passed
                      · exact hold_wf (wf_of_eq passed (State.passSite_memWf placed ..))

theorem execFirewallBucketPass_answers (site : Fin 2) : Answers s (execFirewallBucketPass site s) := answers_next fun h => by
  split
  · exact h
  · split
    · exact h
    · split <;> rename_i passed
      · simpa using State.passSite_some_memWf h passed
      · exact wf_of_eq passed (State.passSite_memWf h ..)

theorem execPartnerTimeout_answers (site : Fin 2) : Answers s (execPartnerTimeout site s) := answers_next fun h => by
  dsimp only; repeat' split
  all_goals simp_all [eq_mk_iff]

theorem execPartnerLinkFailure_answers (site : Fin 2) : Answers s (execPartnerLinkFailure site s) := answers_next fun h => by simp [h]

/-! Reference time and idle states. -/

theorem execSourceReject_answers (input : TimeInput) (cause : RejectCause) (measured : Nat) :
    Answers s (execSourceReject input cause measured s) :=
  answers_next fun h => by simp [h]
theorem execSourceRequalify_answers (input : TimeInput) : Answers s (execSourceRequalify input s) := answers_next fun h => by simp [h]
theorem execTimeLock_answers (offset : Int) (rate : Int) : Answers s (execTimeLock offset rate s) := answers_next fun h => by simp [h]
theorem execRefPpsPulse_answers : Answers s (execRefPpsPulse s) := by
  unfold execRefPpsPulse
  obtain ⟨second, hsecond⟩ : ∃ n, 10 ^ 9 = n := ⟨_, rfl⟩
  rw [hsecond]
  refine answers_next fun h => ?_
  split
  · exact h
  · extract_lets t bad near
    have pulse : memWf t.mem.bytes = true := by simpa [t] using h
    clear_value t bad
    split
    · simp [pulse]
    · split
      · extract_lets u; split
        · exact foldl_memWf (fun _ _ hu => State.finish_memWf hu ..) _ (by simpa [u] using pulse)
        · exact pulse
      · split <;> simp [pulse]

theorem execRefFrameEdge_answers : Answers s (execRefFrameEdge s) := answers_next fun h => by simp [h]
theorem execSynthesisedFrameEdge_answers : Answers s (execSynthesisedFrameEdge s) := answers_next fun h => by simp [h]
theorem execSync_answers (port : Fin 18) (received : Bool) : Answers s (execSync port received s) := answers_next fun h => by simp [h]
theorem execFollowUp_answers (port : Fin 18) (received : Bool) (origin : Nat) : Answers s (execFollowUp port received origin s) :=
  answers_next fun h => by
    repeat' split
    all_goals simp [h]

theorem execPdelayReq_answers (port : Fin 18) (received : Bool) : Answers s (execPdelayReq port received s) :=
  answers_next fun h => by simp [h]
theorem execPdelayResp_answers (port : Fin 18) (t2 t3 : Nat) : Answers s (execPdelayResp port t2 t3 s) :=
  answers_next fun h => by split <;> simp [h]
theorem execPtmResponse_answers (hostTime : Nat) : Answers s (execPtmResponse hostTime s) := answers_next fun h => by simp [h]
theorem execDeadline_answers (entry : Fin 4096) : Answers s (execDeadline entry s) :=
  answers_next fun h => State.fireEntry_memWf h fun t e late ht => by
    split <;> simp [ht]

theorem execLowPower_answers (entry : Fin 4096) : Answers s (execLowPower entry s) :=
  answers_next fun h => State.fireEntry_memWf h fun t e late ht => by simp [ht]
theorem execHeartbeat_answers (entry : Fin 4096) : Answers s (execHeartbeat entry s) :=
  answers_next fun h => State.fireEntry_memWf h fun t e late ht => by simp [ht]
theorem execWake_answers (entry : Fin 4096) : Answers s (execWake entry s) :=
  answers_next fun h => State.fireEntry_memWf h fun t e late ht => by simp [ht]
theorem execIdleEntry_answers : Answers s (execIdleEntry s) := answers_next fun h => by
  repeat' split
  all_goals simp_all [eq_mk_iff]

theorem execWakeStart_answers : Answers s (execWakeStart s) := answers_next fun h => by simp [h]
theorem execWakeEnd_answers : Answers s (execWakeEnd s) := answers_next fun h => by split <;> simp [h]
theorem execTimeConfig_answers (fn : Fin 16) (ring : Fin 4) (index : BitVec 32) : Answers s (execTimeConfig fn ring index s) :=
  answers_next fun h => State.startCmd_memWf h fun t c ht => by simp [ht]
theorem execTimeSet_answers (fn : Fin 16) (ring : Fin 4) (index : BitVec 32) : Answers s (execTimeSet fn ring index s) :=
  answers_next fun h => State.startCmd_memWf h fun t c ht => by simp [ht]

/-! Power-up and boot. -/

theorem execBoot_answers (inputs : BootInputs) : Answers s (execBoot inputs s) := answers_next fun h => by split <;> simp [h]
theorem execPowerUp_answers : Answers s (execPowerUp s) := answers_next fun h => by simp [h]

/-! The fabric. -/

theorem execFabricFlitReceive_answers (port : Fin 18) (flit : BitVec 2144) (corrected : Nat) :
    Answers s (execFabricFlitReceive port flit corrected s) :=
  answers_next fun h => by simp [h]
theorem execFabricNak_answers (port : Fin 18) (ack : BitVec 16) : Answers s (execFabricNak port ack s) :=
  answers_next fun h => by simp [h]
theorem execFabricPortPersistentFault_answers (port : Fin 18) (lanes : BitVec 4) :
    Answers s (execFabricPortPersistentFault port lanes s) :=
  answers_next fun h => by simp [h]
theorem execForward_answers (port : Fin 18) (header : BitVec 512) (data : List (BitVec 8)) : Answers s (execForward port header data s) :=
  answers_next fun h => by simp [h]
theorem execRead_answers (port : Fin 18) (header : BitVec 512) (data : List (BitVec 8)) : Answers s (execRead port header data s) :=
  answers_next fun h => by simp [h]
theorem execWrite_answers (port : Fin 18) (header : BitVec 512) (data : List (BitVec 8)) : Answers s (execWrite port header data s) :=
  answers_next fun h => by simp [h]
theorem execRemoteAtomic_answers (port : Fin 18) (header : BitVec 512) (data : List (BitVec 8)) :
    Answers s (execRemoteAtomic port header data s) :=
  answers_next fun h => by simp [h]
theorem execReduce_answers (port : Fin 18) (header : BitVec 512) (data : List (BitVec 8)) : Answers s (execReduce port header data s) :=
  answers_next fun h => by simp [h]
theorem execCounterAdd_answers (port : Fin 18) (header : BitVec 512) (data : List (BitVec 8)) :
    Answers s (execCounterAdd port header data s) :=
  answers_next fun h => by simp [h]
theorem execData_answers (port : Fin 18) (header : BitVec 512) (data : List (BitVec 8)) : Answers s (execData port header data s) :=
  answers_next fun h => State.response_memWf h fun t o ht => by simp [ht]
theorem execRemoteComp_answers (port : Fin 18) (header : BitVec 512) (data : List (BitVec 8)) :
    Answers s (execRemoteComp port header data s) :=
  answers_next fun h => State.response_memWf h fun t o ht => by simp [ht]
theorem execError_answers (port : Fin 18) (header : BitVec 512) (data : List (BitVec 8)) : Answers s (execError port header data s) :=
  answers_next fun h => State.response_memWf h fun t o ht => by
    extract_lets st; split
    · simp [ht]
    · split
      · exact foldl_memWf (fun _ _ hu => State.finish_memWf hu ..) _ ht
      · exact ht

theorem execRemoteRequestTimeout_answers (tag : BitVec 14) : Answers s (execRemoteRequestTimeout tag s) :=
  answers_next fun h => by split <;> simp [h]
theorem execEquinoxCreditReturn_answers (port : Fin 18) (channel : Fin 8) (set : Bool) (units : Nat) :
    Answers s (execEquinoxCreditReturn port channel set units s) :=
  answers_next fun h => by simp [h]

/-! The coherence messages. -/

theorem execRdOnce_answers (requester : Fin 2329) (line : BitVec 42) (off : Fin 64) (len : Nat) (ctx : BitVec 8)
    (part : BitVec 4) (device : BitVec 16) (lastUse : Bool) :
    Answers s (execRdOnce requester line off len ctx part device lastUse s) :=
  answers_onLine fun a h => by
    extract_lets r; split
    · exact h
    · exact State.request_memWf h fun _ _ _ ht e => State.accept_memWf ht e

theorem execRdShared_answers (requester : Fin 2329) (line : BitVec 42) (ctx : BitVec 8) (part : BitVec 4)
    (device : BitVec 16) (lastUse : Bool) :
    Answers s (execRdShared requester line ctx part device lastUse s) :=
  answers_onLine fun a h => by
    extract_lets r; split
    · exact h
    · exact State.request_memWf h fun _ _ _ ht e => State.accept_map_memWf ht (fun _ => by simp) e

theorem execRdUnique_answers (requester : Fin 2329) (line : BitVec 42) (ctx : BitVec 8) (part : BitVec 4) (device : BitVec 16) :
    Answers s (execRdUnique requester line ctx part device s) :=
  answers_onLine fun a h => by simp [h]
theorem execUpgrade_answers (requester : Fin 2329) (line : BitVec 42) (ctx : BitVec 8) (part : BitVec 4) (device : BitVec 16) :
    Answers s (execUpgrade requester line ctx part device s) :=
  answers_onLine fun a h => by simp [h]
theorem execWrThrough_answers (requester : Fin 2329) (line : BitVec 42) (ctx : BitVec 8) (part : BitVec 4)
    (device : BitVec 16) (lastUse : Bool) :
    Answers s (execWrThrough requester line ctx part device lastUse s) :=
  answers_onLine fun a h => by split <;> simp [h]
theorem execWrInv_answers (requester : Fin 2329) (line : BitVec 42) (ctx : BitVec 8) (part : BitVec 4) (device : BitVec 16) :
    Answers s (execWrInv requester line ctx part device s) :=
  answers_onLine fun a h => by simp [h]
theorem execAtomic_answers (requester : Fin 2329) (line : BitVec 42) (op : AtomOp) (off : Fin 64) (len : Nat)
    (operand : BitVec 512) (compare : BitVec 64) (ctx : BitVec 8) (part : BitVec 4) (device : BitVec 16) (lastUse : Bool) :
    Answers s (execAtomic requester line op off len operand compare ctx part device lastUse s) :=
  answers_onLine fun a h => by
    extract_lets size fits r; split
    · exact State.request_memWf h fun _ _ _ ht e => State.accept_map_memWf ht (fun _ => by split <;> simp) e
    · exact h

theorem execWrBack_answers (agent : Fin 582) (line : BitVec 42) : Answers s (execWrBack agent line s) := answers_onLine fun a h => by
  extract_lets n x r owns snooped
  split
  · simp [h]
  · split
    · simp [h]
    · split
      · exact h
      · split
        · simp [h]
        · split
          · exact h
          · refine State.arrive_memWf h fun force t u ht e => ?_
            split at e
            · split at e <;> cases e
              simp [ht]
            · cases e; exact ht

theorem execEvict_answers (agent : Fin 582) (line : BitVec 42) : Answers s (execEvict agent line s) := answers_onLine fun a h => by
  extract_lets n x snooped r t
  have ht : memWf t.mem.bytes = true := by
    simp only [t]; split <;> simp [h]
  split
  · simp [h]
  · split
    · simp [h]
    · split
      · exact h
      · split
        · simp [ht]
        · split
          · split <;> simp [ht]
          · extract_lets; split <;> simp [ht]

theorem execSnpInv_answers (agent : Fin 582) (line : BitVec 42) : Answers s (execSnpInv agent line s) :=
  answers_onLine fun a h => by simp [h]
theorem execSnpShare_answers (agent : Fin 582) (line : BitVec 42) : Answers s (execSnpShare agent line s) :=
  answers_onLine fun a h => by simp [h]
theorem execSnpRecall_answers (agent : Fin 582) (line : BitVec 42) : Answers s (execSnpRecall agent line s) :=
  answers_onLine fun a h => by simp [h]
theorem execInvAck_answers (agent : Fin 582) (line : BitVec 42) : Answers s (execInvAck agent line s) := answers_onLine fun a h => by
  split
  next m t taken => exact State.ackInv_memWf (by rw [State.takeMsg_bytes taken]; exact h) _ _ _
  next => split <;> simp [h]

theorem execSnpAck_answers (agent : Fin 582) (line : BitVec 42) : Answers s (execSnpAck agent line s) :=
  answers_onLine fun a h => by simp [h]
theorem execSnpAckWb_answers (agent : Fin 582) (line : BitVec 42) : Answers s (execSnpAckWb agent line s) :=
  answers_onLine fun a h => by simp [h]
theorem execSnpData_answers (agent : Fin 582) (line : BitVec 42) (data : BitVec 512) : Answers s (execSnpData agent line data s) :=
  answers_onLine fun a h => by simp [h]
theorem execHoldEnd_answers (agent : Fin 582) (line : BitVec 42) : Answers s (execHoldEnd agent line s) := answers_onLine fun a h => by
  dsimp only; repeat' split
  all_goals simp [h]

theorem execComp_answers (id : Nat) : Answers s (execComp id s) := answers_next fun h => by
  split
  next w _ =>
    extract_lets rest cache t u
    have hu : memWf u.mem.bytes = true := by
      simp only [u]; split
      · split <;> split <;> simp [t, h]
      · exact h
    split
    · split
      · simp [hu]
      · split <;> simp [hu]
    · exact hu
  · refine foldl_memWf (fun t k ht => ?_) _ h
    extract_lets x; split <;> simp [ht]

theorem execInvDone_answers (id : Nat) : Answers s (execInvDone id s) := answers_next fun h => by simp [h]
theorem execDataS_answers (requester : Fin 2329) (line : BitVec 42) : Answers s (execDataS requester line s) :=
  answers_onLine fun a h => by
    split
    · exact h
    next m t taken =>
      have ht : memWf t.mem.bytes = true := by rw [State.takeMsg_bytes taken]; exact h
      split
      · extract_lets n c late x l1 u
        have hu : memWf u.mem.bytes = true := by simpa [u] using ht
        refine State.takeReread_memWf hu ?_
        split <;> simp [hu]
      · split <;> simp [ht]

theorem execDataE_answers (agent : Fin 582) (line : BitVec 42) : Answers s (execDataE agent line s) := answers_onLine fun a h => by
  split
  · exact h
  next m t taken => simp [State.takeMsg_bytes taken, h]

theorem execRdData_answers (requester : Fin 2329) (line : BitVec 42) (data : BitVec 512) : Answers s (execRdData requester line data s) :=
  answers_next fun h => by
    split
    next m t taken =>
      have ht : memWf t.mem.bytes = true := by rw [State.takeMsg_bytes taken]; exact h
      exact State.takeReread_memWf ht ht
    · refine foldl_memWf (fun t k ht => ?_) _ h
      extract_lets x; split <;> simp [ht]

theorem execWrData_answers (requester : Fin 2329) (line : BitVec 42) (data : BitVec 512) (mask : BitVec 64) :
    Answers s (execWrData requester line data mask s) :=
  answers_onLine fun a h => by
    extract_lets n sl from_ x back
    clear_value back
    split
    · extract_lets t u
      have hu : memWf u.mem.bytes = true := by
        simp only [u]; split <;> simp [t, h]
      simp [hu]
    · split
      next q _ =>
        exact getD_memWf h fun _ e => State.accept_memWf (by simpa using h) e
      · split <;> simp [h]

theorem execRetry_answers (slice : Fin 256) (requester : Fin 2329) : Answers s (execRetry slice requester s) :=
  answers_next fun h => by simp [h]
theorem execCredit_answers (slice : Fin 256) : Answers s (execCredit slice s) := answers_next fun h => by split <;> simp [h]
theorem execFault_answers (requester : Fin 2329) (line : BitVec 42) : Answers s (execFault requester line s) := answers_next fun h => by
  split
  · exact h
  next m t taken =>
    have ht : memWf t.mem.bytes = true := by rw [State.takeMsg_bytes taken]; exact h
    split <;> simp [ht]

theorem execSnoopTimeout_answers (agent : Fin 582) (line : BitVec 42) : Answers s (execSnoopTimeout agent line s) :=
  answers_onLine fun a h => by simp [h]
theorem execDataTimeout_answers (requester : Fin 2329) (line : BitVec 42) : Answers s (execDataTimeout requester line s) :=
  answers_onLine fun a h => by
    dsimp only; repeat' split
    all_goals simp [h]

theorem execCreditTimeout_answers (slice : Fin 256) (requester : Fin 2329) : Answers s (execCreditTimeout slice requester s) :=
  answers_next fun h => by split <;> simp [h]

/-! Cache and memory events. -/

theorem execFillLanded_answers (line : BitVec 42) (first second : List (Fin 72 × BitVec 8)) :
    Answers s (execFillLanded line first second s) :=
  answers_next fun h => by
    split
    · exact h
    · split
      · exact h
      · extract_lets tag
        split <;> rename_i hx <;> have read := wf_of_eq hx (State.chanRead_memWf h ..)
        · extract_lets t
          exact State.unpark_memWf (State.acceptAll_memWf (by simpa [t] using read) _) _
        · extract_lets t
          exact State.unpark_memWf (by simpa [t] using read) _

theorem execPinRelease_answers (line : BitVec 42) : Answers s (execPinRelease line s) := answers_next fun h => by split <;> simp [h]
theorem execMemoryControllerReduction_answers (line : BitVec 42) : Answers s (execMemoryControllerReduction line s) :=
  answers_next fun h => by
    repeat' split
    all_goals simp_all [eq_mk_iff]

theorem execPatrolScrub_answers (chan : Fin 256) (first second : List (Fin 72 × BitVec 8)) :
    Answers s (execPatrolScrub chan first second s) :=
  answers_next fun h => by
    dsimp only; repeat' split
    all_goals simp_all [eq_mk_iff]

theorem execRefreshReport_answers (chan : Fin 256) (report : Fin 4) : Answers s (execRefreshReport chan report s) :=
  answers_next fun h => by simp [h]
theorem execDqsTracking_answers (chan : Fin 256) (drift : Int) : Answers s (execDqsTracking chan drift s) :=
  answers_next fun h => by simp [h]
theorem execSelfRefreshEntry_answers : Answers s (execSelfRefreshEntry s) := answers_next fun h => by
  split
  · rw [State.moveChans_bytes _ (by decide)]; exact h
  · exact h

theorem execSelfRefreshExit_answers : Answers s (execSelfRefreshExit s) := answers_next fun h => by
  split
  · rw [State.moveChans_bytes _ (by decide)]; exact h
  · exact h

/-! The host's accesses. -/

theorem execHostRingTail_answers (fn : Fin 16) (ring : Fin 4) (value : BitVec 32) : Answers s (execHostRingTail fn ring value s) :=
  answers_next fun h => by simp [h]
theorem execHostRingCtrl_answers (fn : Fin 16) (ring : Fin 4) (value : BitVec 32) : Answers s (execHostRingCtrl fn ring value s) :=
  answers_next fun h => by simp [h]
theorem execPacketTake_answers (fn : Fin 16) (ring : Fin 4) (packet : Option Line) : Answers s (execPacketTake fn ring packet s) :=
  answers_next fun h => by
    repeat' split
    all_goals simp [h]

theorem execPacketReadTimeout_answers (fn : Fin 16) (ring : Fin 4) : Answers s (execPacketReadTimeout fn ring s) :=
  answers_next fun h => by simp [h]
theorem execBar2Write_answers (fn : Fin 16) (offset : BitVec 36) (bytes : List (BitVec 8)) :
    Answers s (execBar2Write fn offset bytes s) :=
  answers_next fun h => by
    dsimp only; repeat' split
    all_goals simp_all [eq_mk_iff]

theorem execBar2Read_answers (fn : Fin 16) (offset : BitVec 36) (len : Fin 4097) : Answers s (execBar2Read fn offset len s) :=
  answers_next fun h => by
    repeat' split
    all_goals simp_all [eq_mk_iff]

theorem execLatchedRead_answers (fn : Fin 16) (offset : BitVec 24) (wide : Bool) : Answers s (execLatchedRead fn offset wide s) :=
  answers_next fun h => by simp [h]
theorem execRegisterWrite_answers (fn : Fin 16) (offset : BitVec 24) (value : BitVec 64) (wide : Bool) :
    Answers s (execRegisterWrite fn offset value wide s) :=
  answers_next fun h => by simp [h]

/-! Die links. -/

theorem execDieLinkFlitReceive_answers (link : Fin 10) (dir : Bool) (flit : BitVec 1088) :
    Answers s (execDieLinkFlitReceive link dir flit s) :=
  answers_next fun h => by simp [h]
theorem execDieLinkNak_answers (link : Fin 10) (dir : Bool) (ack : BitVec 10) : Answers s (execDieLinkNak link dir ack s) :=
  answers_next fun h => by simp [h]
theorem execDieLinkPersistentFault_answers (link : Fin 8) (dir : Bool) (failed first : BitVec 10) :
    Answers s (execDieLinkPersistentFault link dir failed first s) :=
  answers_next fun h => by simp [h]
theorem execD2dInject_answers (fn : Fin 16) (value : BitVec 32) : Answers s (execD2dInject fn value s) :=
  answers_next fun h => by simp [h]
theorem execLaneLockLoss_answers (link : Fin 28) : Answers s (execLaneLockLoss link s) := answers_next fun h => by simp [h]

/-! Recoveries. -/

theorem execMidwinterHang_answers : Answers s (execMidwinterHang s) := answers_next fun h => by simp [h]
theorem execForceHang_answers (fn : Fin 16) (value : BitVec 32) : Answers s (execForceHang fn value s) :=
  answers_next fun h => by simp [h]
theorem execComputePartReset_answers (bist : List (Fin 48 × BitVec 13)) : Answers s (execComputePartReset bist s) :=
  answers_next fun h => by
    repeat' split
    all_goals simp [h]

theorem execResetOverrun_answers : Answers s (execResetOverrun s) := answers_next fun h => by simp [h]
theorem execFullRecovery_answers (inputs : RecoveryInputs) : Answers s (execFullRecovery inputs s) := answers_next fun h => by
  repeat' split
  all_goals simp [h]

theorem execRecoveryOverrun_answers : Answers s (execRecoveryOverrun s) := answers_next fun h => by simp [h]
theorem execFaultNotice_answers (notice : BitVec 512) : Answers s (execFaultNotice notice s) := answers_next fun h => by
  split
  · exact h
  · split
    · exact h
    · extract_lets x t mine u y v
      have ht : memWf t.mem.bytes = true := by
        simp only [t]; split <;> simp [h]
      have hu : memWf u.mem.bytes = true := foldl_memWf (fun _ _ hw => State.cancel_memWf hw ..) _ ht
      simp [v, hu]

/-! Segments, partitions and sites. -/

theorem execSegMap_answers (fn : Fin 16) (ring : Fin 4) (index : BitVec 32) : Answers s (execSegMap fn ring index s) :=
  answers_next fun h => State.startCmd_memWf h fun t c ht => by
    dsimp only; repeat' split
    all_goals simp [ht]

theorem execSegUnmap_answers (fn : Fin 16) (ring : Fin 4) (index : BitVec 32) : Answers s (execSegUnmap fn ring index s) :=
  answers_next fun h => State.startCmd_memWf h fun t c ht => by
    dsimp only; repeat' split
    all_goals simp [ht]

theorem execPartConfig_answers (fn : Fin 16) (ring : Fin 4) (index : BitVec 32) : Answers s (execPartConfig fn ring index s) :=
  answers_next fun h => State.startCmd_memWf h fun t c ht => by
    extract_lets p seal_ old new
    have fenced : memWf (if seal_ then t.fenceSites else (true, t)).2.mem.bytes = true := by
      split <;> simp [ht]
    split <;> rename_i hx <;> have ok := wf_of_eq hx fenced
    · simp [ok]
    · split <;> rename_i hy <;> have purged := wf_of_eq hy (State.purge_memWf ok ..)
      · simp [purged]
      · simp [purged]

theorem execFwRules_answers (fn : Fin 16) (ring : Fin 4) (index : BitVec 32) (host : List (BitVec 8)) :
    Answers s (execFwRules fn ring index host s) :=
  answers_next fun h => State.startCmd_memWf h fun t c ht => by
    extract_lets k first n got
    have read : memWf got.2.mem.bytes = true := by
      simp only [got]; split
      · exact State.vread_memWf ht ..
      · exact ht
    clear_value got
    split <;> have ok := read
    · simp [ok]
    · extract_lets x rules y; split <;> simp [ok]

theorem execSiteReset_answers (fn : Fin 16) (ring : Fin 4) (index : BitVec 32) : Answers s (execSiteReset fn ring index s) :=
  answers_next fun h => State.startCmd_memWf h fun t c ht => by
    dsimp only; repeat' split
    all_goals simp [ht]

theorem execAttest_answers (fn : Fin 16) (ring : Fin 4) (index : BitVec 32) : Answers s (execAttest fn ring index s) :=
  answers_next fun h => State.startCmd_memWf h fun t c ht => by
    dsimp only; repeat' split
    all_goals simp_all [eq_mk_iff]

theorem execReset_answers (fn : Fin 16) (ring : Fin 4) (index : BitVec 32) : Answers s (execReset fn ring index s) :=
  answers_next fun h => State.startCmd_memWf h fun t c ht => by simp [ht]

/-! Supplies and pins. -/

theorem execVinMainSag_answers (level : BitVec 8) : Answers s (execVinMainSag level s) := answers_next fun h => by simp [h]
theorem execVinMainReturn_answers (level : BitVec 8) : Answers s (execVinMainReturn level s) := answers_next fun h => by simp [h]
theorem execVinMainLoss_answers (level : BitVec 8) : Answers s (execVinMainLoss level s) := answers_next fun h => by split <;> simp [h]
theorem execVinAuxChange_answers (level : BitVec 8) : Answers s (execVinAuxChange level s) := answers_next fun h => by simp [h]
theorem execPwrOkFall_answers (held : Nat) : Answers s (execPwrOkFall held s) := answers_next fun h => by
  dsimp only; repeat' split
  all_goals simp [h]

theorem execPwrOkRise_answers : Answers s (execPwrOkRise s) := answers_next fun h => by simp [h]
theorem execResetNLow_answers (held : Nat) : Answers s (execResetNLow held s) := answers_next fun h => by
  split
  · exact h
  · split
    · simp [h]
    · split
      · simp [h]
      · refine foldl_memWf (fun t fn ht => ?_) _ (by simpa using h)
        exact State.resetFn_memWf ht fn

theorem execResetNRise_answers : Answers s (execResetNRise s) := answers_next fun h => by simp [h]
theorem execRefclkLoss_answers : Answers s (execRefclkLoss s) := answers_next fun h => by simp [h]
theorem execRefclkReturn_answers : Answers s (execRefclkReturn s) := answers_next fun h => by simp [h]
theorem execEntdaa_answers (address : BitVec 7) : Answers s (execEntdaa address s) := answers_next fun h => by simp [h]
theorem execI3cPrivateWrite_answers (address : BitVec 7) (offset : BitVec 24) : Answers s (execI3cPrivateWrite address offset s) :=
  answers_next fun h => by simp [h]
theorem execI3cPrivateRead_answers (address : BitVec 7) : Answers s (execI3cPrivateRead address s) := answers_next fun h => by simp [h]
theorem execI3cSclTimeout_answers : Answers s (execI3cSclTimeout s) := answers_next fun h => by simp [h]

end Commands

/-- Each row of the command table by its own lemma. -/
theorem exec_answers (s : State) : ∀ i, Answers s (exec i s)
  | .nop core q => execNop_answers core q
  | .endQueue core q => execEndQueue_answers core q
  | .signal core q => execSignal_answers core q
  | .signalPerform core qs => execSignalPerform_answers core qs
  | .wait core q => execWait_answers core q
  | .waitmem core q => execWaitmem_answers core q
  | .waitmemNotice core q => execWaitmemNotice_answers core q
  | .waitTimeout core q => execWaitTimeout_answers core q
  | .queueDeadlock core => execQueueDeadlock_answers core
  | .fence core q => execFence_answers core q
  | .loop core q => execLoop_answers core q
  | .granuleFetch core q => execGranuleFetch_answers core q
  | .issue core cpe => execIssue_answers core cpe
  | .descriptorStart core cpe => execDescriptorStart_answers core cpe
  | .descriptorComplete core cpe index => execDescriptorComplete_answers core cpe index
  | .coreStart core => execCoreStart_answers core
  | .coreEnd core => execCoreEnd_answers core
  | .ldb core => execLdb_answers core
  | .mma core => execMma_answers core
  | .accmode core => execAccmode_answers core
  | .acczero core => execAcczero_answers core
  | .accst core => execAccst_answers core
  | .accld core => execAccld_answers core
  | .ststat core => execStstat_answers core
  | .setlen core => execSetlen_answers core
  | .vxeLd core => execVxeLd_answers core
  | .vxeSt core => execVxeSt_answers core
  | .stslab core => execStslab_answers core
  | .alu core => execAlu_answers core
  | .fma core => execFma_answers core
  | .vxeSel core => execVxeSel_answers core
  | .vxeFunc core => execVxeFunc_answers core
  | .vxeCvt core => execVxeCvt_answers core
  | .red core => execRed_answers core
  | .vstat core => execVstat_answers core
  | .tstart core => execTstart_answers core
  | .tstartGroupsStart core => execTstartGroupsStart_answers core
  | .tstartComplete core index => execTstartComplete_answers core index
  | .threadNop core slot => execThreadNop_answers core slot
  | .exit core slot => execExit_answers core slot
  | .brnz core slot => execBrnz_answers core slot
  | .brz core slot => execBrz_answers core slot
  | .pathRotation core slot => execPathRotation_answers core slot
  | .add core slot => execAdd_answers core slot
  | .sub core slot => execSub_answers core slot
  | .mul core slot => execMul_answers core slot
  | .mulhi core slot => execMulhi_answers core slot
  | .and core slot => execAnd_answers core slot
  | .or core slot => execOr_answers core slot
  | .xor core slot => execXor_answers core slot
  | .shl core slot => execShl_answers core slot
  | .shr core slot => execShr_answers core slot
  | .sra core slot => execSra_answers core slot
  | .slt core slot => execSlt_answers core slot
  | .sltu core slot => execSltu_answers core slot
  | .add64 core slot => execAdd64_answers core slot
  | .addi core slot => execAddi_answers core slot
  | .movi core slot => execMovi_answers core slot
  | .threadSel core slot => execThreadSel_answers core slot
  | .fadd core slot => execFadd_answers core slot
  | .fsub core slot => execFsub_answers core slot
  | .fmul core slot => execFmul_answers core slot
  | .ffma core slot => execFfma_answers core slot
  | .fmin core slot => execFmin_answers core slot
  | .fmax core slot => execFmax_answers core slot
  | .fslt core slot => execFslt_answers core slot
  | .fseq core slot => execFseq_answers core slot
  | .threadCvt core slot => execThreadCvt_answers core slot
  | .threadFunc core slot => execThreadFunc_answers core slot
  | .threadLd core slot => execThreadLd_answers core slot
  | .threadSt core slot => execThreadSt_answers core slot
  | .aadd core slot => execAadd_answers core slot
  | .amin core slot => execAmin_answers core slot
  | .amax core slot => execAmax_answers core slot
  | .aexch core slot => execAexch_answers core slot
  | .acas core slot => execAcas_answers core slot
  | .afadd core slot => execAfadd_answers core slot
  | .threadFence core slot => execThreadFence_answers core slot
  | .vote core slot => execVote_answers core slot
  | .shfl core slot => execShfl_answers core slot
  | .bar core slot => execBar_answers core slot
  | .barRelease core index => execBarRelease_answers core index
  | .grpmul core slot => execGrpmul_answers core slot
  | .storeBufferDrain core index => execStoreBufferDrain_answers core index
  | .invalidationApply core => execInvalidationApply_answers core
  | .rdOnce requester line off len ctx part device lastUse => execRdOnce_answers requester line off len ctx part device lastUse
  | .rdShared requester line ctx part device lastUse => execRdShared_answers requester line ctx part device lastUse
  | .rdUnique requester line ctx part device => execRdUnique_answers requester line ctx part device
  | .upgrade requester line ctx part device => execUpgrade_answers requester line ctx part device
  | .wrThrough requester line ctx part device lastUse => execWrThrough_answers requester line ctx part device lastUse
  | .wrInv requester line ctx part device => execWrInv_answers requester line ctx part device
  | .atomic requester line op off len operand compare ctx part device lastUse => execAtomic_answers ..
  | .wrBack agent line => execWrBack_answers agent line
  | .evict agent line => execEvict_answers agent line
  | .snpInv agent line => execSnpInv_answers agent line
  | .snpShare agent line => execSnpShare_answers agent line
  | .snpRecall agent line => execSnpRecall_answers agent line
  | .comp id => execComp_answers id
  | .invDone id => execInvDone_answers id
  | .retry slice requester => execRetry_answers slice requester
  | .credit slice => execCredit_answers slice
  | .invAck agent line => execInvAck_answers agent line
  | .snpAck agent line => execSnpAck_answers agent line
  | .snpAckWb agent line => execSnpAckWb_answers agent line
  | .fault requester line => execFault_answers requester line
  | .dataS requester line => execDataS_answers requester line
  | .dataE agent line => execDataE_answers agent line
  | .snpData agent line data => execSnpData_answers agent line data
  | .wrData requester line data mask => execWrData_answers requester line data mask
  | .rdData requester line data => execRdData_answers requester line data
  | .holdEnd agent line => execHoldEnd_answers agent line
  | .fillLanded line first second => execFillLanded_answers line first second
  | .pinRelease line => execPinRelease_answers line
  | .memoryControllerReduction line => execMemoryControllerReduction_answers line
  | .snoopTimeout agent line => execSnoopTimeout_answers agent line
  | .dataTimeout requester line => execDataTimeout_answers requester line
  | .creditTimeout slice requester => execCreditTimeout_answers slice requester
  | .patrolScrub chan first second => execPatrolScrub_answers chan first second
  | .refreshReport chan report => execRefreshReport_answers chan report
  | .dqsTracking chan drift => execDqsTracking_answers chan drift
  | .selfRefreshEntry => execSelfRefreshEntry_answers
  | .selfRefreshExit => execSelfRefreshExit_answers
  | .dieLinkFlitReceive link dir flit => execDieLinkFlitReceive_answers link dir flit
  | .dieLinkNak link dir ack => execDieLinkNak_answers link dir ack
  | .dieLinkPersistentFault link dir failed first => execDieLinkPersistentFault_answers link dir failed first
  | .d2dInject fn value => execD2dInject_answers fn value
  | .partnerAdmission site training record => execPartnerAdmission_answers site training record
  | .partnerInboundRequest site op aop addr len data compare => execPartnerInboundRequest_answers site op aop addr len data compare
  | .firewallBucketPass site => execFirewallBucketPass_answers site
  | .partnerTimeout site => execPartnerTimeout_answers site
  | .partnerLinkFailure site => execPartnerLinkFailure_answers site
  | .sourceReject input cause measured => execSourceReject_answers input cause measured
  | .sourceRequalify input => execSourceRequalify_answers input
  | .timeLock offset rate => execTimeLock_answers offset rate
  | .refPpsPulse => execRefPpsPulse_answers
  | .refFrameEdge => execRefFrameEdge_answers
  | .synthesisedFrameEdge => execSynthesisedFrameEdge_answers
  | .sync port received => execSync_answers port received
  | .followUp port received origin => execFollowUp_answers port received origin
  | .pdelayReq port received => execPdelayReq_answers port received
  | .pdelayResp port t2 t3 => execPdelayResp_answers port t2 t3
  | .epoch entry => execEpoch_answers entry
  | .phaseFire entry => execPhaseFire_answers entry
  | .deadline entry => execDeadline_answers entry
  | .lowPower entry => execLowPower_answers entry
  | .telemetry entry => execTelemetry_answers entry
  | .heartbeat entry => execHeartbeat_answers entry
  | .wake entry => execWake_answers entry
  | .idleEntry => execIdleEntry_answers
  | .wakeStart => execWakeStart_answers
  | .fabricFlitReceive port flit corrected => execFabricFlitReceive_answers port flit corrected
  | .fabricNak port ack => execFabricNak_answers port ack
  | .fabricPortPersistentFault port lanes => execFabricPortPersistentFault_answers port lanes
  | .laneLockLoss link => execLaneLockLoss_answers link
  | .forward port header data => execForward_answers port header data
  | .read port header data => execRead_answers port header data
  | .write port header data => execWrite_answers port header data
  | .remoteAtomic port header data => execRemoteAtomic_answers port header data
  | .reduce port header data => execReduce_answers port header data
  | .counterAdd port header data => execCounterAdd_answers port header data
  | .data port header data => execData_answers port header data
  | .remoteComp port header data => execRemoteComp_answers port header data
  | .error port header data => execError_answers port header data
  | .remoteRequestTimeout tag => execRemoteRequestTimeout_answers tag
  | .slotSend point => execSlotSend_answers point
  | .slotHeaderReceive source header units => execSlotHeaderReceive_answers source header units
  | .unitLand core g stream => execUnitLand_answers core g stream
  | .unitOverdue g point stream => execUnitOverdue_answers g point stream
  | .paceRecord g => execPaceRecord_answers g
  | .paceDecisionMissing g => execPaceDecisionMissing_answers g
  | .hello g device digest => execHello_answers g device digest
  | .reply g t2 t3 => execReply_answers g t2 t3
  | .time g device offset tod => execTime_answers g device offset tod
  | .go g outcome => execGo_answers g outcome
  | .joinT0 g => execJoinT0_answers g
  | .joinTimeout g => execJoinTimeout_answers g
  | .equinoxCreditReturn port channel set units => execEquinoxCreditReturn_answers port channel set units
  | .hostRingTail fn ring value => execHostRingTail_answers fn ring value
  | .hostRingCtrl fn ring value => execHostRingCtrl_answers fn ring value
  | .packetTake fn ring packet => execPacketTake_answers fn ring packet
  | .cmdNop fn ring index => execCmdNop_answers fn ring index
  | .query fn ring index => execQuery_answers fn ring index
  | .phase fn ring index => execPhase_answers fn ring index
  | .calArm fn ring index => execCalArm_answers fn ring index
  | .calCancel fn ring index => execCalCancel_answers fn ring index
  | .attest fn ring index => execAttest_answers fn ring index
  | .ctxCreate fn ring index => execCtxCreate_answers fn ring index
  | .ctxAttr fn ring index => execCtxAttr_answers fn ring index
  | .ctxDestroy fn ring index => execCtxDestroy_answers fn ring index
  | .aperture fn ring index => execAperture_answers fn ring index
  | .launch fn ring index => execLaunch_answers fn ring index
  | .abort fn ring index => execAbort_answers fn ring index
  | .segMap fn ring index => execSegMap_answers fn ring index
  | .segUnmap fn ring index => execSegUnmap_answers fn ring index
  | .schedLoad fn ring index => execSchedLoad_answers fn ring index
  | .schedStop fn ring index => execSchedStop_answers fn ring index
  | .join fn ring index => execJoin_answers fn ring index
  | .partConfig fn ring index => execPartConfig_answers fn ring index
  | .fwRules fn ring index host => execFwRules_answers fn ring index host
  | .siteReset fn ring index => execSiteReset_answers fn ring index
  | .timeConfig fn ring index => execTimeConfig_answers fn ring index
  | .timeSet fn ring index => execTimeSet_answers fn ring index
  | .idleConfig fn ring index => execIdleConfig_answers fn ring index
  | .reset fn ring index => execReset_answers fn ring index
  | .schedulerDecision core => execSchedulerDecision_answers core
  | .preemption core => execPreemption_answers core
  | .deadlineEvaluation fn ring index => execDeadlineEvaluation_answers fn ring index
  | .runLimitExpiry fn ring index => execRunLimitExpiry_answers fn ring index
  | .teardown ctx => execTeardown_answers ctx
  | .estimateWindow temps millivolts => execEstimateWindow_answers temps millivolts
  | .calibration die measured => execCalibration_answers die measured
  | .droopDetect die => execDroopDetect_answers die
  | .cappingLoopStep power tj die => execCappingLoopStep_answers power tj die
  | .hot => execHot_answers
  | .hotClear => execHotClear_answers
  | .thermalTrip sensor reading => execThermalTrip_answers sensor reading
  | .coolantRead reading => execCoolantRead_answers reading
  | .sealBreachClear => execSealBreachClear_answers
  | .midwinterHang => execMidwinterHang_answers
  | .forceHang fn value => execForceHang_answers fn value
  | .computePartReset bist => execComputePartReset_answers bist
  | .resetOverrun => execResetOverrun_answers
  | .fullRecovery inputs => execFullRecovery_answers inputs
  | .recoveryOverrun => execRecoveryOverrun_answers
  | .faultNotice notice => execFaultNotice_answers notice
  | .powerUp => execPowerUp_answers
  | .boot inputs => execBoot_answers inputs
  | .vinMainSag level => execVinMainSag_answers level
  | .vinMainReturn level => execVinMainReturn_answers level
  | .vinMainLoss level => execVinMainLoss_answers level
  | .pwrOkFall held => execPwrOkFall_answers held
  | .pwrOkRise => execPwrOkRise_answers
  | .resetNLow held => execResetNLow_answers held
  | .refclkLoss => execRefclkLoss_answers
  | .functionLevelReset fn => execFunctionLevelReset_answers fn
  | .bar2Write fn offset bytes => execBar2Write_answers fn offset bytes
  | .bar2Read fn offset len => execBar2Read_answers fn offset len
  | .latchedRead fn offset wide => execLatchedRead_answers fn offset wide
  | .registerWrite fn offset value wide => execRegisterWrite_answers fn offset value wide
  | .i3cPrivateWrite address offset => execI3cPrivateWrite_answers address offset
  | .i3cPrivateRead address => execI3cPrivateRead_answers address
  | .instructionCompletion core q index => execInstructionCompletion_answers core q index
  | .phaseExpiry => execPhaseExpiry_answers
  | .wakeEnd => execWakeEnd_answers
  | .refclkReturn => execRefclkReturn_answers
  | .resetNRise => execResetNRise_answers
  | .vinAuxChange level => execVinAuxChange_answers level
  | .ptmResponse hostTime => execPtmResponse_answers hostTime
  | .entdaa address => execEntdaa_answers address
  | .i3cSclTimeout => execI3cSclTimeout_answers
  | .packetReadTimeout fn ring => execPacketReadTimeout_answers fn ring

/-- Settles O59: what `Answers` says of a next state is left aside here. -/
theorem everyCommandAnswers : Obligations.EveryCommandAnswers := by
  unfold Obligations.EveryCommandAnswers
  intro c s
  have answered := exec_answers s c
  cases e : exec c s with
  | next t => exact .inl ⟨t, rfl⟩
  | fault f =>
    rw [e] at answered
    obtain ⟨line, beyond, rfl⟩ := answered
    exact .inr ⟨line, beyond, rfl⟩
  | refused r =>
    rw [e] at answered
    exact answered.elim

/-- Settles O60: a step idles, which moves time alone, or performs the command at the front. -/
theorem stepKeepsMemoryCanonical : Obligations.StepKeepsMemoryCanonical := by
  unfold Obligations.StepKeepsMemoryCanonical State.memoryCanonical
  intro s t h e
  unfold step at e
  cases hp : s.pending with
  | nil =>
    rw [hp] at e
    cases e
    exact State.tick_memWf h
  | cons c rest =>
    have answered := exec_answers { s with pending := rest } c
    rw [hp] at e
    dsimp only at e
    rw [e] at answered
    exact answered h

end Sys2Proof.Machine
end

section
/-! PROOFS. Coherence: writes, write-backs and evictions at the home, snoops and their answers, what a message of a home does when it
arrives, and the silences that take the domain down. -/

namespace Sys2Proof.Machine

/-! Agents and their requester numbers (R211, R225). -/

theorem reqAgent_agentReq {a : Nat} (h : a < 582) : reqAgent (agentReq a) = some a := by
  unfold agentReq
  split
  · have l1 : 4 * a < 2304 := by omega
    simp [reqAgent, l1]
  · split
    · have hub : ¬ a - 576 + 2304 < 2304 ∧ a - 576 + 2304 < 2308 := by omega
      simp only [reqAgent, hub, if_true, if_false]
      congr 1; omega
    · have named : a = 580 ∨ a = 581 := by omega
      rcases named with rfl | rfl <;> rfl

/-- An L1 is an agent that the device admits (R229). -/
theorem State.admits_l1 (s : State) {a : Nat} (h : a < 576) : s.admits a = true := by
  simp [State.admits, show a < 580 by omega]

/-! Writes and their data (R217, R218, R229). -/

/-- A write that nothing holds up is owed its data from now on. -/
theorem State.writeRequest_hit {s : State} {r : Req} {k : Nat} (h : s.homeHit r k) :
    s.writeRequest r = s.modSlice (sliceOf r.line) fun sl => { sl with owedData := sl.owedData ++ [(r, s.now)] } := by
  have idle : (s.slice (sliceOf r.line)).entry? r.line = none := by
    obtain ⟨-, -, -, -, -, -, idle, -⟩ := h; exact idle
  exact State.request_hit h _ (by simp [idle])

/-- The data that a slice is owed is nothing that a request waits for. -/
theorem State.homeHit_owedData {s : State} {r : Req} {k : Nat} (qs : List (Req × Nat)) (h : s.homeHit r k) :
    (s.modSlice (sliceOf r.line) fun sl => { sl with owedData := qs }).homeHit r k := by
  unfold State.homeHit at h ⊢
  rw [State.slice_modSlice]
  exact h

/-- The data of a write that is owed: the write is performed (R217). -/
theorem execWrData_owed {s : State} {q : Fin 2329} {line : BitVec 42} {r : Req} {t : Nat} {data : BitVec 512} {mask : BitVec 64} {k : Nat}
    (hm : inMemory line.toNat = true) (hq : r.requester = q.val) (hl : r.line = line.toNat)
    (ho : (s.slice (sliceOf line.toNat)).owedData = [(r, t)]) (hr : r.reread = false) (hk : r.kind ≠ .upgrade)
    (h : s.homeHit { r with data := data, mask := mask } k) :
    execWrData q line data mask s = .next ((s.modSlice (sliceOf line.toNat) fun sl => { sl with owedData := [] }).servedAt
      { r with data := data, mask := mask } k) := by
  have idle : (s.slice (sliceOf line.toNat)).entry? line.toNat = none := by
    obtain ⟨-, -, -, -, -, -, idle, -⟩ := h; rwa [← hl]
  have hit := State.homeHit_owedData [] h
  have taken := State.accept_hit hit hr
  simp only [hk, false_and, if_false, hl] at taken
  rw [execWrData, onLine_inMemory hm]
  simp [idle, ho, ← hq, hl, taken]

/-- The data of a line that its owner gives back ends the transaction's wait for it (R224). -/
theorem execWrData_back {s : State} {q : Fin 2329} {a : Nat} {line : BitVec 42} {data : BitVec 512} {mask : BitVec 64} {m : MissEntry}
    {t : Txn} (hm : inMemory line.toNat = true) (hq : reqAgent q = some a)
    (he : (s.slice (sliceOf line.toNat)).entry? line.toNat = some m) (ht : m.txn = some t) (hd : t.dataFrom = some a)
    (hk : t.req.kind = .wrBack) :
    execWrData q line data mask s = .next (((s.modSlice (sliceOf line.toNat) fun sl =>
      (sl.setWay m.way ((sl.way m.way).answered a .recall (some data))).setEntry
        { m with txn := some { t with dataFrom := none } }).owesComp t.req {} false).settleTxn line.toNat) := by
  rw [execWrData, onLine_inMemory hm]
  simp [hq, he, ht, hd, hk]

/-! Write-backs and evictions (R216, R218, R224). -/

/-- A WR_BACK of the owner of a line that nothing holds up leaves the line busy until its data comes. -/
theorem execWrBack_owner {s : State} {a : Fin 582} {line : BitVec 42} {k : Nat} (hm : inMemory line.toNat = true) (ha : 576 ≤ a.val)
    (h : s.homeHit { kind := .wrBack, requester := agentReq a, line := line.toNat } k)
    (hf : s.missFull (sliceOf line.toNat) 0 = false) (howner : (s.agentLine a line.toNat).owner = true)
    (hhold : (s.agentLine a line.toNat).hold = false) (hsnoop : (s.agentLine a line.toNat).snoop = none)
    (hway : s.travels [.snpInv, .snpShare, .snpRecall] a line.toNat = false)
    (hdir : ((s.slice (sliceOf line.toNat)).way k).dir = .e a.val ∨ ((s.slice (sliceOf line.toNat)).way k).dir = .m a.val) :
    let r : Req := { kind := .wrBack, requester := agentReq a, line := line.toNat }
    execWrBack a line s = .next ((s.startTxn (sliceOf line.toNat) line.toNat k { why := .clear, dataFrom := some a.val, req := r } false
      []).setAgentLine a line.toNat { wbSent := true }) := by
  have ⟨hdown, _, _, _, _, _, idle, _, hfind, _, hadmits⟩ := h
  have admitted : s.admits a = true := (hadmits a (reqAgent_agentReq a.isLt)).1
  have outside : ¬ a.val < 576 := by omega
  have hub : reqAgent 2308 = none := rfl
  have owns : foreignOwner ((s.slice (sliceOf line.toNat)).way k)
      { kind := .wrBack, requester := 2308, line := line.toNat } = some a.val := by
    rcases hdir with hdir | hdir <;> simp [foreignOwner, hdir, hub]
  rw [execWrBack, onLine_inMemory hm]
  simp only [hdown, outside, admitted, howner, hhold, hsnoop, hway, hfind, owns, idle, decide_false, BEq.rfl, Bool.not_true,
    Option.isSome_none, Bool.or_false, Bool.false_eq_true, if_false]
  exact congrArg _ (State.arrive_hit h _ (by simp [hfind, hf]))

/-- An EVICT of an L1 that shares the line takes it out of the directory. -/
theorem execEvict_sharer {s : State} {a : Fin 576} {line : BitVec 42} {k : Nat} (hm : inMemory line.toNat = true)
    (hdown : s.cache.coh.down = false) (hon : s.sup.on = true) (hserves : s.serving = true)
    (hhold : (s.agentLine a line.toNat).hold = false) (howner : (s.agentLine a line.toNat).owner = false)
    (hdir : ((s.slice (sliceOf line.toNat)).way k).dir = .s) (hfind : (s.slice (sliceOf line.toNat)).find line.toNat = some k) :
    let w := (s.slice (sliceOf line.toNat)).way k
    let u := s.modCore a fun c => { c with l1 := c.l1.inv line.toNat }
    execEvict (a.castLE (by decide)) line s = .next ((u.setSlice (sliceOf line.toNat) ((u.slice (sliceOf line.toNat)).setWay k { w with
      dir := if (w.sh.drop a).empty then .i else .s, sh := w.sh.drop a })).setAgentLine a line.toNat {}) := by
  intro w u
  have inside : ¬ 576 ≤ a.val := by omega
  rw [execEvict, onLine_inMemory hm]
  simp only [Fin.val_castLE, hdown, s.admits_l1 a.isLt, hhold, hon, hserves, a.isLt, inside]
  simp [hfind, howner, hdir, u, w]

/-- Settles O31: a write that its home can take is owed its data, with which `State.accept_hit` serves it; the owner's WR_BACK starts the
transaction that its data ends. -/
theorem homeTakesWrites : Obligations.HomeTakesWrites := by
  unfold Obligations.HomeTakesWrites
  refine ⟨fun s q line ctx part dev last k hm => ⟨fun hq hit => ?wrThrough, fun hit => ?wrInv,
    fun r t data mask hq hl ho hr hk hit => ?wrData⟩, ?wrBack, ?back, ?evict⟩
  case wrThrough =>
    rw [exec_wrThrough, execWrThrough, onLine_inMemory hm]
    simp only [Option.isNone_eq_false_iff.mpr hq, Bool.false_eq_true, if_false]
    exact congrArg _ (State.writeRequest_hit hit)
  case wrInv =>
    rw [exec_wrInv, execWrInv, onLine_inMemory hm]
    exact congrArg _ (State.writeRequest_hit hit)
  case wrData =>
    have noUpgrade : r.kind ≠ .upgrade := by rcases hk with hk | hk <;> simp [hk]
    exact execWrData_owed hm hq hl ho hr noUpgrade hit
  case wrBack =>
    intro s a line k hm ha n r x hit hf howner hhold hsnoop hway hdir
    exact execWrBack_owner hm ha hit hf howner hhold hsnoop hway hdir
  case back =>
    intro s q a line data mask m t hm hq n he ht hd hk
    exact execWrData_back hm hq he ht hd hk
  case evict =>
    intro s a line k hm n w x hdown hon hserves hhold howner hdir hfind
    exact execEvict_sharer hm hdown hon hserves hhold howner hdir hfind

/-! Snoops arrive (R216, R219, R221). -/

theorem State.takeMsg_core {s t : State} {k : MsgKind} {a l : Nat} {m : Msg} (h : s.takeMsg k a l = some (m, t)) (n : Nat) :
    t.core n = s.core n := by
  rw [State.takeMsg_some h]; rfl

theorem State.takeMsg_mem {s t : State} {k : MsgKind} {a l : Nat} {m : Msg} (h : s.takeMsg k a l = some (m, t)) : t.mem = s.mem := by
  rw [State.takeMsg_some h]

/-- A snoop of an L1 whose queue has a place left enters it and is acknowledged at once. -/
theorem State.snoopArrives_l1 {s t : State} {a line : Nat} {kind : SnoopKind} {m : Msg} (ht : s.takeMsg kind.msg a line = some (m, t))
    (ha : a < 576) (hq : (s.core a).l1.invq.length < 64) :
    let u := s.snoopArrives a line kind
    (u.core a).l1.invq = (s.core a).l1.invq ++ [(line, m.req.id)] ∧
      u.cache.msgs = t.cache.msgs ++ [{ kind := .invAck, dest := a, line := line, req := m.req }] ∧
      (u.core a).l1.lines = (s.core a).l1.lines ∧ u.mem = s.mem := by
  have roomy : ¬ 64 ≤ (s.core a).l1.invq.length := by omega
  simp [State.snoopArrives, ht, ha, roomy, State.takeMsg_core ht, State.takeMsg_mem ht]

/-- A snoop of an agent outside that has no grant on its way and no other snoop waits for the agent's answer. -/
theorem State.snoopArrives_agent {s t : State} {a line : Nat} {kind : SnoopKind} {m : Msg} (ht : s.takeMsg kind.msg a line = some (m, t))
    (ha : 576 ≤ a) (hE : s.travels [.dataE] a line = false) (hS : s.travels [.dataS] (agentReq a) line = false)
    (hw : ∀ w ∈ s.cache.writes, w.grants = false) (hx : (s.agentLine a line).snoop = none) :
    s.snoopArrives a line kind
      = t.setAgentLine a line { s.agentLine a line with snoop := some (kind, m.req.id), since := s.now } := by
  have outside : ¬ a < 576 := by omega
  have ungranted : (s.cache.writes.any fun w => w.grants && !w.comp && w.line == line && w.requester == agentReq a) = false := by
    simp only [List.any_eq_false]
    intro w h
    simp [hw w h]
  simp only [State.snoopArrives, ht, outside, hE, hS, ungranted, hx]
  rfl

/-! Answers to snoops (R218 to R220, R223, R224). -/

/-- An acknowledgement that no transaction on its line waits for counts for its write. -/
theorem State.ackInv_idle {s : State} (a : Nat) {line : Nat} (id : Nat) (h : (s.slice (sliceOf line)).entry? line = none) :
    s.ackInv a line id = s.ackWrite a id := by
  simp [State.ackInv, h]

/-- A write that still waits has one agent fewer to wait for. -/
theorem State.ackWrite_acks {s : State} {a id : Nat} {w : WriteRec} (h : w ∈ (s.ackWrite a id).cache.writes) (hw : w.id = id) :
    ∃ v ∈ s.cache.writes, v.id = id ∧ w.acks = v.acks.erase a := by
  obtain ⟨v, hv, rfl⟩ := List.mem_map.mp (List.mem_filter.mp h).1
  by_cases hid : v.id = id
  · exact ⟨v, hv, hid, by simp [hid]⟩
  · simp [hid] at hw

/-- An agent may answer a snoop of a kind, which a transaction on the line has sent. -/
structure State.Answering (s : State) (a line : Nat) (kind : SnoopKind) (m : MissEntry) (t : Txn) : Prop where
  on : s.sup.on = true
  serves : s.serving = true
  admitted : s.admits a = true
  notInv : kind ≠ .inv
  snoop : (s.agentLine a line).snoop = some (kind, t.id)
  free : (s.agentLine a line).hold = false
  kept : (s.agentLine a line).evSent = false
  stays : t.why ≠ .drop
  entry : (s.slice (sliceOf line)).entry? line = some m
  txn : m.txn = some t

section Answer
variable {s : State} {a line : Nat} {kind : SnoopKind} {m : MissEntry} {t : Txn} (h : s.Answering a line kind m t)
include h

/-- An answer, with data or without, is counted, and its data is the line's (R218, R219). -/
theorem State.snoopAnswer_counts (data : Option Line) : s.snoopAnswer a line data false =
    ((s.setAgentLine a line (if kind = .share && ((s.agentLine a line).owner || data.isSome) then
      { data := data.getD (s.agentLine a line).data } else {})).modSlice (sliceOf line) fun sl =>
        (sl.setWay m.way ((sl.way m.way).answered a kind data)).setEntry
          { m with txn := some { t with owed := t.owed.filter fun o => o.1 != a, since := s.now } }).settleTxn line := by
  obtain ⟨on, serves, admitted, notInv, snoop, free, kept, stays, entry, txn⟩ := h
  have notInv : (kind == .inv) = false := by simpa using notInv
  simp [State.snoopAnswer, on, serves, admitted, notInv, snoop, free, kept, stays, entry, txn]

/-- The word that a WR_BACK is on its way is counted, and its data is owed (R224). -/
theorem State.snoopAnswer_awaits : s.snoopAnswer a line none true =
    ((s.setAgentLine a line { wbSent := true }).modSlice (sliceOf line) fun sl =>
      sl.setEntry { m with txn := some { t with
        owed := t.owed.filter fun o => o.1 != a, dataFrom := some a, since := s.now } }).settleTxn line := by
  obtain ⟨on, serves, admitted, notInv, snoop, free, kept, stays, entry, txn⟩ := h
  simp [State.snoopAnswer, on, serves, admitted, snoop, free, entry, txn]

end Answer

/-- Settles O32: `State.snoopArrives` by the place a snoop reaches, `State.ackInv` and `State.snoopAnswer` by what waits for the answer. -/
theorem snoopsAreAnswered : Obligations.SnoopsAreAnswered := by
  unfold Obligations.SnoopsAreAnswered
  refine ⟨?arrive, ?invAck, ?acks, ?answer⟩
  case arrive =>
    intro s a line m t hm arrives
    have arrived (i : Instr) (kind : SnoopKind) (hi : exec i s = onLine line fun l => s.snoopArrives a l kind) : arrives i kind := by
      rw [onLine_inMemory hm] at hi
      intro ht
      refine ⟨fun ha hq => ⟨_, hi, State.snoopArrives_l1 ht ha hq⟩, fun ha hE hS hw hx => ?_⟩
      rw [hi, State.snoopArrives_agent ht ha hE hS hw hx]
    exact ⟨arrived _ _ (exec_snpInv a line s), arrived _ _ (exec_snpShare a line s), arrived _ _ (exec_snpRecall a line s)⟩
  case invAck =>
    intro s a line m t hm ht
    rw [exec_invAck, execInvAck, onLine_inMemory hm]
    simp [ht]
  case acks =>
    intro s a line id h
    exact ⟨_, State.ackInv_idle a id h, rfl, rfl, fun w hw hid => State.ackWrite_acks hw hid⟩
  case answer =>
    intro s a line data kind id m t hm hon hserves hadm hkind n x hx hhold hev hwhy he ht hid owed
    subst hid
    have answers : s.Answering a line.toNat kind m t := ⟨hon, hserves, hadm, hkind, hx, hhold, hev, hwhy, he, ht⟩
    refine ⟨?_, ?_, ?_⟩
    · rw [exec_snpAck, execSnpAck, onLine_inMemory hm, State.snoopAnswer_counts answers]
      simp only [Option.isSome_none, Bool.or_false, Bool.and_eq_true, decide_eq_true_eq]
      rfl
    · rw [exec_snpData, execSnpData, onLine_inMemory hm, State.snoopAnswer_counts answers]
      simp only [Option.isSome_some, Bool.or_true, Bool.and_true, decide_eq_true_eq]
      rfl
    · rw [exec_snpAckWb, execSnpAckWb, onLine_inMemory hm, State.snoopAnswer_awaits answers]

/-! Responses and data of the home arrive (R217, R220, R222, R223, R226, R230). -/

@[simp] theorem State.takeFlags_mem (s : State) (n k : Nat) (f : RedFlags) : (s.takeFlags n k f).mem = s.mem := by
  unfold State.takeFlags State.faultCtx; dsimp only; split <;> simp

@[simp] theorem State.takeFlags_cache (s : State) (n k : Nat) (f : RedFlags) : (s.takeFlags n k f).cache = s.cache := by
  unfold State.takeFlags State.faultCtx; dsimp only; split <;> simp

/-- The data of a request that re-reads no dead line is taken (R197). -/
theorem State.takeReread_fresh (s : State) {r : Req} (h : r.reread = false) (ok : State) : s.takeReread r ok = ok := by
  unfold State.takeReread; split <;> simp [h]

/-- What a COMP leaves of the list of writes: its own record waits on for INV_DONE if it has sent invalidations. -/
def completed (w : WriteRec) (ws : List WriteRec) : List WriteRec :=
  ws.filterMap fun x => if x.id = w.id then (if w.snooped then some { x with comp := true } else none) else some x

/-- The requester's side of a COMP: the flags of a reduction go to its CPE. -/
def State.takeComp (s : State) (w : WriteRec) : State :=
  match w.core with
  | some n => if w.queue = 3 || w.queue == 4 then s.takeFlags n (w.queue - 3) w.flags else s
  | none => s

theorem State.takeComp_same (s : State) (w : WriteRec) : (s.takeComp w).mem = s.mem ∧ (s.takeComp w).cache = s.cache := by
  unfold State.takeComp; split
  · split <;> simp
  · exact ⟨rfl, rfl⟩

theorem State.takeComp_core (s : State) {w : WriteRec} {n : Nat} (hn : w.core = some n) (h3 : w.queue ≠ 3) (h4 : w.queue ≠ 4) :
    (s.takeComp w).core n = s.core n := by
  simp [State.takeComp, hn, h3, h4]

/-- A COMP of a write that waits for nothing else, to a requester that is no agent. -/
theorem execComp_plain {s : State} {w : WriteRec} (hw : s.cache.writes = [w]) (ha : w.acks = []) (hc : w.comp = false)
    (hs : w.silent = false) (hr : w.reread = false) (hq : reqAgent w.requester = none) :
    execComp w.id s = .next ({ s with cache := { s.cache with writes := completed w s.cache.writes } }.takeComp w) := by
  have found : (s.cache.writes.find? fun x => x.id == w.id && x.acks.isEmpty && !x.comp && !x.silent) = some w := by
    simp [hw, ha, hc, hs]
  simp only [execComp, found, hr, hq, Bool.false_and, Bool.false_eq_true, if_false]
  rfl

/-- Without requests of other devices a COMP or INV_DONE ends none of them. -/
theorem State.compInbound_idle {s : State} (h : s.fab.inbound = []) :
    s.compInbound = { s with fab := { s.fab with inbound := [] } } := by
  simp [State.compInbound, h]

/-- An INV_DONE that every L1 has applied ends the record of its request (R220). -/
theorem execInvDone_applied {s : State} {id : Nat} (hq : ∀ p ∈ s.cores, ∀ e ∈ p.2.l1.invq, e.2 ≠ id) (hi : s.fab.inbound = []) :
    execInvDone id s = .next { s with
      cache := { s.cache with writes := s.cache.writes.filter fun w => !(w.id == id && w.comp && w.snooped) }
      fab := { s.fab with inbound := [] } } := by
  have applied : ¬ (s.cores.any fun p => p.2.l1.invq.any fun e => e.2 == id) = true := by
    simp only [List.any_eq_true, beq_iff_eq, not_exists, not_and]
    exact hq
  simp only [execInvDone, applied]
  exact congrArg _ (State.compInbound_idle hi)

/-- DATA_S reaches an L1: it is awaited no longer, and fills the L1 unless an invalidation has overtaken it or the kernel has ended. -/
theorem execDataS_l1 {s t : State} {q : Fin 2329} {line : BitVec 42} {m : Msg} (hm : inMemory line.toNat = true) (hq : q.val < 2304)
    (ht : s.takeMsg .dataS q line.toNat = some (m, t)) (hr : m.req.reread = false) :
    let c := t.core (q.val / 4)
    let l1 := { c.l1 with awaited := c.l1.awaited.erase line.toNat, overtaken := c.l1.overtaken.erase line.toNat }
    ∃ u, execDataS q line s = .next u ∧ (u.core (q.val / 4)).l1 =
      if c.l1.overtaken.contains line.toNat || !c.running then l1 else l1.fill c.l1Units.toNat line.toNat m.data := by
  intro c l1
  rw [execDataS, onLine_inMemory hm]
  simp only [ht, hq, if_true, State.takeReread_fresh _ hr]
  refine ⟨_, rfl, ?_⟩
  split
  · rw [State.core_setCore]
  · rw [State.core_setCore]

/-- At the end of a hold the owner of a line that nothing waits for has written it, or has not, by a free choice (R223). -/
theorem execHoldEnd_owner {s : State} {a : Fin 582} {line : BitVec 42} {k : Nat} (hm : inMemory line.toNat = true)
    (hx : (s.agentLine a line.toNat).hold = true) (hf : (s.slice (sliceOf line.toNat)).find line.toNat = some k)
    (he : (s.slice (sliceOf line.toNat)).entry? line.toNat = none) (hd : ((s.slice (sliceOf line.toNat)).way k).dir = .e a.val) :
    let u := s.setAgentLine a line.toNat { s.agentLine a line.toNat with hold := false, since := s.now }
    execHoldEnd a line s = .next (if Config.pick s.free % 2 = 0 then { u with free := s.free + 1 }
      else { u with free := s.free + 1 }.setSlice (sliceOf line.toNat) ((s.slice (sliceOf line.toNat)).setWay k
        { (s.slice (sliceOf line.toNat)).way k with dir := .m a.val })) := by
  rw [execHoldEnd, onLine_inMemory hm]
  simp [hx, hf, he, hd, State.choose]
  rfl

/-- A CREDIT goes to the head of the queue as capacity frees. -/
theorem execCredit_head {s : State} {k : Fin 256} {r : Req} {rest : List Req} (hq : (s.slice k).retry = r :: rest)
    (hf : s.missFull k r.tag.part = false) (ht : s.travels [.retry] r.requester r.line = false) :
    execCredit k s = .next (s.setSlice k { s.slice k with retry := rest, credited := (s.slice k).credited ++ [(r, s.now)] }) := by
  simp [execCredit, hq, hf, ht]

/-- FAULT stops the core that waits (R230). -/
theorem execFault_running {s t : State} {q : Fin 2329} {line : BitVec 42} {m : Msg} (hq : q.val < 2304)
    (ht : s.takeMsg .fault q line.toNat = some (m, t)) (hr : (t.core (q.val / 4)).running = true) :
    execFault q line s = .next (t.modCore (q.val / 4) fun c => { c with
      stopped := true, lastStatus := BitVec.ofNat 8 Status.faulted.code
      l1 := { c.l1 with awaited := c.l1.awaited.erase line.toNat } }) := by
  simp [execFault, ht, hq, hr]

/-- Settles O33: each message is found on its way, and its row does with it what the lemma of its case says. -/
theorem responsesArrive : Obligations.ResponsesArrive := by
  unfold Obligations.ResponsesArrive
  refine ⟨?comp, ?invDone, ?dataS, ?dataE, ?holdEnd, ?rdData, ?retry, ?credit, ?fault⟩
  case comp =>
    intro s w hw ha hc hs _ hr hq
    have ⟨mem, cache⟩ := State.takeComp_same { s with cache := { s.cache with writes := completed w s.cache.writes } } w
    refine ⟨_, (exec_comp w.id s).trans (execComp_plain hw ha hc hs hr hq), ?_, mem, ?_, fun n hn h3 h4 => ?_⟩
    · rw [cache, hw]
      by_cases snooped : w.snooped <;> simp [completed, snooped]
    · rw [cache]
    · exact State.takeComp_core _ hn h3 h4
  case invDone =>
    intro s id hq hi
    exact ⟨_, (exec_invDone id s).trans (execInvDone_applied hq hi), rfl, rfl, rfl⟩
  case dataS =>
    intro s q line m t hm hq ht hr
    exact execDataS_l1 hm hq ht hr
  case dataE =>
    intro s a line m t hm ht
    rw [exec_dataE, execDataE, onLine_inMemory hm, ht]
  case holdEnd =>
    intro s a line k hm n x u hx hf he hd
    exact execHoldEnd_owner hm hx hf he hd
  case rdData =>
    intro s q line data m t ht hr
    rw [exec_rdData, execRdData, ht]
    exact congrArg _ (State.takeReread_fresh t hr t)
  case retry =>
    intro s k q
    exact ⟨_, exec_retry k q s, rfl, rfl⟩
  case credit =>
    intro s k r rest hq hf ht
    refine ⟨_, (exec_credit k s).trans (execCredit_head hq hf ht), ?_⟩
    simp
  case fault =>
    intro s q line m t hq ht hr
    refine ⟨_, (exec_fault q line s).trans (execFault_running hq ht hr), ?_⟩
    rw [State.core_modCore]
    exact ⟨rfl, rfl, rfl⟩

/-! The silences that take the domain down (R229, R230). -/

/-- The first failure is named, every request outstanding is refused, and a fault of class 2 arises. -/
theorem State.cohDown_arises {s : State} (cause agent line : Nat) (isReq : Bool) (tag : Option Tag) (h : s.cache.coh.down = false) :
    let c : Coh := { down := true, cause := BitVec.ofNat 3 cause, agent := BitVec.ofNat 10 agent, slice := BitVec.ofNat 8 (sliceOf line)
                     ctx := BitVec.ofNat 8 (tag.getD {}).ctx, isReq := isReq
                     requester := if isReq then BitVec.ofNat 12 agent else 0, line := BitVec.ofNat 42 line }
    ∃ (u : State) (r : FaultRec), s.cohDown cause agent isReq line tag = u.arise 2 r ∧ u.cache.coh = c ∧ u.mem = s.mem ∧
      u.log = s.log ∧ u.recov = s.recov := by
  intro c
  obtain ⟨mem, coh, log, recov, -⟩ := State.refuseEach_same s.cache.slices { s with cache := { s.cache with coh := c } }
  unfold State.cohDown
  rw [if_neg (by simp [h])]
  exact ⟨_, _, rfl, coh, mem, log, recov⟩

theorem State.cohDown_first {s : State} (cause agent line : Nat) (isReq : Bool) (tag : Option Tag) (h : s.cache.coh.down = false) :
    let t := s.cohDown cause agent isReq line tag
    t.cache.coh.down = true ∧ t.cache.coh.cause = BitVec.ofNat 3 cause ∧ t.cache.coh.agent = BitVec.ofNat 10 agent ∧
      t.cache.coh.line = BitVec.ofNat 42 line ∧ t.mem = s.mem ∧ t.log.next = s.log.next + 1 ∧
      (s.recov.state = 0 → s.recov.due < 2 → t.recov.due = 2) := by
  obtain ⟨u, r, e, coh, mem, log, recov⟩ := State.cohDown_arises cause agent line isReq tag h
  simp only [e, State.arise_cache, coh, State.arise_mem, mem, State.arise_next, log, true_and]
  exact fun hs hd => State.arise_due r (recov ▸ hs) (recov ▸ hd)

/-- Settles O34: each silence is found overdue, and `State.cohDown_first` says what taking the domain down leaves. -/
theorem silenceTakesTheDomainDown : Obligations.SilenceTakesTheDomainDown := by
  unfold Obligations.SilenceTakesTheDomainDown
  refine ⟨?snoop, ?data, ?credit, fun s cause agent line isReq tag h => State.cohDown_first cause agent line isReq tag h⟩
  case snoop =>
    intro s a line hm x hs hh hd
    rw [exec_snoopTimeout, execSnoopTimeout, onLine_inMemory hm]
    simp [x, hs, hh, hd]
  case data =>
    intro s q line r t hm he ho hq hl hd
    rw [exec_dataTimeout, execDataTimeout, onLine_inMemory hm]
    simp [he, ho, hq, hl, hd]
  case credit =>
    intro s k q r t hc hq hd
    rw [exec_creditTimeout, execCreditTimeout]
    simp [hc, hq, hd]

end Sys2Proof.Machine
end

section
/-! SUPPORT. The half-line code and a line written to its channel (R239, R242): one equation for each count of wrong symbols that R239
bounds, the error pattern and the channel that State.chanWrite leaves; the theorem that settles O35. -/

namespace Sys2Proof.Machine

/-! The decoder of a half line, by the number of wrong symbols (R239). -/

theorem decodeHalf_clean {e : ErrPat} {half : Nat} (good k : Nat) (h : (errHalf e half).length = 0) :
    decodeHalf good e half k = ⟨good, 0⟩ := by
  simp only [decodeHalf, if_pos h]

theorem decodeHalf_corrects {e : ErrPat} {half : Nat} (good k : Nat) (h : (errHalf e half).length = 1) :
    decodeHalf good e half k = ⟨good, 1⟩ := by
  have wrong : (errHalf e half).length ≠ 0 := by omega
  simp only [decodeHalf, if_neg wrong, if_pos h]

theorem decodeHalf_detects {e : ErrPat} {half : Nat} (good k : Nat) (h : 1 < (errHalf e half).length)
    (bounded : (errHalf e half).length < 4) : decodeHalf good e half k = ⟨good, 2⟩ := by
  have wrong : (errHalf e half).length ≠ 0 := by omega
  have several : (errHalf e half).length ≠ 1 := by omega
  simp only [decodeHalf, if_neg wrong, if_neg several, if_pos bounded]

/-! What a line written to its channel leaves (R241, R244). -/

theorem State.chanWrite_errs (s : State) (a : Nat) (l : Line) : (s.chanWrite a l).mem.errs = tabDel s.mem.errs a := by
  simp only [State.chanWrite, State.setChan]

theorem State.chanWrite_chans (s : State) (a : Nat) (l : Line) :
    (s.chanWrite a l).mem.chans
      = tabSet s.mem.chans (sliceOf a) { s.chan (sliceOf a) with writes := (s.chan (sliceOf a)).writes + 1 } := by
  simp only [State.chanWrite, State.setChan]

/-- No symbol of the written line is wrong any more. -/
theorem State.chanWrite_errs_same (s : State) (a : Nat) (l : Line) : tabGet? (s.chanWrite a l).mem.errs a = none := by
  rw [State.chanWrite_errs, tabGet?_tabDel, if_pos rfl]

theorem State.chanWrite_chan_same (s : State) (a : Nat) (l : Line) :
    (s.chanWrite a l).chan (sliceOf a) = { s.chan (sliceOf a) with writes := (s.chan (sliceOf a)).writes + 1 } := by
  rw [State.chan, State.chanWrite_chans, tabGet_tabSet_same]

/-- Settles O35, by the number of wrong symbols in the half and by the fields that a written line changes. -/
theorem eccCorrectsOneSymbol : Obligations.EccCorrectsOneSymbol := by
  unfold Obligations.EccCorrectsOneSymbol
  refine ⟨fun good half k e => ⟨fun h => ?atMostOne, fun h => ?twoOrThree⟩, fun s a l h => ?written⟩
  case atMostOne =>
    rcases Nat.le_one_iff_eq_zero_or_eq_one.mp h with clean | single
    · rw [decodeHalf_clean good k clean, clean]
      exact ⟨rfl, rfl⟩
    · rw [decodeHalf_corrects good k single, single]
      exact ⟨rfl, rfl⟩
  case twoOrThree => rw [decodeHalf_detects good k (by omega) (by omega)]
  case written =>
    exact ⟨State.chanWrite_memLine_same h a l, fun b hb => State.chanWrite_memLine_other h l hb, State.chanWrite_errs_same s a l,
      State.chanWrite_canonical h a l, congrArg Chan.writes (State.chanWrite_chan_same s a l), State.chanWrite_cache s a l⟩

end Sys2Proof.Machine
end

section
/-! PROOFS. What the commands about segments, schedules, partitions, partner sites, time and resets do once they have started: the
statement SegmentScheduleAndPartitionCommands. -/

namespace Sys2Proof.Machine

/-! SEG_UNMAP (R320). -/

/-- A SEG_UNMAP that stands in no list of pending ones has not been taken up before. -/
theorem State.unmapping_none {s : State} {c : Cmd} (h : ∀ m ∈ s.fab.unmaps, m.2 ≠ c.id) : s.unmapping c = none := by
  simpa [State.unmapping] using h

/-- A pending SEG_UNMAP that is entered and taken out again leaves the others. -/
theorem unmaps_entered_left {l : List (Nat × Nat)} {id : Nat} (k : Nat) (h : ∀ m ∈ l, m.2 ≠ id) :
    (l ++ [(k, id)]).filter (fun m => m.2 != id) = l := by
  rw [List.filter_append, List.filter_eq_self.2 (by simpa using h)]
  simp

/-- With no request from outside and none on its way out, a SEG_UNMAP frees its entry and is final at once. -/
theorem execSegUnmap_quiet {s u : State} {f : Fin 16} {r : Fin 4} {i : BitVec 32} {c : Cmd} (h : s.starts f r i.toNat 0x19 segUnmapParams c u)
    (hnew : ∀ m ∈ u.fab.unmaps, m.2 ≠ c.id) (hin : u.fab.inbound = []) (htr : u.fab.tracker = []) :
    exec (.segUnmap f r i) s
      = .next (({ u with fab := { u.fab with segs := tabDel u.fab.segs (c.f 0x0C 4) } } : State).finish c.id .ok) := by
  rw [h.runs (exec_segUnmap f r i s), State.unmapping_none hnew]
  simp [hin, htr, unmaps_entered_left _ hnew]

/-! SCHED_LOAD (R344, R345). -/

/-- The progress of a SCHED_LOAD whose image has been read whole (R377). -/
def State.loadRead (s : State) (c : Cmd) : State :=
  s.modCmd c.id fun y => { y with progress := BitVec.ofNat 32 (c.f 0x18 4), mark := BitVec.ofNat 32 (c.f 0x18 4) }

theorem State.endLoad_loaded {s : State} {c : Cmd} {m : Image} {x : Schedule} {reach : Bool}
    (h : loadChecks (s.loadRead c) c m x (c.f 0x18 4) reach = .ok ()) :
    s.endLoad c m x reach = ((((s.loadRead c).setSched (c.f 0x0C 1) x).extendP x.partition.toNat
      (leBytes 1 (c.f 0x0C 1) ++ x.digest ++ leBytes 8 x.job.toNat)).finish c.id .ok) := by
  unfold State.loadRead at h ⊢
  simp only [State.endLoad, h]

theorem State.endLoad_refused {s : State} {c : Cmd} {m : Image} {x : Schedule} {reach : Bool} {e : Status × Nat}
    (h : loadChecks (s.loadRead c) c m x (c.f 0x18 4) reach = .error e) :
    s.endLoad c m x reach = (s.loadRead c).finish c.id e.1 e.2 := by
  unfold State.loadRead at h ⊢
  simp only [State.endLoad, h]

/-- A SCHED_LOAD whose image is read, has the length that its counts give and translates throughout is decided by the checks of R345. -/
theorem execSchedLoad_reached {s u t v : State} {f : Fin 16} {r : Fin 4} {i : BitVec 32} {c : Cmd} {b : List Byte} {x : Schedule}
    (h : s.starts f r i.toNat 0x1A (fun s c => if (s.ctx c.ctx).state = .free then s.headChecks c 16 else .ok ()) c u)
    (hread : u.vread { u.hdVia c.ctx with checked := true } (c.f 0x10 8) (imageSpan (c.f 0x18 4)) = (.ok b, t))
    (hx : (imageOf b).load (t.sched (c.f 0x0C 1)) = x) (hlen : c.f 0x18 4 = imageLength (imageOf b).head)
    (hreach : State.allReach x.streams t = (.ok (), v)) :
    exec (.schedLoad f r i) s = .next (v.endLoad c (imageOf b) x true) := by
  rw [h.runs (exec_schedLoad f r i s), hread]
  dsimp only
  rw [State.loadImage_reached hx hlen hreach]

/-! SCHED_STOP (R385). -/

/-- What UNLOAD leaves of a schedule index: its counters and SOL_FAULT_g, and the time of its epochs (R385). -/
def Schedule.unloaded (x : Schedule) : Schedule :=
  { lateCount := x.lateCount, overrun := x.overrun, fault := x.fault, t0 := x.t0, epoch := x.epoch }

section SchedStop

variable {s u : State} {f : Fin 16} {r : Fin 4} {i : BitVec 32} {c : Cmd} (h : s.starts f r i.toNat 0x1B stopParams c u)

include h

/-- A schedule in service is halted; without UNLOAD its image stays. -/
theorem execSchedStop_halts (hs : 2 ≤ (u.sched (c.f 0x0C 1)).state.toNat) (hu : (c.f 0x0D 1).testBit 0 = false) :
    exec (.schedStop f r i) s = .next ((u.haltSched (c.f 0x0C 1)).finish c.id .ok) := by
  rw [h.runs (exec_schedStop f r i s)]
  dsimp only
  rw [if_neg (Nat.not_lt.2 hs), hu, if_neg Bool.false_ne_true]

/-- A schedule out of service is unloaded as it stands. -/
theorem execSchedStop_unloads (hs : (u.sched (c.f 0x0C 1)).state.toNat < 2) (hu : (c.f 0x0D 1).testBit 0 = true) :
    exec (.schedStop f r i) s = .next ((u.setSched (c.f 0x0C 1) (u.sched (c.f 0x0C 1)).unloaded).finish c.id .ok) := by
  rw [h.runs (exec_schedStop f r i s)]
  dsimp only
  rw [if_pos hs, if_pos hu]
  rfl

end SchedStop

/-! PART_CONFIG (R383). -/

/-- The cache policy of a partition is what stands in the table of the cache. -/
theorem State.llcPart_set (s : State) (p q : Nat) (x : LlcPart) :
    ({ s with cache := { s.cache with parts := tabSet s.cache.parts p x } } : State).llcPart q = if q = p then x else s.llcPart q := by
  simp only [State.llcPart, tabGet, tabGet?_tabSet, eq_comm (a := q)]
  split <;> rfl

/-- The state of a PART_CONFIG whose flush is complete: the new policy, and the ratios that a seal freezes (R383, R434). -/
def State.partSet (s : State) (c : Cmd) (old new : LlcPart) : State :=
  let p := c.f 0x0C 1
  let s : State := { s with cache := { s.cache with parts := tabSet s.cache.parts p new } }
  let s := s.setPart p { s.part p with sealed := new.sealed, solShare := c.f 0x15 1, powerW := c.f 0x16 2 }
  let frozen := if new.sealed && !old.sealed
    then [0, 1, 2, 3].foldl (fun t d => tabSet t (8 * p + d) (tabGet 0x8000 s.pwr.ratios d)) s.pwr.frozen
    else s.pwr.frozen
  { s with pwr := { s.pwr with frozen := frozen } }

section PartSet

variable (s : State) (c : Cmd) (old new : LlcPart)

theorem State.partSet_llcPart (q : Nat) :
    (s.partSet c old new).llcPart q = if q = c.f 0x0C 1 then new else s.llcPart q :=
  s.llcPart_set (c.f 0x0C 1) q new

theorem State.partSet_part : (s.partSet c old new).part (c.f 0x0C 1)
    = { s.part (c.f 0x0C 1) with sealed := new.sealed, solShare := c.f 0x15 1, powerW := c.f 0x16 2 } :=
  State.part_setPart ..

theorem State.partSet_cores : (s.partSet c old new).cores = s.cores := rfl

theorem State.partSet_mem : (s.partSet c old new).mem = s.mem := rfl

end PartSet

/-- The policy that a PART_CONFIG packet names (R383). -/
def Cmd.partPolicy (c : Cmd) : LlcPart :=
  { sealed := (c.f 0x0D 1).testBit 0, missResv := BitVec.ofNat 3 (c.f 0x14 1), ways := BitVec.ofNat 12 (c.f 0x0E 2)
    cycles := BitVec.ofNat 16 (c.f 0x10 2), windows := BitVec.ofNat 16 (c.f 0x12 2) }

/-- A PART_CONFIG whose sites are fenced and whose flush is complete takes effect. -/
theorem execPartConfig_purged {s u v w : State} {f : Fin 16} {r : Fin 4} {i : BitVec 32} {c : Cmd}
    (h : s.starts f r i.toNat 0x20 partParams c u)
    (hfence : (if (c.f 0x0D 1).testBit 0 then u.fenceSites else (true, u)) = (true, v))
    (hpurge : v.purge (affectedWays (u.llcPart (c.f 0x0C 1)) c.partPolicy) = (true, w)) :
    exec (.partConfig f r i) s = .next (((w.partSet c (u.llcPart (c.f 0x0C 1)) c.partPolicy).extendP (c.f 0x0C 1)
      (leBytes 12 (c.f 0x0C 12))).finish c.id .ok) := by
  rw [h.runs (exec_partConfig f r i s)]
  dsimp only
  rw [hfence]
  dsimp only
  unfold Cmd.partPolicy at hpurge
  rw [hpurge]
  rfl

/-! FW_RULES and SITE_RESET (R274, R384). -/

/-- The rules of its site once those that a FW_RULES takes from host memory stand from FIRST on (R274). -/
def State.rulesWith (s : State) (c : Cmd) (host : List Byte) : Tab (BitVec 256) :=
  (List.range (c.f 0x0F 1)).foldl (fun t j =>
    tabSet t (c.f 0x0E 1 + j) (BitVec.ofNat 256 (byteAt (padTo (32 * c.f 0x0F 1) host) (32 * j) 32))) (s.site (c.f 0x0C 1)).rules

section FwRules

variable {s u : State} {f : Fin 16} {r : Fin 4} {i : BitVec 32} {c : Cmd} {host : List (BitVec 8)}
  (h : s.starts f r i.toNat 0x21 fwParams c u) (hk : c.f 0x0D 1 = 0)

include h hk

/-- Rules of host memory that pass the checks of R274 are loaded, and the number of valid rules is the result. -/
theorem execFwRules_loads (ok : rulesOk (u.rulesWith c host) = true) :
    let y := { (u.site (c.f 0x0C 1)).load (u.rulesWith c host) u.now with fwRun := true }
    exec (.fwRules f r i host) s = .next ((u.setSite (c.f 0x0C 1) y).finish c.id .ok 0 y.validRules) := by
  unfold State.rulesWith at ok ⊢
  simp [h.runs (exec_fwRules f r i host s), hk, ok]

/-- One rule that fails a check refuses them all. -/
theorem execFwRules_refuses (bad : rulesOk (u.rulesWith c host) = false) :
    exec (.fwRules f r i host) s = .next (u.finish c.id .badParam 0xFFFF) := by
  unfold State.rulesWith at bad
  simp [h.runs (exec_fwRules f r i host s), hk, bad, inStructure]

end FwRules

/-- The state of a site that a SITE_RESET has put into training (R384). -/
def Site.training (x : Site) (id : Nat) : Site :=
  { x with outbound := [], held := [], closing := 0, state := .training, reason := 0, rate := 0, modules := 0, powerW := 0, resetBy := id }

section SiteReset

variable {s u : State} {f : Fin 16} {r : Fin 4} {i : BitVec 32} {c : Cmd} (h : s.starts f r i.toNat 0x22 siteResetParams c u)

include h

/-- Taken up again after training, a SITE_RESET is final with the site's word. -/
theorem execSiteReset_ends (hmine : (u.site (c.f 0x0C 1)).resetBy = c.id) (ht : (u.site (c.f 0x0C 1)).state ≠ .training) :
    exec (.siteReset f r i) s = .next ((u.setSite (c.f 0x0C 1) { u.site (c.f 0x0C 1) with resetBy := 0 }).finish c.id .ok 0
      (u.site (c.f 0x0C 1)).word) := by
  rw [h.runs (exec_siteReset f r i s)]
  dsimp only
  rw [if_pos hmine, if_neg ht]

/-- The first time it puts the site and its link into training and waits. -/
theorem execSiteReset_trains (hnew : (u.site (c.f 0x0C 1)).resetBy ≠ c.id) (ho : (u.site (c.f 0x0C 1)).outbound = []) :
    exec (.siteReset f r i) s = .next (((u.setSite (c.f 0x0C 1) ((u.site (c.f 0x0C 1)).training c.id)).setLink (8 + c.f 0x0C 1)
      { state := 1 }).wait c.id) := by
  rw [h.runs (exec_siteReset f r i s)]
  dsimp only
  rw [if_neg hnew, ho]
  rfl

end SiteReset

/-! Commands in hand. -/

/-- A command in hand that has the number of a change is the change of one that was in hand. -/
theorem State.mem_modCmd {s : State} {id : Nat} {g : Cmd → Cmd} {x : Cmd} (hx : x ∈ (s.modCmd id g).cmds) (hi : x.id = id) :
    ∃ y ∈ s.cmds, x = g y := by
  obtain ⟨y, hy, rfl⟩ := List.mem_map.1 hx
  refine ⟨y, hy, if_pos ?_⟩
  split at hi
  · assumption
  · exact hi

/-- Settles O52: each clause is the row's own effect, which the command that has started runs. -/
theorem segmentScheduleAndPartitionCommands : Obligations.SegmentScheduleAndPartitionCommands := by
  unfold Obligations.SegmentScheduleAndPartitionCommands
  intro s u f r i c
  refine ⟨?segMap, ?segUnmap, ?schedLoad, ?schedStop, ?partConfig, ?fwRules, ?siteReset, ?timeConfig, ?timeSet, ?reset⟩
  case segMap =>
    intro h
    rw [h.runs (exec_segMap f r i s)]
    dsimp only
    exact ⟨fun hexport => by rw [if_pos hexport], fun himport => by rw [if_neg himport]⟩
  case segUnmap => exact execSegUnmap_quiet
  case schedLoad =>
    intro h b t v hread m x hlen hreach w
    rw [execSchedLoad_reached h hread rfl hlen hreach]
    exact ⟨fun ok => ⟨congrArg _ (State.endLoad_loaded ok), Image.load_state _ _⟩, fun e he => congrArg _ (State.endLoad_refused he)⟩
  case schedStop =>
    intro h g
    exact ⟨execSchedStop_halts h, fun hs hu => ⟨_, execSchedStop_unloads h hs hu, rfl, rfl, rfl, rfl, rfl⟩⟩
  case partConfig =>
    intro h p sealed new v w hfence hpurge
    have hpart := w.partSet_part c (u.llcPart p) c.partPolicy
    exact ⟨_, execPartConfig_purged h hfence hpurge, (State.partSet_llcPart ..).trans (if_pos rfl),
      fun q hq => (State.partSet_llcPart ..).trans (if_neg hq), congrArg Part.sealed hpart, congrArg Part.solShare hpart,
      congrArg Part.powerW hpart, State.partSet_cores .., State.partSet_mem ..⟩
  case fwRules =>
    intro h host hk k n rules y
    exact ⟨execFwRules_loads h hk, execFwRules_refuses h hk⟩
  case siteReset =>
    intro h k
    refine ⟨execSiteReset_ends h, fun hnew ho => ⟨_, execSiteReset_trains h hnew ho, ?_⟩⟩
    simp [State.wait, Site.training, k]
  case timeConfig => exact fun h => h.runs (exec_timeConfig f r i s)
  case timeSet =>
    intro h
    refine ⟨_, h.runs (exec_timeSet f r i s), rfl, rfl, rfl, fun x hx hi => ?_⟩
    rw [State.modTim_cmds] at hx
    obtain ⟨y, -, rfl⟩ := State.mem_modCmd hx hi
    rfl
  case reset =>
    intro h hstate hdue
    refine ⟨_, h.runs (exec_reset f r i s), State.arise_due _ hstate ?_, State.arise_next .., State.arise_mem .., State.arise_cores ..⟩
    rw [hdue]
    split <;> decide

end Sys2Proof.Machine
end

section
/-! PROOFS. Reference time: the inputs and the source that the unit follows, and its lock. -/

namespace Sys2Proof.Machine

/-! Following a source (R285, R286, R288). -/

theorem Tim.sourceOk_le {t : Tim} {n : Nat} (h : t.sourceOk n = true) : n ≤ 3 := by
  by_contra hn
  have other : n ≠ 1 ∧ n ≠ 2 ∧ n ≠ 3 := by omega
  simp [Tim.sourceOk, other] at h

section Follow
variable (t : Tim)

theorem Tim.bestSource_le : t.bestSource ≤ 3 := by
  unfold Tim.bestSource
  split
  · exact Tim.sourceOk_le ‹_›
  · split
    · exact Tim.sourceOk_le ‹_›
    · omega

/-- A change of source touches the state of the unit, its source, the steering and the slew; all else is kept. -/
theorem Tim.follow_keeps {γ : Type} (p : Tim → γ)
    (h : ∀ state src steer slewing toSlew, p { t with state, src, steer, slewing, toSlew } = p t) : p t.follow = p t := by
  unfold Tim.follow
  dsimp only
  split
  · rfl
  · split <;> exact h ..

@[simp] theorem Tim.follow_now : t.follow.now = t.now := t.follow_keeps Tim.now fun _ _ _ _ _ => rfl
@[simp] theorem Tim.follow_input (i : TimeInput) : t.follow.input i = t.input i := t.follow_keeps (·.input i) fun _ _ _ _ _ => rfl
@[simp] theorem Tim.follow_lastPps : t.follow.lastPps = t.lastPps := t.follow_keeps Tim.lastPps fun _ _ _ _ _ => rfl
@[simp] theorem Tim.follow_rejectCause : t.follow.rejectCause = t.rejectCause := t.follow_keeps Tim.rejectCause fun _ _ _ _ _ => rfl
@[simp] theorem Tim.follow_rejectInput : t.follow.rejectInput = t.rejectInput := t.follow_keeps Tim.rejectInput fun _ _ _ _ _ => rfl
@[simp] theorem Tim.follow_rejects : t.follow.rejects = t.rejects := t.follow_keeps Tim.rejects fun _ _ _ _ _ => rfl
@[simp] theorem Tim.follow_bestSource : t.follow.bestSource = t.bestSource := t.follow_keeps Tim.bestSource fun _ _ _ _ _ => rfl

/-- The best source is the one in use after it. -/
theorem Tim.follow_src : t.follow.src.toNat = t.bestSource := by
  have hle := t.bestSource_le
  unfold Tim.follow
  dsimp only
  split
  · exact Eq.symm ‹_›
  · split
    · simp [*]
    · exact Nat.mod_eq_of_lt (by omega)

/-- A unit that loses its only source holds over. -/
theorem Tim.follow_holdover {t : Tim} (hb : t.bestSource = 0) (hs : t.src.toNat ≠ 0) : t.follow.state = .holdover := by
  unfold Tim.follow
  simp [hb, Ne.symm hs]

end Follow

/-! Inputs that are rejected and accepted (R285). -/

@[simp] theorem Tim.input_setInput (t : Tim) (i : TimeInput) (x : InputState) : (t.setInput i x).input i = x := by
  simp [Tim.input, Tim.setInput]

/-- A qualified input as its rejection leaves it and the record of it, before the unit chooses. -/
def Tim.rejected (t : Tim) (i : TimeInput) (c : RejectCause) : Tim :=
  { t.setInput i { qualified := false, since := t.now.toNat } with
    rejectCause := BitVec.ofNat 4 c.code, rejectInput := BitVec.ofNat 4 i.code
    rejects := if t.rejects = 0xFFF then 0xFFF else t.rejects + 1 }

@[simp] theorem Tim.rejected_input (t : Tim) (i : TimeInput) (c : RejectCause) :
    (t.rejected i c).input i = { qualified := false, since := t.now.toNat } := t.input_setInput i _

/-- Every input but REF_FRAME belongs to a source. -/
theorem TimeInput.source_pos {i : TimeInput} (hi : i ≠ .frame) : 0 < i.source := by
  cases i with
  | frame => exact absurd rfl hi
  | _ => decide

section Reject
variable {t : Tim} {i : TimeInput} {c : RejectCause}

theorem Tim.reject_frame (hq : (t.input .frame).qualified = true) : t.reject .frame c = (t.rejected .frame c).synthesise := by
  simp [Tim.reject, hq, Tim.rejected]

theorem Tim.reject_used (hq : (t.input i).qualified = true) (hi : i ≠ .frame) (hs : i.source = t.src.toNat) :
    t.reject i c = (t.rejected i c).follow := by
  simp [Tim.reject, hq, hi, hs, Tim.rejected]

theorem Tim.reject_unused (hq : (t.input i).qualified = true) (hi : i ≠ .frame) (hs : i.source ≠ t.src.toNat) :
    t.reject i c = t.rejected i c := by
  simp [Tim.reject, hq, hi, hs, Tim.rejected]

theorem Tim.reject_unqualified (hq : (t.input i).qualified = false) :
    t.reject i c = t.setInput i { qualified := false, since := t.now.toNat } := by
  simp [Tim.reject, hq]

/-- What neither the choice of a source nor the synthesis of frame edges changes is as the rejection leaves it. -/
theorem Tim.reject_keeps {γ : Type} (p : Tim → γ) (hfollow : ∀ u, p (Tim.follow u) = p u) (hsynthesise : ∀ u, p (Tim.synthesise u) = p u)
    (hq : (t.input i).qualified = true) : p (t.reject i c) = p (t.rejected i c) := by
  by_cases hi : i = .frame
  · subst hi
    rw [Tim.reject_frame hq, hsynthesise]
  · by_cases hs : i.source = t.src.toNat
    · rw [Tim.reject_used hq hi hs, hfollow]
    · rw [Tim.reject_unused hq hi hs]

/-- Once its only source is rejected the unit holds over; otherwise it follows the best that is left (R288). -/
theorem Tim.reject_follows (hq : (t.input i).qualified = true) (hi : i ≠ .frame) (hs : i.source = t.src.toNat) :
    (t.reject i c).src.toNat = (t.reject i c).bestSource ∧ ((t.reject i c).bestSource = 0 → (t.reject i c).state = .holdover) := by
  have hsource : t.src.toNat ≠ 0 := hs ▸ (TimeInput.source_pos hi).ne'
  rw [Tim.reject_used hq hi hs, Tim.follow_src, Tim.follow_bestSource]
  exact ⟨rfl, fun hb => Tim.follow_holdover hb hsource⟩

theorem Tim.reject_input : ((t.reject i c).input i).qualified = false := by
  cases hq : (t.input i).qualified with
  | false => simp [Tim.reject_unqualified hq]
  | true => rw [Tim.reject_keeps (·.input i) (fun u => u.follow_input i) (fun _ => rfl) hq, Tim.rejected_input]

theorem Tim.reject_now : (t.reject i c).now = t.now := by
  cases hq : (t.input i).qualified with
  | false => rw [Tim.reject_unqualified hq]; rfl
  | true => exact Tim.reject_keeps Tim.now Tim.follow_now (fun _ => rfl) hq

theorem Tim.reject_lastPps : (t.reject i c).lastPps = t.lastPps := by
  cases hq : (t.input i).qualified with
  | false => rw [Tim.reject_unqualified hq]; rfl
  | true => exact Tim.reject_keeps Tim.lastPps Tim.follow_lastPps (fun _ => rfl) hq

end Reject

section Qualify
variable {t : Tim} {i : TimeInput}

theorem Tim.qualify_source (hi : i ≠ .frame) : t.qualify i = (t.setInput i { t.input i with qualified := true }).follow := by
  simp [Tim.qualify, hi]

theorem Tim.qualify_input : ((t.qualify i).input i).qualified = true := by
  by_cases hi : i = .frame
  · subst hi; exact congrArg InputState.qualified (t.input_setInput .frame _)
  · rw [Tim.qualify_source hi, Tim.follow_input, Tim.input_setInput]

theorem Tim.qualify_now : (t.qualify i).now = t.now := by
  by_cases hi : i = .frame
  · subst hi; rfl
  · rw [Tim.qualify_source hi, Tim.follow_now]; rfl

end Qualify

section Rows
variable {s : State} (hon : s.sup.on = true)
include hon

theorem execSourceReject_breaks {i : TimeInput} {c : RejectCause} {m : Nat} (hb : s.tim.breaks i c m = true) :
    execSourceReject i c m s = .next (s.modTim fun t => t.reject i c) := by
  simp [execSourceReject, hon, hb]

theorem execSourceRequalify_accepts {i : TimeInput} (hq : s.tim.mayQualify i = true) :
    execSourceRequalify i s = .next (s.modTim fun t => t.qualify i) := by
  simp [execSourceRequalify, hon, hq]

end Rows

/-! The lock to a source (R286, R288). -/

/-- The unit locked, with the frequency correction and the offset it has measured. -/
def State.locked (s : State) (offset rate : Int) : State :=
  s.modTim fun t => { t with state := .locked, learned := rate, offset := satOffset offset }

/-- The offset of a lock is stepped over at the first lock to a time of day, and otherwise slewed away. -/
def State.takeOffset (s : State) (offset : Int) : State :=
  if (s.tim.src.toNat == 2 || s.tim.src.toNat == 3) && !s.tim.stepped then (if 0 ≤ offset then s.step1 offset.toNat else s)
  else if 1000 < offset.natAbs then s.modTim fun t => { t with slewing := true, toSlew := offset * 10 ^ 6 }
  else s

theorem execTimeLock_locks {s : State} {offset rate : Int} (hon : s.sup.on = true) (hs : s.tim.state = .acquiring)
    (ho : s.tim.sourceOk s.tim.src.toNat = true) (hr : rate.natAbs ≤ 202000) :
    execTimeLock offset rate s = .next ((s.locked offset rate).takeOffset offset) := by
  unfold execTimeLock
  dsimp only
  rw [hon, hs, ho, decide_eq_false (by omega)]
  rfl

section TakeOffset
variable {s : State} {offset : Int}

/-- Taking the offset away changes neither the state of the unit nor what it has measured. -/
theorem State.takeOffset_keeps {γ : Type} (p : Tim → γ) (hstep : ∀ d, p (s.step1 d).tim = p s.tim)
    (hslew : ∀ slewing toSlew, p { s.tim with slewing, toSlew } = p s.tim) : p (s.takeOffset offset).tim = p s.tim := by
  unfold State.takeOffset
  split
  · split
    · exact hstep _
    · rfl
  · split
    · exact hslew ..
    · rfl

theorem State.takeOffset_steps (hsrc : s.tim.src.toNat = 2 ∨ s.tim.src.toNat = 3) (hfirst : s.tim.stepped = false) (ho : 0 ≤ offset) :
    s.takeOffset offset = s.step1 offset.toNat := by
  unfold State.takeOffset
  rw [if_pos (by simp [hsrc, hfirst]), if_pos ho]

variable (hno : ¬(s.tim.src.toNat = 2 ∨ s.tim.src.toNat = 3) ∨ s.tim.stepped = true)
include hno

theorem State.takeOffset_slews (ho : 1000 < offset.natAbs) :
    s.takeOffset offset = s.modTim fun t => { t with slewing := true, toSlew := offset * 10 ^ 6 } := by
  unfold State.takeOffset
  rw [if_neg (by simpa [or_iff_not_imp_left] using hno), if_pos ho]

theorem State.takeOffset_small (ho : offset.natAbs ≤ 1000) : s.takeOffset offset = s := by
  unfold State.takeOffset
  rw [if_neg (by simpa [or_iff_not_imp_left] using hno), if_neg (by omega)]

end TakeOffset

/-- Settles O39: what a rejection and an acceptance do is what `Tim.reject` and `Tim.qualify` keep beside the choice of a source, and a
lock takes its offset away by `State.takeOffset`. -/
theorem timeSourcesAreFollowed : Obligations.TimeSourcesAreFollowed := by
  unfold Obligations.TimeSourcesAreFollowed
  refine ⟨?reject, ?requalify, ?lock⟩
  case reject =>
    intro s i c m hon hb hq
    refine ⟨_, execSourceReject_breaks hon hb, Tim.reject_input, ?cause, ?input, ?rejects, fun hi hs => Tim.reject_follows hq hi hs, ?frame,
      Tim.reject_now, rfl, rfl⟩
    case cause => exact Tim.reject_keeps Tim.rejectCause Tim.follow_rejectCause (fun _ => rfl) hq
    case input => exact Tim.reject_keeps Tim.rejectInput Tim.follow_rejectInput (fun _ => rfl) hq
    case rejects => exact Tim.reject_keeps Tim.rejects Tim.follow_rejects (fun _ => rfl) hq
    case frame =>
      rintro rfl
      dsimp only [State.modTim]
      rw [Tim.reject_frame hq]
      exact ⟨rfl, rfl⟩
  case requalify =>
    intro s i hon hq
    refine ⟨_, execSourceRequalify_accepts hon hq, Tim.qualify_input, fun hi => ?source, ?frame, Tim.qualify_now, rfl, rfl⟩
    case source =>
      dsimp only [State.modTim]
      rw [Tim.qualify_source hi, Tim.follow_src, Tim.follow_bestSource]
    case frame =>
      rintro rfl
      exact ⟨rfl, rfl⟩
  case lock =>
    intro s offset rate hon hs ho hr tod
    refine ⟨_, execTimeLock_locks hon hs ho hr, ?state, ?learned, ?offset, fun htod hfirst hpos => ?step, fun hno => ?slew⟩
    case state => exact State.takeOffset_keeps Tim.state (fun _ => rfl) fun _ _ => rfl
    case learned => exact State.takeOffset_keeps Tim.learned (fun _ => rfl) fun _ _ => rfl
    case offset => exact State.takeOffset_keeps Tim.offset (fun _ => rfl) fun _ _ => rfl
    case step =>
      rw [State.takeOffset_steps (s := s.locked offset rate) htod hfirst hpos]
      exact ⟨rfl, rfl⟩
    case slew =>
      obtain hbig | hsmall := Nat.lt_or_ge 1000 offset.natAbs
      · rw [State.takeOffset_slews (s := s.locked offset rate) hno hbig]
        exact ⟨rfl, fun _ => ⟨rfl, rfl⟩, fun h => by omega⟩
      · rw [State.takeOffset_small (s := s.locked offset rate) hno hsmall]
        exact ⟨rfl, fun h => by omega, fun _ => rfl⟩

end Sys2Proof.Machine
end

section
/-! PROOFS. Reference time: what its measurements do, by REF_PPS, by frame edges and by PTP. -/

namespace Sys2Proof.Machine

/-! Pulses of REF_PPS (R285, R287). -/

/-- How far a pulse lies from its place, one second after the last. -/
def pulseOff (now last : Nat) : Nat := ((now : Int) - (last + 10 ^ 9 : Nat)).natAbs

/-- The limit that a pulse breaks, judged against the last one. -/
def Tim.pulseFault (t : Tim) (now : Nat) : Option RejectCause :=
  match t.lastPps with
  | none => none
  | some l =>
    if t.breaks .pps .stop (now - l) then some .stop
    else if t.breaks .pps .drift (pulseOff now l) then some .drift
    else if t.breaks .pps .jump (pulseOff now l) then some .jump
    else none

section PulseFault

theorem Tim.breaks_pps_stop (t : Tim) (m : Nat) : t.breaks .pps .stop m = decide (10 ^ 9 + 200000 < m) := rfl
theorem Tim.breaks_pps_drift (t : Tim) (m : Nat) : t.breaks .pps .drift m = decide (200000 < m) := rfl
theorem Tim.breaks_pps_jump (t : Tim) {m : Nat} (h : m ≤ 1000) : t.breaks .pps .jump m = false := by
  simp [Tim.breaks, Nat.not_lt.2 h]

variable {t : Tim} {now : Nat}

theorem Tim.pulseFault_inPlace (h : ∀ l ∈ t.lastPps, pulseOff now l ≤ 1000) : t.pulseFault now = none := by
  unfold Tim.pulseFault
  cases hl : t.lastPps with
  | none => rfl
  | some l =>
    have hoff : pulseOff now l ≤ 1000 := h l hl
    have hstop : now - l ≤ 10 ^ 9 + 200000 := by unfold pulseOff at hoff; omega
    dsimp only
    rw [Tim.breaks_pps_stop, if_neg (by rw [decide_eq_true_eq]; omega), Tim.breaks_pps_drift, if_neg (by rw [decide_eq_true_eq]; omega),
      Tim.breaks_pps_jump t hoff, if_neg (by decide)]

theorem Tim.pulseFault_misplaced {l : Nat} (hl : t.lastPps = some l) (h : 200000 < pulseOff now l) :
    ∃ c, t.pulseFault now = some c := by
  unfold Tim.pulseFault
  rw [hl]
  dsimp only
  rw [Tim.breaks_pps_drift, if_pos (decide_eq_true h)]
  split <;> exact ⟨_, rfl⟩

end PulseFault

/-- A pulse is the second boundary that the next is judged by. -/
def State.pulsed (s : State) : State := s.modTim fun t => { t with lastPps := some s.now }

/-- The step that a TIME_SET has asked for, to a time that has not passed. -/
def State.setTime (s : State) (n : Nat) : State :=
  let u := (s.step1 (n - s.now)).modTim fun t => { t with setTo := none }
  u.timeSets.foldl (fun v c => v.finish c.id .ok 0 n) u

/-- What a pulse in its place does: the step of a TIME_SET, or the measure of the source. -/
def State.goodPulse (s : State) : State :=
  match s.tim.setTo with
  | some (sec, _) =>
    if s.tim.src.toNat = 1 && !s.tim.todValid && decide (s.now ≤ sec * 10 ^ 9) then s.setTime (sec * 10 ^ 9)
    else s
  | none => if s.tim.todValid then s.measure .pps (((roundDiv s.now (10 ^ 9) * 10 ^ 9 : Nat) : Int) - s.now) else s

/-- What a pulse does, by the limit that it breaks. -/
def State.afterPulse (s : State) : Option RejectCause → State
  | some c => s.modTim fun t => t.reject .pps c
  | none => s.goodPulse

theorem execRefPpsPulse_on {s : State} (hon : s.sup.on = true) :
    execRefPpsPulse s = .next (s.pulsed.afterPulse (s.tim.pulseFault s.now)) := by
  unfold execRefPpsPulse
  dsimp only
  rw [hon]
  rfl

theorem State.goodPulse_idle {s : State} (hset : s.tim.setTo = none) (htod : s.tim.todValid = false) : s.goodPulse = s := by
  unfold State.goodPulse
  simp [hset, htod]

/-- Finishing commands that hold no LAUNCH and whose status words go to the host leaves reference time alone. -/
theorem State.finishAll_tim (cs : List Cmd) (st : Status) (d r : Nat) {s : State} (h : ∀ c ∈ s.cmds, c.statusVa = false ∧ c.launch = none) :
    (cs.foldl (fun v c => v.finish c.id st d r) s).tim = s.tim := by
  induction cs generalizing s with
  | nil => rfl
  | cons c cs ih =>
    obtain ⟨host, cmds, heq, hcmds⟩ := State.finish_host (s := s) (id := c.id) st d r fun x hx _ => h x hx
    rw [List.foldl_cons, ih, heq]
    rw [heq]
    intro x hx
    obtain ⟨y, hy, -, hva, hlaunch⟩ := hcmds x hx
    exact ⟨hva ▸ (h y hy).1, hlaunch ▸ (h y hy).2⟩

theorem State.setTime_tim {s : State} (n : Nat) (hcmds : ∀ c ∈ s.cmds, c.statusVa = false ∧ c.launch = none) :
    (s.setTime n).tim = { (s.step1 (n - s.now)).tim with setTo := none } :=
  State.finishAll_tim _ .ok 0 n (s := (s.step1 (n - s.now)).modTim fun t => { t with setTo := none }) hcmds

theorem State.ofNat_now (s : State) : BitVec.ofNat 64 s.now = s.tim.now := by simp [State.now]

/-- A step by what is missing to a later time ends at that time. -/
theorem State.step1_reaches {s : State} {n : Nat} (h : s.now ≤ n) : (s.step1 (n - s.now)).tim.now = BitVec.ofNat 64 n := by
  rw [State.step1_now, ← s.ofNat_now, ← BitVec.ofNat_add, Nat.add_sub_cancel' h]

theorem State.goodPulse_steps {s : State} {sec id : Nat} (hset : s.tim.setTo = some (sec, id)) (hsrc : s.tim.src.toNat = 1)
    (htod : s.tim.todValid = false) (hsec : s.now ≤ sec * 10 ^ 9) : s.goodPulse = s.setTime (sec * 10 ^ 9) := by
  unfold State.goodPulse
  rw [hset]
  dsimp only
  rw [hsrc, htod, decide_eq_true hsec]
  rfl

/-! Frame edges (R289, R290). -/

section Edge
variable {t : Tim} {at_ : Nat} {real : Bool}

theorem Tim.countEdge_counts (t : Tim) (at_ : Nat) (real : Bool) :
    (t.countEdge at_ real).frame = t.frame + 1 ∧ (t.countEdge at_ real).frameEdge = BitVec.ofNat 64 at_ := by
  unfold Tim.countEdge
  dsimp only
  split <;> exact ⟨rfl, rfl⟩

theorem Tim.countEdge_sameRate (h : t.nextRate = none) :
    t.countEdge at_ real = { t with
      frame := t.frame + 1, frameEdge := BitVec.ofNat 64 at_
      synFrom := if real then at_ else t.synFrom, synCount := if real then 0 else t.synCount + 1 } := by
  simp [Tim.countEdge, h]

theorem Tim.countEdge_newRate {n d : BitVec 16} (h : t.nextRate = some (n, d)) :
    (t.countEdge at_ real).num = n ∧ (t.countEdge at_ real).den = d ∧ (t.countEdge at_ real).nextRate = none := by
  unfold Tim.countEdge
  dsimp only
  rw [h]
  exact ⟨rfl, rfl, rfl⟩

end Edge

section EdgeRows
variable {s : State} (hon : s.sup.on = true)
include hon

theorem execRefFrameEdge_counts (hn : s.tim.num ≠ 0) (hq : (s.tim.input .frame).qualified = true)
    (hb : s.tim.breaks .frame .jump ((s.now : Int) - (s.tim.synFrom + s.tim.frames (s.tim.synCount + 1) : Nat)).natAbs = false) :
    execRefFrameEdge s = .next (s.modTim fun t => t.countEdge s.now true) := by
  unfold execRefFrameEdge
  dsimp only
  rw [hon, if_neg (by simpa using hn), if_pos hq, if_neg (by rw [hb]; decide)]

theorem execSynthesisedFrameEdge_counts (hh : s.tim.frameHoldover = true)
    (hdue : s.tim.synFrom + s.tim.frames (s.tim.synCount + 1) ≤ s.now) :
    execSynthesisedFrameEdge s =
      .next (s.modTim fun t => t.countEdge (s.tim.synFrom + s.tim.frames (s.tim.synCount + 1)) false) := by
  simp [execSynthesisedFrameEdge, hon, hh, hdue]

end EdgeRows

/-! PTP (R283, R284, R311). -/

@[simp] theorem State.ptp_setPtp (s : State) (p : Nat) (x : PtpPort) : (s.setPtp p x).tim.port p = x := by
  simp [State.setPtp, State.modTim, Tim.port]

/-- An offset to the source in use that is no jump is noted; what it steers is free. -/
theorem State.measure_notes {s : State} {i : TimeInput} {o : Int} (hs : s.tim.src.toNat = i.source)
    (hb : s.tim.breaks i .jump o.natAbs = false) :
    ∃ steer, (s.measure i o).tim = { s.tim with offset := satOffset o, steer } := by
  unfold State.measure
  dsimp only
  rw [if_neg (not_not_intro hs), if_neg (by rw [hb]; decide)]
  exact ⟨_, rfl⟩

section PtpRows
variable {s : State} {p : Fin 18} (hup : (s.port p).up = true)
include hup

theorem execSync_received : execSync p true s = .next (s.setPtp p { s.tim.port p with syncAt := some s.now }) := by
  simp [execSync, hup]

theorem execPdelayReq_sent : execPdelayReq p false s = .next (s.setPtp p { s.tim.port p with t1 := some s.now }) := by
  simp [execPdelayReq, hup]

theorem execFollowUp_received {t2 : Nat} (origin : Nat) (h : (s.tim.port p).syncAt = some t2) :
    execFollowUp p true origin s = .next ((s.setPtp p { s.tim.port p with syncAt := none }).measure .ptpFabric
      ((origin : Int) + (s.port p).delayNs.toNat - t2)) := by
  simp [execFollowUp, hup, h]

theorem execPdelayResp_awaited {t1 : Nat} (t2 t3 : Nat) (h : (s.tim.port p).t1 = some t1) :
    let l := (((s.now - t1) - (t3 - t2)) / 2 :: (s.tim.port p).delays).take 8
    execPdelayResp p t2 t3 s = .next ((s.setPtp p { s.tim.port p with t1 := none, delays := l }).setPort p
      { s.port p with delayValid := true, delayNs := BitVec.ofNat 16 (satTo 0xFFFF (median l)) }) := by
  simp [execPdelayResp, hup, h]

end PtpRows

theorem execPtmResponse_up {s : State} (h : Nat) (hup : s.hostUp = true) :
    execPtmResponse h s = .next (s.measure .ptpHost ((h : Int) - s.now)) := by
  simp [execPtmResponse, hup]

/-- Settles O40: a pulse by `Tim.pulseFault`, an edge by `Tim.countEdge`, and an offset by `State.measure`. -/
theorem pulsesFramesAndPtpMeasure : Obligations.PulsesFramesAndPtpMeasure := by
  unfold Obligations.PulsesFramesAndPtpMeasure
  refine ⟨?pulse, ?edge, ?fabric, ?host⟩
  case pulse =>
    intro s hon htod
    refine ⟨fun hset hplace => ?inPlace, fun l hl hoff => ?misplaced, fun sec id hset hfirst hsrc hsec hcmds => ?steps⟩
    case inPlace =>
      rw [exec_refPpsPulse, execRefPpsPulse_on hon, Tim.pulseFault_inPlace hplace]
      exact congrArg _ (State.goodPulse_idle (s := s.pulsed) hset htod)
    case misplaced =>
      obtain ⟨c, hc⟩ := Tim.pulseFault_misplaced hl hoff
      refine ⟨_, execRefPpsPulse_on hon, ?_⟩
      rw [hc]
      exact ⟨Tim.reject_input, Tim.reject_now, Tim.reject_lastPps⟩
    case steps =>
      refine ⟨_, execRefPpsPulse_on hon, ?_⟩
      rw [Tim.pulseFault_inPlace (by simp [hfirst])]
      rw [State.afterPulse, State.goodPulse_steps (s := s.pulsed) hset hsrc htod hsec, State.setTime_tim (s := s.pulsed) _ hcmds]
      exact ⟨State.step1_reaches (s := s.pulsed) hsec, rfl, rfl⟩
  case edge =>
    intro s hon
    refine ⟨fun hn hq hb => ?real, fun hh hdue => ?synthesised⟩
    case real =>
      obtain ⟨hframe, hedge⟩ := s.tim.countEdge_counts s.now true
      refine ⟨_, execRefFrameEdge_counts hon hn hq hb, hframe, hedge.trans s.ofNat_now, rfl, fun h => ?_,
        fun n d h => Tim.countEdge_newRate h⟩
      dsimp only [State.modTim]
      rw [Tim.countEdge_sameRate h]
      exact ⟨rfl, rfl, rfl⟩
    case synthesised =>
      obtain ⟨hframe, hedge⟩ := s.tim.countEdge_counts (s.tim.synFrom + s.tim.frames (s.tim.synCount + 1)) false
      refine ⟨_, execSynthesisedFrameEdge_counts hon hh hdue, hframe, hedge, fun h => ?_⟩
      dsimp only [State.modTim]
      rw [Tim.countEdge_sameRate h]
      exact ⟨rfl, rfl⟩
  case fabric =>
    intro s p hup
    refine ⟨execSync_received hup, execPdelayReq_sent hup, fun t2 origin hsync => ?followUp, fun t1 t2 t3 ht1 => ?pdelay⟩
    case followUp =>
      intro o hsrc hb
      obtain ⟨steer, htim⟩ := State.measure_notes (s := s.setPtp p { s.tim.port p with syncAt := none }) (i := .ptpFabric) hsrc hb
      refine ⟨_, execFollowUp_received hup origin hsync, ?_⟩
      rw [htim]
      exact ⟨rfl, congrArg PtpPort.syncAt (s.ptp_setPtp p _), rfl⟩
    case pdelay =>
      refine ⟨_, execPdelayResp_awaited hup t2 t3 ht1, ?valid, ?delay, ?asked, fun q hq => ?other⟩
      case valid => rw [State.port_setPort]
      case delay => rw [State.port_setPort]
      case asked => exact congrArg PtpPort.t1 (s.ptp_setPtp p _)
      case other => exact State.port_setPort_other _ _ (Ne.symm hq)
  case host =>
    intro s h hup o hsrc hb
    obtain ⟨steer, htim⟩ := State.measure_notes (i := .ptpHost) hsrc hb
    refine ⟨_, execPtmResponse_up h hup, ?_⟩
    rw [htim]
    exact ⟨rfl, rfl⟩

end Sys2Proof.Machine
end

section
/-! PROOFS. Reference time: the calendar entries that fire. -/

namespace Sys2Proof.Machine

/-! An entry that fires in its turn (R294 to R297). -/

/-- The state after an entry has been counted, before its class acts. -/
def State.fired (s : State) (i : Nat) (e : CalEntry) : State := { s with cal := s.firedCal i e }

section OnTime
variable {s : State} {i cls : Nat} {e : CalEntry} (hpast : e.past = false) (hroom : s.cal.window = s.now / 100 → s.cal.fired < 64)
  (hturn : s.turnOf i cls = some e)
include hpast hroom

theorem State.notLate : (e.past || decide (64 ≤ if s.cal.window = s.now / 100 then s.cal.fired else 0)) = false := by
  rw [hpast, Bool.false_or, decide_eq_false_iff_not, not_le]
  split
  · exact hroom ‹_›
  · decide

include hturn

theorem State.fireEntry_onTime (act : State → CalEntry → Bool → State) : s.fireEntry i cls act = act (s.fired i e) e false := by
  rw [s.fireEntry_turn act hturn, State.notLate hpast hroom]
  rfl

/-- A row that fires the entry does to the calendar what the firing does, where its class leaves calendar and memory alone. -/
theorem State.fires_onTime {act : State → CalEntry → Bool → State} {P : State → Prop}
    (hmem : (act (s.fired i e) e false).mem = s.mem) (hcal : (act (s.fired i e) e false).cal = s.firedCal i e)
    (hP : P (act (s.fired i e) e false)) :
    ∃ t, (.next (s.fireEntry i cls act) : Out) = .next t ∧ P t ∧ t.mem = s.mem ∧ t.cal.late = s.cal.late ∧
      (e.period = 0 → tabGet? t.cal.entries i = none) ∧
      (e.period ≠ 0 → tabGet? t.cal.entries i = some { e with count := e.count + 1, past := false, n := e.n + 1 }) ∧
      ∀ j, j ≠ i → tabGet? t.cal.entries j = tabGet? s.cal.entries j := by
  refine ⟨_, rfl, ?_⟩
  rw [State.fireEntry_onTime hpast hroom hturn]
  refine ⟨hP, hmem, ?_⟩
  rw [hcal]
  exact s.firedCal_entries i e hpast hroom

end OnTime

/-! DEADLINE (R410). -/

/-- The LAUNCH of a command is late. -/
def State.lateLaunch (s : State) (id : Nat) : State :=
  s.modCmd id fun c => { c with launch := c.launch.map fun l => { l with late := true } }

/-- The LAUNCH of a command is late, and its context counts it once. -/
def State.passDeadline (s : State) (id : Nat) : State :=
  match s.cmd? id with
  | some c => if c.launch.any (!·.late) then (s.lateLaunch id).modCtx c.ctx Ctx.countLate else s.lateLaunch id
  | none => s.lateLaunch id

theorem execDeadline_eq (i : Fin 4096) (s : State) :
    execDeadline i s = .next (s.fireEntry i 3 fun u e _ => u.passDeadline e.cmd) := rfl

/-- Beside its command, a late LAUNCH changes contexts alone. -/
theorem State.passDeadline_keeps {γ : Type} (p : State → γ) (s : State) (id : Nat) (h : ∀ u k f, p (State.modCtx u k f) = p u) :
    p (s.passDeadline id) = p (s.lateLaunch id) := by
  unfold State.passDeadline
  split
  · split
    · exact h ..
    · rfl
  · rfl

theorem State.passDeadline_counts {s : State} {id : Nat} {c : Cmd} {l : Launch} (hc : s.cmd? id = some c) (hl : c.launch = some l)
    (hlate : l.late = false) : (s.passDeadline id).ctx c.ctx = (s.ctx c.ctx).countLate := by
  simp [State.passDeadline, State.lateLaunch, hc, hl, hlate]

/-! TELEMETRY and phase hints (R428, R429, R442). -/

theorem execTelemetry_writes {s t : State} {i : Fin 4096} {e : CalEntry} (hturn : s.turnOf i 5 = some e) (hshut : s.shut = false)
    (hpast : e.past = false) (hroom : s.cal.window = s.now / 100 → s.cal.fired < 64)
    (hw : s.vwrite (s.hdVia e.context.toNat) (e.arg.toNat / 64 * 64) (s.telemetryRecord e false) = (.ok (), t)) :
    execTelemetry i s = .next (t.fireEntry i 5 fun s _ _ => s) := by
  have hlate : (e.past || (s.cal.window == s.now / 100 && decide (64 ≤ s.cal.fired))) = false := by
    simpa [hpast, imp_iff_not_or] using hroom
  unfold execTelemetry
  rw [hturn]
  dsimp only
  rw [hlate, hshut, hw]
  rfl

/-- A rise in force: its power, its end and its context. -/
def State.rise (s : State) (e : CalEntry) : State :=
  s.modPwr fun p => { p with
    rises := p.rises ++ [(e.arg.toNat / 2 ^ 8 % 2 ^ 16, s.now + 1000 * (e.arg.toNat / 2 ^ 32), e.context.toNat)], setPoint := true }

theorem execPhaseFire_rises {s : State} {i : Fin 4096} {e : CalEntry} (hpast : e.past = false)
    (hroom : s.cal.window = s.now / 100 → s.cal.fired < 64) (hturn : s.turnOf i 2 = some e) (hrise : e.arg.toNat % 2 = 0) :
    execPhaseFire i s = .next (s.fireEntry i 2 fun u e _ => u.rise e) := by
  unfold execPhaseFire
  rw [State.fireEntry_onTime hpast hroom hturn, State.fireEntry_onTime hpast hroom hturn]
  dsimp only
  rw [if_pos hrise]
  rfl

theorem execPhaseExpiry_all {s : State} (h : ∀ r ∈ s.pwr.rises ++ s.pwr.falls, r.2.1 ≤ s.now) :
    execPhaseExpiry s = .next (s.modPwr fun p => { p with rises := [], falls := [], setPoint := false }) := by
  have expired (l : List (Nat × Nat × Nat)) (hl : ∀ r ∈ l, r.2.1 ≤ s.now) : l.filter (fun r => decide (s.now < r.2.1)) = [] :=
    List.filter_eq_nil_iff.2 fun r hr => by simpa using hl r hr
  unfold execPhaseExpiry State.modPwr
  dsimp only
  rw [expired _ fun r hr => h r (List.mem_append_left _ hr), expired _ fun r hr => h r (List.mem_append_right _ hr)]
  rfl

/-! EPOCH (R337). -/

/-- What an EPOCH entry that is due at t does to one schedule. -/
def State.epochOf (e : CalEntry) (entry t : Nat) (s : State) (g : Nat) : State :=
  let x := s.sched g
  if x.paceGroup.toNat ≠ e.arg.toNat % 65536 || entry != epochEntry g then s
  else
    let s := match x.joining.bind Joining.go with
      | some (mode, t0, _) => if x.state = 2 then s.startRun g mode t0 else s
      | none => s
    let x := s.sched g
    let s := if x.state = 5 then s.relayEpochs g
      else if x.state = 3 && decide (x.epochAt < t) then s.beginEpoch g t
      else s
    let y := s.sched g
    if y.epochAt = x.epochAt then s else s.armEpoch g y.epochAt y.pace.toNat 1

theorem execEpoch_eq (i : Fin 4096) (s : State) :
    execEpoch i s = .next (s.fireEntry i 1 fun u e _ => [0, 1, 2, 3].foldl (State.epochOf e i ((e.dueAt u.tim).getD u.now)) u) := rfl

theorem State.epochOf_other (e : CalEntry) (t : Nat) (s : State) {g h : Nat} (hg : h ≠ g) : s.epochOf e (epochEntry g) t h = s := by
  have hentry : (epochEntry g != epochEntry h) = true := by simp [epochEntry, Ne.symm hg]
  unfold State.epochOf
  simp [hentry]

/-- Of the four schedules, the entry of one concerns it alone. -/
theorem State.epochOf_fold (e : CalEntry) (t : Nat) (s : State) {g : Nat} (hg : g < 4) :
    [0, 1, 2, 3].foldl (State.epochOf e (epochEntry g) t) s = s.epochOf e (epochEntry g) t g := by
  have skip (u : State) {h : Nat} (hne : h ≠ g) : u.epochOf e (epochEntry g) t h = u := State.epochOf_other e t u hne
  interval_cases g <;> simp [skip]

/-- The schedule in the epoch that starts at t with a pace. -/
def Schedule.inEpoch (x : Schedule) (t q : Nat) : Schedule := { x with epoch := x.epoch + 1, pace := BitVec.ofNat 5 q, epochAt := t }

/-- The next epoch of a schedule that stays on Solstice starts at t with the pace decided for it (R351). -/
theorem State.beginEpoch_decided {s : State} {g q : Nat} (t : Nat) (hstate : (s.sched g).state = 3)
    (hd : (s.sched g).decision = some (q, false)) :
    ∃ y, s.beginEpoch g t = s.setSched g y ∧ y.epoch = (s.sched g).epoch + 1 ∧ y.pace = BitVec.ofNat 5 q ∧ y.epochAt = t ∧ y.state = 3 := by
  have hsample : s.beginEpoch g t = (s.setSched g ((s.sched g).inEpoch t q)).sample g true := by
    simp [State.beginEpoch, hstate, hd, Schedule.inEpoch]
  obtain ⟨y, hy, hepoch, hpace, hat, hst, -⟩ := (s.setSched g ((s.sched g).inEpoch t q)).sample_keeps g true
  rw [State.sched_setSched] at hepoch hpace hat hst
  exact ⟨y, by rw [hsample, hy, State.setSched_setSched], hepoch, hpace, hat, hst.trans hstate⟩

theorem State.epochOf_begins {s : State} {e : CalEntry} {g t q : Nat} (hgroup : (s.sched g).paceGroup.toNat = e.arg.toNat % 65536)
    (hstate : (s.sched g).state = 3) (hjoin : (s.sched g).joining = none) (hat : (s.sched g).epochAt < t)
    (hd : (s.sched g).decision = some (q, false)) :
    ∃ y, s.epochOf e (epochEntry g) t g = (s.setSched g y).armEpoch g t y.pace.toNat 1 ∧ y.epoch = (s.sched g).epoch + 1 ∧
      y.pace = BitVec.ofNat 5 q ∧ y.epochAt = t ∧ y.state = 3 := by
  obtain ⟨y, hbegin, hepoch, hpace, hyat, hyst⟩ := State.beginEpoch_decided t hstate hd
  refine ⟨y, ?_, hepoch, hpace, hyat, hyst⟩
  simp [State.epochOf, hgroup, hjoin, hstate, hat, hbegin, hyat, hat.ne']

@[simp] theorem State.sched_armEpoch (s : State) (g t q n h : Nat) : (s.armEpoch g t q n).sched h = s.sched h := rfl
@[simp] theorem State.armEpoch_mem (s : State) (g t q n : Nat) : (s.armEpoch g t q n).mem = s.mem := rfl

/-- Settles O41: an entry in its turn by `State.fires_onTime`, whatever its class then does; an EPOCH by `State.epochOf_begins`. -/
theorem calendarEntriesFire : Obligations.CalendarEntriesFire := by
  unfold Obligations.CalendarEntriesFire
  refine ⟨?classes, ?telemetry, ?epoch, ?expiry⟩
  case classes =>
    intro s i e hpast hroom fires
    refine ⟨fun h => ?deadline, fun h => ?lowPower, fun h => ?heartbeat, fun h => ?wake, fun hrise h => ?phase⟩
    case deadline =>
      rw [exec_deadline, execDeadline_eq]
      exact State.fires_onTime hpast hroom h (State.passDeadline_keeps State.mem _ _ State.modCtx_mem)
        (State.passDeadline_keeps State.cal _ _ State.modCtx_cal)
        ⟨State.passDeadline_keeps State.cmds _ _ State.modCtx_cmds, fun _ _ hc hl hlate => State.passDeadline_counts hc hl hlate⟩
    case lowPower => exact State.fires_onTime hpast hroom h rfl rfl rfl
    case heartbeat => exact State.fires_onTime hpast hroom h rfl rfl rfl
    case wake => exact State.fires_onTime hpast hroom h rfl rfl ⟨rfl, rfl, rfl⟩
    case phase =>
      rw [exec_phaseFire, execPhaseFire_rises hpast hroom h hrise]
      exact State.fires_onTime hpast hroom h rfl rfl ⟨rfl, rfl⟩
  case telemetry => exact fun s t i e hturn hshut hpast hroom hw => execTelemetry_writes hturn hshut hpast hroom hw
  case epoch =>
    intro s g e d q hturn hdue x hgroup hstate hjoin hat hd
    obtain ⟨y, hy, hepoch, hpace, hyat, hyst⟩ := State.epochOf_begins (s := s.fired (1 + g) e) (g := g) hgroup hstate hjoin hat hd
    have hexec : exec (.epoch ⟨1 + g.val, by omega⟩) s = .next ((s.fired (1 + g) e).setSched g y |>.armEpoch g d y.pace.toNat 1) := by
      rw [exec_epoch, execEpoch_eq, State.fireEntry_turn s _ hturn, hdue, Option.getD_some]
      exact congrArg _ ((State.epochOf_fold e d _ g.isLt).trans hy)
    refine ⟨_, hexec, ?_⟩
    rw [State.sched_armEpoch, State.sched_setSched]
    exact ⟨hepoch, hpace, hyat, hyst, fun h _ hg => State.sched_setSched_other _ _ (Ne.symm hg), rfl⟩
  case expiry => exact fun s h => execPhaseExpiry_all h

end Sys2Proof.Machine
end

section
/-! PROOFS. Reference time: the idle states are entered and left. -/

namespace Sys2Proof.Machine

/-! Entry (R298, R299). -/

/-- The device enters an idle state. -/
def State.enterIdle (s : State) (k : Nat) : State := s.modTim fun t => { t with idle := BitVec.ofNat 3 k, entryEnd := s.now + idleEntry k }

/-- The cache without lines. -/
def State.emptied (s : State) : State :=
  { s with cache := { s.cache with agents := [], slices := s.cache.slices.map fun p => (p.1, { p.2 with ways := [], plru := [] }) } }

theorem State.emptied_ways (s : State) : ∀ p ∈ s.emptied.cache.slices, p.2.ways = [] := by
  intro p hp
  obtain ⟨q, -, rfl⟩ := List.mem_map.1 hp
  rfl

/-- After the owners have been asked: their data is awaited, or the LLC is flushed and the device enters. -/
def State.enterFlushed (k : Nat) : Bool × State → State
  | (true, u) => u
  | (false, u) => u.flushAll.emptied.enterIdle k

section Entry
variable {s : State} (hidle : s.isIdle = true) (hwake : s.tim.wakeEnd = none) (hdeeper : s.tim.idle.toNat < s.idleChoice)
include hidle hwake hdeeper

/-- An idle device that no wake holds enters a deeper state: as it stands, or with its LLC flushed where no owner still has data. -/
theorem execIdleEntry_enters : execIdleEntry s = .next (
    if s.idleChoice < 4 then s.enterIdle s.idleChoice
    else State.enterFlushed s.idleChoice s.askOwners) := by
  unfold execIdleEntry
  dsimp only
  rw [if_neg (by simp [hidle, hwake, hdeeper])]
  rfl

theorem execIdleEntry_shallow (hk : s.idleChoice < 4) : execIdleEntry s = .next (s.enterIdle s.idleChoice) := by
  rw [execIdleEntry_enters hidle hwake hdeeper, if_pos hk]

theorem execIdleEntry_flushes (hk : s.idleChoice = 4) {u : State} (ho : s.askOwners = (false, u)) :
    execIdleEntry s = .next (u.flushAll.emptied.enterIdle 4) := by
  rw [execIdleEntry_enters hidle hwake hdeeper, hk, if_neg (by decide), ho]
  rfl

end Entry

/-! Wake (R300). -/

theorem execWakeStart_near {s : State} {d : Nat} (hnext : s.nextCompute = some d) (hidle : 2 ≤ s.tim.idle.toNat)
    (hwake : s.tim.wakeEnd = none) (hd : d ≤ s.now + idleWake s.tim.idle.toNat + 1000 * s.tim.margin.toNat) :
    execWakeStart s = .next (s.modTim fun t => { t with wakeEnd := some (max s.now s.tim.entryEnd + idleWake s.tim.idle.toNat) }) := by
  unfold execWakeStart
  dsimp only
  rw [if_pos (by simp [hnext, hidle, hwake, hd])]
  rfl

theorem execWakeEnd_ends {s : State} {e : Nat} (hwake : s.tim.wakeEnd = some e) (he : e ≤ s.now)
    (hrefresh : ∀ p ∈ s.mem.chans, p.2.state ≠ 3) :
    execWakeEnd s = .next (s.markLate.modTim fun t => { t with idle := 0, wakeEnd := none, held := 0 }) := by
  have hout : (s.mem.chans.any fun p => p.2.state == 3) = false := by simpa using hrefresh
  unfold execWakeEnd
  rw [hwake]
  dsimp only
  rw [hout, decide_eq_true he]
  rfl

/-- Settles O42: the entry by whether its state is the deepest, and the two ends of a wake. -/
theorem idleStatesEnterAndWake : Obligations.IdleStatesEnterAndWake := by
  unfold Obligations.IdleStatesEnterAndWake
  refine ⟨fun s hidle hwake hdeeper => ⟨?shallow, ?deepest⟩, ?start, ?finish⟩
  case shallow => exact fun hk => execIdleEntry_shallow hidle hwake hdeeper hk
  case deepest =>
    intro u hk ho
    exact ⟨_, execIdleEntry_flushes hidle hwake hdeeper hk ho, rfl, u.flushAll.emptied_ways, rfl, rfl, rfl⟩
  case start => exact fun s d hnext hidle hwake hd => execWakeStart_near hnext hidle hwake hd
  case finish => exact fun s e hwake he hrefresh => ⟨_, execWakeEnd_ends hwake he hrefresh, rfl, rfl, rfl, rfl, rfl⟩

end Sys2Proof.Machine
end

section
/-! PROOFS. The fabric: flits and NAKs at a port, a port that stops, packets for other devices, and credits (R306 to R309, R313,
R314, R358). -/

namespace Sys2Proof.Machine

/-! The retries of the present millisecond (R309). -/

/-- A new millisecond touches its own number and its count of retries alone. -/
theorem Port.atMs_keeps {γ : Type} (f : Port → γ) (p : Port) (now : Nat) (h : ∀ ms retryMs, f { p with ms, retryMs } = f p) :
    f (p.atMs now) = f p := by
  unfold Port.atMs
  split
  · rfl
  · exact h ..

section AtMs
variable (p : Port) (now : Nat)

@[simp] theorem Port.atMs_up : (p.atMs now).up = p.up := p.atMs_keeps Port.up now fun _ _ => rfl
@[simp] theorem Port.atMs_rx : (p.atMs now).rx = p.rx := p.atMs_keeps Port.rx now fun _ _ => rfl
@[simp] theorem Port.atMs_fec : (p.atMs now).fec = p.fec := p.atMs_keeps Port.fec now fun _ _ => rfl
@[simp] theorem Port.atMs_crcErr : (p.atMs now).crcErr = p.crcErr := p.atMs_keeps Port.crcErr now fun _ _ => rfl
@[simp] theorem Port.atMs_retries : (p.atMs now).retries = p.retries := p.atMs_keeps Port.retries now fun _ _ => rfl

end AtMs

/-! Flits (R306, R308). -/

/-- The corrected codewords of a flit are counted. -/
def Port.countFec (p : Port) (n : Nat) : Port := { p with fec := p.fec + BitVec.ofNat 64 n }

/-- A flit whose CRC fails, at the port that discards it: a replay is due. -/
def Port.dropFlit (p : Port) : Port :=
  { p with crcErr := p.crcErr + 1, retries := p.retries + 1, retryMs := p.retryMs + 1
           rx := { p.rx with discarding := true, failures := p.rx.failures + 1 } }

/-- The ACK of a flit, at the port that sends: without NAK the replay is over. -/
def Port.takeAck (p : Port) (flit : BitVec 2144) : Port :=
  let t := { p.tx with last := some (fld flit 31 16) }
  let t := if bit flit 32 then t else { t with failures := 0, replaying := false }
  { p with tx := t, state := if t.replaying then 3 else 2 }

/-- The flit that is next in order, at the port that hands on its units. -/
def Port.handOn (p : Port) (flit : BitVec 2144) : Port :=
  { p with rx := { p.rx with last := some (fld flit 15 0), discarding := false, failures := 0, handed := fabricUnits flit } }

theorem Port.takeAck_last (p : Port) (flit : BitVec 2144) : (p.takeAck flit).tx.last = some (fld flit 31 16) := by
  unfold Port.takeAck
  dsimp only
  split <;> rfl

/-- A port that carries traffic, after a flit: its CRC decides whether it is discarded, and its SEQ whether its units are handed on. -/
def Port.receive (p : Port) (flit : BitVec 2144) (n : Nat) : Port :=
  if crc32 (leBytes 264 (byteFld flit 0 264)) ≠ byteFld flit 264 4 then (p.countFec n).dropFlit
  else if fld flit 15 0 = p.rx.last.elim 0 fun x => (x + 1) % 65536 then ((p.countFec n).takeAck flit).handOn flit
  else (p.countFec n).takeAck flit

section Receive
variable {p : Port} {flit : BitVec 2144} (n : Nat)

theorem Port.receive_failing (hcrc : crc32 (leBytes 264 (byteFld flit 0 264)) ≠ byteFld flit 264 4) :
    p.receive flit n = (p.countFec n).dropFlit := if_pos hcrc

theorem Port.receive_next (hcrc : crc32 (leBytes 264 (byteFld flit 0 264)) = byteFld flit 264 4)
    (hseq : fld flit 15 0 = p.rx.last.elim 0 fun x => (x + 1) % 65536) :
    p.receive flit n = ((p.countFec n).takeAck flit).handOn flit := by
  unfold Port.receive
  rw [if_neg (not_not.mpr hcrc), if_pos hseq]

end Receive

theorem execFabricFlitReceive_up {s : State} {k : Fin 18} (flit : BitVec 2144) (n : Nat) (hon : s.sup.on = true)
    (hup : ((s.port k).atMs (s.now / 10 ^ 6)).up = true) :
    execFabricFlitReceive k flit n s = .next (s.setPort k (((s.port k).atMs (s.now / 10 ^ 6)).receive flit n)) := by
  unfold execFabricFlitReceive Port.receive
  dsimp only
  rw [if_neg (by rw [hon, hup]; decide)]
  simp only [bne_iff_ne, beq_iff_eq]
  split
  · rfl
  · split <;> rfl

/-! NAKs (R308). -/

/-- A port that replays every flit after the one that a NAK names. -/
def Port.replayAfter (p : Port) (ack : BitVec 16) : Port :=
  let again := p.tx.replaying && p.tx.last == some ack.toNat
  { p with state := 3, retries := p.retries + 1, retryMs := p.retryMs + 1
           tx := { p.tx with last := some ack.toNat, replaying := true, failures := if again then p.tx.failures + 1 else 1 } }

theorem execFabricNak_up {s : State} {k : Fin 18} (ack : BitVec 16) (hon : s.sup.on = true) (hup : (s.port k).up = true) :
    execFabricNak k ack s = .next (s.setPort k (((s.port k).atMs (s.now / 10 ^ 6)).replayAfter ack)) := by
  unfold execFabricNak
  dsimp only
  rw [if_neg (by rw [Port.atMs_up, hon, hup]; decide)]
  rfl

/-! Ports that stop (R309). -/

theorem execLaneLockLoss_port {s : State} {k : Fin 28} (hk : 10 ≤ k.val) (hup : (s.port (k.val - 10)).up = true) :
    execLaneLockLoss k s = .next (s.setPort (k.val - 10) { s.port (k.val - 10) with lost := true }) := by
  unfold execLaneLockLoss
  dsimp only
  rw [if_neg (Nat.not_lt.mpr hk), if_pos hup]

/-- A port that stops: its traffic is lost, in both directions. -/
def Port.stopped (p : Port) (lanes : BitVec 4) : Port := { p with state := 4, failLanes := lanes, rx := {}, tx := {}, owed := [] }

/-- A port stops, and the packets that left by it are no longer on their way. -/
def State.stopPort (s : State) (k : Nat) (lanes : BitVec 4) : State :=
  let t := s.setPort k ((s.port k).stopped lanes)
  { t with fab := { t.fab with departed := t.fab.departed.filter fun d => d.1 != k } }

theorem State.stopPort_port (s : State) (k : Nat) (lanes : BitVec 4) : (s.stopPort k lanes).port k = (s.port k).stopped lanes :=
  State.port_setPort ..

theorem State.stopPort_port_other (s : State) {j k : Nat} (lanes : BitVec 4) (h : j ≠ k) : (s.stopPort k lanes).port j = s.port j :=
  State.port_setPort_other _ _ (Ne.symm h)

/-- A port that has lost a lane stops, as a device fault on die 4 with the status of the port. -/
theorem execFabricPortPersistentFault_lost {s : State} {k : Fin 18} (lanes : BitVec 4) (hup : (s.port k).up = true)
    (hlost : (s.port k).lost = true) : execFabricPortPersistentFault k lanes s =
      .next ((s.stopPort k lanes).deviceFault 0x11 (((s.port k).stopped lanes).word + k.val * 2 ^ 32) 4) := by
  unfold execFabricPortPersistentFault
  dsimp only
  rw [if_neg (by simp [hup, hlost])]
  rfl

/-! Packets for other devices (R313, R314). -/

theorem execForward_elsewhere {s : State} {k : Fin 18} {h : BitVec 512} (data : List (BitVec 8)) (hon : s.sup.on = true)
    (hup : (s.port k).up = true) (hdest : packetDest h ≠ s.fab.device.toNat) : execForward k h data s =
      .next (s.depart (packetDest h) (hf h 0x1E 2 % 8) { hdr := h, data := data }) := by
  unfold execForward
  rw [if_neg (by simp [hon, hup, hdest])]

section Depart
variable {s : State} {dest e : Nat} (vc : Nat) (p : Packet) (hroute : s.route dest = some e)
include hroute

/-- A packet whose route has its port up leaves by that port. -/
theorem State.depart_up (hup : (s.port e).up = true) : (s.depart dest vc p).fab.departed = s.fab.departed ++ [(e, p)] ∧
    (s.depart dest vc p).fab.discarded = s.fab.discarded ∧ (s.depart dest vc p).mem = s.mem := by
  unfold State.depart
  rw [hroute]
  dsimp only
  rw [if_neg (by rw [hup]; decide)]
  exact ⟨rfl, rfl, rfl⟩

/-- A packet whose route needs a port that is down is discarded and counted. -/
theorem State.depart_down (hdown : (s.port e).up = false) :
    s.depart dest vc p = { s with fab := { s.fab with discarded := s.fab.discarded + 1 } } := by
  unfold State.depart
  rw [hroute]
  dsimp only
  rw [if_pos (by rw [hdown]; decide)]

end Depart

/-! Credits (R358). -/

theorem execEquinoxCreditReturn_up {s : State} {k : Fin 18} (ch : Fin 8) (set : Bool) (n : Nat) (hon : s.sup.on = true)
    (hup : (s.port k).up = true) : execEquinoxCreditReturn k ch set n s = .next (s.credit k (2 * ch.val + b2n set) n) := by
  unfold execEquinoxCreditReturn
  rw [if_pos (by rw [hon, hup]; rfl)]

section Credit
variable (s : State) (k i n : Nat)

theorem State.credit_owed : ((s.credit k i n).port k).owed = zSet (s.port k).owed i (zGet (s.port k).owed i - n) :=
  congrArg Port.owed (State.port_setPort ..)

/-- Credits take packets off the list of those on their way, and put none on it: each packet in turn is dropped or kept. -/
theorem State.credit_departed : ∀ d ∈ (s.credit k i n).fab.departed, d ∈ s.fab.departed := by
  unfold State.credit
  dsimp only
  refine List.foldlRecOn (motive := fun acc : Nat × List (Nat × Packet) => ∀ d ∈ acc.2, d ∈ s.fab.departed) s.fab.departed _ (by simp) ?_
  intro acc hkept d hd
  split
  · exact hkept
  · intro x hx
    obtain hx | hx := List.mem_append.mp hx
    · exact hkept x hx
    · exact List.mem_singleton.mp hx ▸ hd

end Credit

/-- Settles O43: what each command leaves of its port, read off field by field; the other ports are those of the state before. -/
theorem fabricPortsReplay : Obligations.FabricPortsReplay := by
  unfold Obligations.FabricPortsReplay
  refine ⟨?flit, ?nak, ?stop, ?lane, ?forward, ?credit⟩
  case flit =>
    intro s k flit n p hon hup
    refine ⟨fun hcrc hseq => ⟨_, execFabricFlitReceive_up flit n hon hup, ?_⟩, fun hcrc => ⟨_, execFabricFlitReceive_up flit n hon hup, ?_⟩⟩
    · rw [State.port_setPort, Port.receive_next n hcrc hseq]
      exact ⟨rfl, rfl, rfl, rfl, Port.takeAck_last .., congrArg (· + _) (Port.atMs_fec ..), Port.atMs_crcErr ..,
        fun j hj => State.port_setPort_other _ _ (Ne.symm hj)⟩
    · rw [State.port_setPort, Port.receive_failing n hcrc]
      exact ⟨rfl, rfl, rfl, rfl, congrArg (· + 1) (Port.atMs_crcErr ..), congrArg (· + 1) (Port.atMs_retries ..),
        fun j hj => State.port_setPort_other _ _ (Ne.symm hj)⟩
  case nak =>
    intro s k ack hon hup
    refine ⟨_, execFabricNak_up ack hon hup, ?_⟩
    rw [State.port_setPort]
    exact ⟨rfl, rfl, rfl, congrArg (· + 1) (Port.atMs_retries ..), Port.atMs_rx .., fun j hj => State.port_setPort_other _ _ (Ne.symm hj)⟩
  case stop =>
    exact fun s k lanes hup hlost => ⟨s.stopPort k lanes, execFabricPortPersistentFault_lost lanes hup hlost, s.stopPort_port k lanes, rfl,
      fun j hj => s.stopPort_port_other lanes hj, rfl⟩
  case lane => exact fun s k hk hup => execLaneLockLoss_port hk hup
  case forward =>
    intro s k h data hon hup hdest e hroute p
    refine ⟨fun he => ⟨_, execForward_elsewhere data hon hup hdest, State.depart_up _ p hroute he⟩,
      fun he => ⟨_, execForward_elsewhere data hon hup hdest, ?_⟩⟩
    rw [State.depart_down _ p hroute he]
    exact ⟨rfl, rfl⟩
  case credit =>
    intro s k ch set n hon hup i
    refine ⟨_, execEquinoxCreditReturn_up ch set n hon hup, ?_⟩
    rw [State.credit_owed]
    exact ⟨zGet_zSet_same .., fun j hj => zGet_zSet_other _ _ (Ne.symm hj), s.credit_departed k i n⟩

end Sys2Proof.Machine
end

section
/-! PROOFS. The Solstice path: groups that points relay and groups that arrive, the statement SolsticeGroupsAreRelayed. -/

namespace Sys2Proof.Machine

/-! A point relays a group (R341, R343, R346, R347). -/

/-- The units that leave for an entry in a slot: those of its queue that are due, oldest first. -/
def Schedule.leaving (x : Schedule) (abs : Nat) (e : SlotEntry) : List SolUnit :=
  ((tabGet [] x.queues (queueKey e.point e.stream)).takeWhile fun u => decide (u.due ≤ abs)).take e.units

/-- How many of them leave after their due slot. -/
def Schedule.leavingLate (x : Schedule) (abs : Nat) (e : SlotEntry) : Nat :=
  ((x.leaving abs e).filter fun u => decide (u.due < abs)).length

/-- The schedule once they have left. -/
def Schedule.relayed (x : Schedule) (abs : Nat) (e : SlotEntry) : Schedule :=
  if (x.leaving abs e).isEmpty then x
  else (x.setQueue (queueKey e.point e.stream)
    ((tabGet [] x.queues (queueKey e.point e.stream)).drop (x.leaving abs e).length)).addLate (x.leavingLate abs e)

section Relayed
variable (x : Schedule) (abs : Nat) (e : SlotEntry)

theorem Schedule.relayed_queue : tabGet [] (x.relayed abs e).queues (queueKey e.point e.stream)
    = (tabGet [] x.queues (queueKey e.point e.stream)).drop (x.leaving abs e).length := by
  unfold Schedule.relayed
  split
  · next h => rw [List.isEmpty_iff.1 h]; rfl
  · rw [(Schedule.addLate_keeps _ _).1, Schedule.setQueue_get]

theorem Schedule.relayed_sentAt : (x.relayed abs e).sentAt = x.sentAt := by
  unfold Schedule.relayed
  split
  · rfl
  · exact (Schedule.addLate_keeps _ _).2.1

theorem Schedule.relayed_lateCount : (x.relayed abs e).lateCount = x.lateCount + BitVec.ofNat 64 (x.leavingLate abs e) := by
  unfold Schedule.relayed
  split
  · next h =>
    rw [Schedule.leavingLate, List.isEmpty_iff.1 h]
    exact (BitVec.add_zero _).symm
  · exact (Schedule.addLate_keeps _ _).2.2

end Relayed

/-- An entry that relays takes its units from the queue of its point. -/
theorem State.takeFor_relays (s : State) (g : Nat) (x : Schedule) (abs : Nat) {e : SlotEntry} (hsource : e.source ≠ 4095) :
    (s.setSched g x).takeFor g abs e = ((x.leaving abs e).map (·.data), s.setSched g (x.relayed abs e)) := by
  unfold State.takeFor Schedule.relayed
  rw [if_neg hsource, State.sched_setSched]
  refine Prod.ext rfl ?_
  dsimp only
  split
  · next h => rw [if_pos (show (x.leaving abs e).isEmpty = true from h)]
  · next h =>
    rw [if_neg (show ¬ (x.leaving abs e).isEmpty = true from h), State.setSched_setSched]
    rfl

/-- A group stands on the wires to the other points of this device. -/
def State.wired (s : State) (p : Nat) (group : List Line) : State := { s with sol := { s.sol with wires := s.sol.wires ++ [(p, group)] } }

@[simp] theorem State.wired_sched (s : State) (p g : Nat) (group : List Line) : (s.wired p group).sched g = s.sched g := rfl

/-- A point that is no egress sends on the wires. -/
theorem State.emit_inside (s : State) {p : Nat} (group : List Line) (hp : p < 3072 ∨ 3090 ≤ p) : s.emit p group = s.wired p group := by
  unfold State.emit
  rw [if_neg]
  · rfl
  · simp only [Bool.and_eq_true, decide_eq_true_eq]
    omega

/-- A schedule whose point has sent in the slots before the one given. -/
def Schedule.sentBefore (x : Schedule) (p abs : Nat) : Schedule := { x with sentAt := zSet x.sentAt p abs }

@[simp] theorem Schedule.sentBefore_sentAt (x : Schedule) (p abs : Nat) : (x.sentBefore p abs).sentAt = zSet x.sentAt p abs := rfl

/-- The state in which a relaying point has sent its group for a schedule in a slot. -/
def State.relayed (s : State) (g p k : Nat) (e : SlotEntry) : State :=
  let x := s.sched g
  let us := x.leaving (x.abs k) e
  (s.setSched g ((x.sentBefore p (x.abs k + 1)).relayed (x.abs k) e)).wired p
    (slotHeader x.epoch.toNat k x.tag [(e.stream, us.length)] :: us.map (·.data))

/-- A point with one entry in the present slot, which it has not yet served, relays for that entry. -/
theorem State.sendGroup_relays {s : State} {g p k : Nat} {e : SlotEntry} (hp : p < 3072 ∨ 3090 ≤ p) (hstate : (s.sched g).state = 3)
    (hslot : (s.sched g).slotNow s.now = some (k, true))
    (hentry : ((s.sched g).entries.filter fun e => e.point == p && e.at_ k) = [e]) (hsource : e.source ≠ 4095)
    (hsent : zGet (s.sched g).sentAt p ≤ (s.sched g).abs k) : s.sendGroup g p = s.relayed g p k e := by
  have h5 : (s.sched g).state ≠ 5 := by rw [hstate]; decide
  have hsends : (s.sched g).sends p s.now = true := by simp [Schedule.sends, hstate]
  have hopen : ¬ (([e] : List SlotEntry).isEmpty || !(s.sched g).sends p s.now
      || decide ((s.sched g).abs k < zGet (s.sched g).sentAt p)) = true := by simp [hsends, hsent]
  unfold State.sendGroup
  rw [s.relayEpochs_same g h5]
  dsimp only
  rw [hslot]
  dsimp only
  rw [hentry, if_neg hopen]
  simp only [List.foldl_cons, List.foldl_nil]
  rw [State.takeFor_relays _ _ _ _ hsource, State.emit_inside _ _ hp]
  simp [State.relayed, Schedule.sentBefore, Schedule.leaving]

theorem State.relayed_sched (s : State) (g p k : Nat) (e : SlotEntry) : (s.relayed g p k e).sched g
    = ((s.sched g).sentBefore p ((s.sched g).abs k + 1)).relayed ((s.sched g).abs k) e := State.sched_setSched ..

theorem State.relayed_sched_other (s : State) {g h : Nat} (p k : Nat) (e : SlotEntry) (hne : h ≠ g) :
    (s.relayed g p k e).sched h = s.sched h := State.sched_setSched_other _ _ (Ne.symm hne)

/-- Of the four schedules, the one that holds something sends. -/
theorem State.sendGroups_only {s t : State} {g p : Nat} (hg : g < 4) (hothers : ∀ j, j < 4 → j ≠ g → s.sched j = {})
    (hsend : s.sendGroup g p = t) (hkeeps : ∀ j, j ≠ g → t.sched j = s.sched j) :
    [0, 1, 2, 3].foldl (fun s g => s.sendGroup g p) s = t := by
  have before {j : Nat} (hj : j < 4) (hne : j ≠ g) : s.sendGroup j p = s := s.sendGroup_empty j p (hothers j hj hne)
  have after {j : Nat} (hj : j < 4) (hne : j ≠ g) : t.sendGroup j p = t :=
    t.sendGroup_empty j p ((hkeeps j hne).trans (hothers j hj hne))
  interval_cases g <;> simp [before, after, hsend]

theorem execSlotSend_hub {s : State} {p : Fin 4096} (hon : s.sup.on = true) (hp : 576 ≤ p.val) :
    execSlotSend p s = .next ([0, 1, 2, 3].foldl (fun s g => s.sendGroup g p) s) := by
  unfold execSlotSend
  rw [if_neg (by simp [hon])]
  dsimp only
  rw [if_neg (Nat.not_lt.2 hp)]

/-! A group arrives (R343, R346, R348). -/

/-- The lowest schedule in use whose tag a header bears. -/
theorem State.find_tagged {s : State} {g : Fin 4} {tag : Nat} (hlow : ∀ j, j < g.val → (s.sched j).state = 0)
    (hstate : (s.sched g).state = 3) (htag : (s.sched g).tag = tag) :
    ([0, 1, 2, 3].find? fun g => (s.sched g).state != 0 && (s.sched g).tag == tag) = some g.val := by
  refine (List.find?_range_eq_some (n := 4)).2 ⟨?_, List.mem_range.2 g.isLt, fun j hj => ?_⟩
  · simp [hstate, htag]
  · simp [hlow j hj]

/-- A group of one stream that names the present epoch of its schedule: its list is taken. -/
theorem State.takeGroup_single {s : State} {g : Fin 4} {source : Nat} {h : Line} (us : List Line)
    (hlow : ∀ j, j < g.val → (s.sched j).state = 0) (hstate : (s.sched g).state = 3) (htag : (s.sched g).tag = lineRd h 8 4)
    (hepoch : (s.sched g).epoch.toNat % 2 ^ 32 = lineRd h 0 4) (hone : lineRd h 6 1 = 1) :
    s.takeGroup source h us = State.takeLists g source ((s.sched g).epoch.toNat * 4096 + lineRd h 4 2 % 4096) (lineRd h 4 2 % 4096)
      [(lineRd h 0x10 2, lineRd h 0x12 2)] us s := by
  have h5 : (s.sched g).state ≠ 5 := by rw [hstate]; decide
  unfold State.takeGroup
  dsimp only
  rw [State.find_tagged hlow hstate htag]
  dsimp only
  rw [s.relayEpochs_same g h5, if_pos hepoch, hone]
  rfl

section Lists
variable {s : State} {g source epochAbs slot stream : Nat} {us : List Line}

/-- A stream that no entry takes from a point is a collision of cause 1. -/
theorem State.takeLists_unfed (hfed : (s.sched g).fedBy source stream slot = []) :
    State.takeLists g source epochAbs slot [(stream, us.length)] us s = s.collide g 1 source stream slot := by
  simp [State.takeLists, hfed]

/-- The units of a stream that one entry takes, no more than it takes, are queued for that entry. -/
theorem State.takeLists_fed {e : SlotEntry} (hfed : (s.sched g).fedBy source stream slot = [e]) (hunits : us.length ≤ e.units) :
    State.takeLists g source epochAbs slot [(stream, us.length)] us s = s.enqueue g epochAbs slot e us := by
  simp [State.takeLists, hfed, hunits]

end Lists

/-- Units for a running schedule that finds room for them stand at the end of their queue, due in their slot and DELAY. -/
theorem State.enqueue_room {s : State} {g due slot : Nat} {e : SlotEntry} {us : List Line} (hus : us ≠ [])
    (hstate : (s.sched g).state = 3)
    (hroom : (s.sched g).held (pointDie e.point) + us.length ≤ s.bufferUnits g (pointDie e.point)) :
    s.enqueue g due slot e us = s.setSched g ((s.sched g).setQueue (queueKey e.point e.stream)
      (tabGet [] (s.sched g).queues (queueKey e.point e.stream) ++ us.map fun u => { due := due + e.delay, data := u })) := by
  unfold State.enqueue
  dsimp only
  rw [if_neg (by simpa using hus), if_neg (by simp [hstate]), if_neg (Nat.not_lt.2 hroom)]

theorem execSlotHeaderReceive_ingress {s : State} {p : Fin 18} (h : BitVec 512) (us : List (BitVec 512)) (hon : s.sup.on = true)
    (hup : (s.port p).up = true) :
    execSlotHeaderReceive ⟨3200 + p.val, by omega⟩ h us s = .next (s.takeGroup (3200 + p.val) h us) := by
  have hingress : (decide (3200 ≤ 3200 + p.val) && decide (3200 + p.val < 3218)) = true := by
    simp only [Bool.and_eq_true, decide_eq_true_eq]
    omega
  unfold execSlotHeaderReceive
  dsimp only
  rw [if_neg (by simp [hon]), if_pos hingress, Nat.add_sub_cancel_left, if_pos hup]

/-- Settles O46: a relaying point by `State.sendGroup_relays`, a group that arrives by the list that its header bears. -/
theorem solsticeGroupsAreRelayed : Obligations.SolsticeGroupsAreRelayed := by
  unfold Obligations.SolsticeGroupsAreRelayed
  refine ⟨?relays, ?arrives⟩
  case relays =>
    intro s g p k e hon hp hinside hothers x hstate hslot hentry hpoint hsource hsent key us
    have hfold := State.sendGroups_only g.isLt hothers (State.sendGroup_relays hinside hstate hslot hentry hsource hsent)
      fun j hj => s.relayed_sched_other p k e hj
    have hus : us = x.leaving (x.abs k) e := by simp only [us, key, ← hpoint]; rfl
    refine ⟨_, (exec_slotSend p s).trans ((execSlotSend_hub hon hp).trans (congrArg _ hfold)), ?_⟩
    rw [State.relayed_sched, Schedule.relayed_sentAt, Schedule.sentBefore_sentAt, Schedule.relayed_lateCount, hus]
    refine ⟨rfl, ?queue, zGet_zSet_same .., rfl, rfl, rfl⟩
    simp only [key, ← hpoint]
    exact Schedule.relayed_queue ..
  case arrives =>
    intro s g p h us hon hup x src slot stream hlow hstate htag hepoch hone hlen hus
    have htakes : exec (.slotHeaderReceive ⟨src, by omega⟩ h us) s = .next (State.takeLists g src (x.epoch.toNat * 4096 + slot) slot
        [(stream, us.length)] us s) := by
      rw [exec_slotHeaderReceive, execSlotHeaderReceive_ingress h us hon hup, State.takeGroup_single us hlow hstate htag hepoch hone, hlen]
    constructor
    · intro e hfed hunits hroom key
      rw [htakes, State.takeLists_fed hfed hunits, State.enqueue_room hus hstate hroom]
    · intro hfed
      rw [htakes, State.takeLists_unfed hfed]

end Sys2Proof.Machine
end

section
/-! PROOFS. The Solstice path: units that land, pace records and collisions, the statement UnitsLandAndRecordsDecide. -/

namespace Sys2Proof.Machine

/-! Landing (R334). -/

/-- Units of a stream that have landed in a slot. -/
def Schedule.landedIn (x : Schedule) (stream abs : Nat) : Nat :=
  let y := tabGet {} x.str stream
  if y.slotAt = abs then y.slotCount else 0

/-- The schedule once its land point n has taken a unit of a stream in a slot, and left the others in the queue. -/
def Schedule.landing (x : Schedule) (n stream abs : Nat) (us : List SolUnit) : Schedule :=
  (x.setQueue (queueKey (1024 + n) stream) us).modStr stream fun y => { y with slotAt := abs, slotCount := x.landedIn stream abs + 1 }

/-- A unit whose slot has come, at a land point that may take one more of its stream in it, lands. -/
theorem execUnitLand_lands {s t : State} {n : Fin 576} {g : Fin 4} {m : BitVec 16} {k : Nat} {u : SolUnit} {us : List SolUnit}
    {r : StreamRec} (hslot : (s.sched g).slotNow s.now = some (k, true))
    (hqueue : tabGet [] (s.sched g).queues (queueKey (1024 + n.val) m.toNat) = u :: us)
    (hstream : ((s.sched g).streams.find? fun r => r.stream == m.toNat) = some r)
    (hentry : ∃ e ∈ (s.sched g).entries, e.point = 1024 + n.val ∧ e.stream = m.toNat ∧ e.at_ k = true ∧
      (s.sched g).landedIn m.toNat ((s.sched g).abs k) < e.units)
    (hstate : (s.sched g).state = 3 ∨ (s.sched g).state = 4) (hserving : s.serving = true) (hdue : u.due = (s.sched g).abs k)
    (hland : (s.setSched g ((s.sched g).landing n m.toNat ((s.sched g).abs k) us)).landUnit g r u.data = some t) :
    execUnitLand n g m s = .next t := by
  have hfits : ((s.sched g).entries.any fun e => e.point == 1024 + n.val && e.stream == m.toNat && e.at_ k &&
      decide ((s.sched g).landedIn m.toNat ((s.sched g).abs k) < e.units)) = true := by
    obtain ⟨e, he, hpoint, hm, hat, hroom⟩ := hentry
    exact List.any_eq_true.2 ⟨e, he, by simp [hpoint, hm, hat, hroom]⟩
  have hruns : ((s.sched g).state == 3 || (s.sched g).state == 4) = true := by simpa using hstate
  unfold Schedule.landing Schedule.landedIn at hland
  unfold Schedule.landedIn at hfits
  unfold execUnitLand
  dsimp only at hfits hland ⊢
  rw [hslot, hqueue, hstream]
  dsimp only
  rw [hfits, hruns, hserving, hdue, if_neg (by simp), if_neg (Nat.lt_irrefl _), Schedule.addLate_zero, hland]
  rfl

/-! Overdue units and missing decisions (R348, R352). -/

theorem execUnitOverdue_collides {s : State} {g : Fin 4} {p : Fin 4096} {m : BitVec 16} {k : Nat} {b : Bool} {u : SolUnit}
    {us : List SolUnit} (hslot : (s.sched g).slotNow s.now = some (k, b))
    (hqueue : tabGet [] (s.sched g).queues (queueKey p m.toNat) = u :: us) (hover : u.due + 4096 ≤ (s.sched g).abs k)
    (h5 : (s.sched g).state ≠ 5) : execUnitOverdue g p m s =
      .next ((s.setSched g ((s.sched g).setQueue (queueKey p m.toNat) us)).collide g 4 p m.toNat (u.due % 4096)) := by
  have hactive : ((s.sched g).state == 5) = false := by simpa using h5
  unfold execUnitOverdue
  dsimp only
  rw [hslot, hqueue]
  dsimp only
  rw [hactive, if_neg (by simpa using hover)]

theorem execPaceDecisionMissing_collides {s : State} {g : Fin 4} (hstate : (s.sched g).state = 3)
    (hnone : (s.sched g).decision = none) (hend : (s.sched g).epochAt + (s.sched g).period (s.sched g).pace.toNat ≤ s.now) :
    execPaceDecisionMissing g s = .next (s.collide g 7 4094 65535 0) := by
  unfold execPaceDecisionMissing
  dsimp only
  rw [if_pos (by simp [hstate, hnone, hend])]

/-! Pace records (R350, R352). -/

/-- The queue of the pace point. -/
def paceKey : Nat := queueKey 4094 65535

/-- Does a record agree with the epoch, the pace and the tag of a schedule? -/
def Schedule.agrees (x : Schedule) (r : Line) : Bool :=
  lineRd r 0 8 == x.epoch.toNat && lineRd r 8 1 == x.pace.toNat && lineRd r 12 4 == x.tag

theorem Schedule.agrees_iff (x : Schedule) (r : Line) :
    x.agrees r = true ↔ lineRd r 0 8 = x.epoch.toNat ∧ lineRd r 8 1 = x.pace.toNat ∧ lineRd r 12 4 = x.tag := by
  simp [Schedule.agrees, and_assoc]

/-- The model asks of a record whether some field differs. -/
theorem Schedule.differs_eq_not_agrees (x : Schedule) (r : Line) :
    (decide (lineRd r 0 8 ≠ x.epoch.toNat) || lineRd r 8 1 != x.pace.toNat || lineRd r 12 4 != x.tag) = !x.agrees r := by
  simp [Schedule.agrees, bne, Bool.beq_eq_decide_eq]

/-- What the pace point does with a record that it has taken from its queue. -/
def State.judgeRecord (s : State) (g : Nat) (u : SolUnit) : State :=
  let y := s.sched g
  let r := u.data
  if !y.agrees r then s.collide g 6 4094 65535 (u.due % 4096)
  else if recDown r then
    (if y.root || y.decision.isSome then s else s.setSched g (y.decide_ (recQ r) (recLate r) (recTime r) (recReq r)))
  else s.setSched g (({ y with ups := y.ups ++ [r] } : Schedule).combine s.fab.device.toNat)

section Records
variable {s : State} {g : Fin 4} {k : Nat} {b : Bool} {u : SolUnit} {us : List SolUnit}
  (hstate : (s.sched g).state = 3) (hslot : (s.sched g).slotNow s.now = some (k, b))
  (hqueue : tabGet [] (s.sched g).queues paceKey = u :: us) (hdue : u.due = (s.sched g).abs k)
include hstate hslot hqueue hdue

/-- The first record at the pace point of a running schedule is judged in its slot. -/
theorem execPaceRecord_due :
    execPaceRecord g s = .next ((s.setSched g ((s.sched g).setQueue paceKey us)).judgeRecord g u) := by
  have h5 : (s.sched g).state ≠ 5 := by rw [hstate]; decide
  have hruns : ¬ (decide ((s.sched g).abs k < u.due) || !((s.sched g).state == 3 || (s.sched g).state == 5)) = true := by
    simp [hstate, hdue]
  unfold paceKey at hqueue
  unfold execPaceRecord State.judgeRecord
  rw [s.relayEpochs_same g h5, State.sched_setSched]
  dsimp only
  rw [hslot, hqueue]
  dsimp only
  rw [if_neg hruns, hdue, if_neg (Nat.lt_irrefl _), Schedule.addLate_zero, Schedule.differs_eq_not_agrees]
  rfl

/-- A record that does not agree with its schedule is a collision of cause 6. -/
theorem execPaceRecord_collides (hbad : (s.sched g).agrees u.data = false) : execPaceRecord g s =
    .next ((s.setSched g ((s.sched g).setQueue paceKey us)).collide g 6 4094 65535 (u.due % 4096)) := by
  have hdiffers : (!((s.sched g).setQueue paceKey us).agrees u.data) = true := congrArg not hbad
  rw [execPaceRecord_due hstate hslot hqueue hdue, State.judgeRecord, State.sched_setSched]
  rw [if_pos hdiffers]

/-- A down record that agrees brings the decision to a schedule that awaits one from above. -/
theorem execPaceRecord_decides (hgood : (s.sched g).agrees u.data = true) (hdown : recDown u.data = true)
    (hroot : (s.sched g).root = false) (hnone : (s.sched g).decision = none) : execPaceRecord g s = .next (s.setSched g
      (((s.sched g).setQueue paceKey us).decide_ (recQ u.data) (recLate u.data) (recTime u.data) (recReq u.data))) := by
  have hagrees : (!((s.sched g).setQueue paceKey us).agrees u.data) = false := congrArg not hgood
  have hawaits : (((s.sched g).setQueue paceKey us).root || ((s.sched g).setQueue paceKey us).decision.isSome) = false :=
    congrArg₂ or hroot (congrArg Option.isSome hnone)
  rw [execPaceRecord_due hstate hslot hqueue hdue, State.judgeRecord, State.sched_setSched]
  rw [hagrees, hdown, hawaits, State.setSched_setSched]
  rfl

end Records

/-- Settles O47: each command by its lemma, and the first collision by `State.collide_first`. -/
theorem unitsLandAndRecordsDecide : Obligations.UnitsLandAndRecordsDecide := by
  unfold Obligations.UnitsLandAndRecordsDecide
  refine ⟨?lands, ?overdue, ?records, ?missing, ?first⟩
  case lands =>
    intro s t n g m k u us r x p y done hslot hqueue hstream hentry hstate hserving hdue hland
    exact execUnitLand_lands hslot hqueue hstream hentry hstate hserving hdue hland
  case overdue =>
    intro s g p m k b u us x hslot hqueue hover h5
    exact execUnitOverdue_collides hslot hqueue hover h5
  case records =>
    intro s g k b u us x y hstate hslot hqueue hdue
    constructor
    · intro hepoch hpace htag hdown hroot hnone
      refine ⟨_, execPaceRecord_decides hstate hslot hqueue hdue ((x.agrees_iff _).2 ⟨hepoch, hpace, htag⟩) hdown hroot hnone, ?_⟩
      rw [State.sched_setSched]
      exact ⟨rfl, rfl, rfl, rfl⟩
    · intro hbad
      have hdiffers : x.agrees u.data = false := by
        rw [← Bool.not_eq_true, x.agrees_iff]
        tauto
      exact execPaceRecord_collides hstate hslot hqueue hdue hdiffers
  case missing =>
    intro s g x hstate hnone hend
    exact execPaceDecisionMissing_collides hstate hnone hend
  case first =>
    intro s g cause point stream slot h5 hclear t
    obtain ⟨r, hr⟩ := s.collide_first g cause point stream slot h5 hclear
    have ht : t = _ := hr
    rw [ht, State.arise_sched, State.sched_setSched, State.arise_mem, State.arise_cores]
    exact ⟨rfl, fun hidle hdue => State.arise_due r hidle hdue, rfl, rfl⟩

end Sys2Proof.Machine
end

section
/-! PROOFS. Joining a job: the messages of the handshake, the leader's choice, the start, the statement JoinFindsOneStart. -/

namespace Sys2Proof.Machine

/-! Messages (R355). Their bytes are free (assumption 120); what they leave unchanged is not. -/

/-- A packet that departs changes the fabric alone. -/
theorem State.depart_same (s : State) (dest vc : Nat) (p : Packet) : ∃ F, s.depart dest vc p = { s with fab := F } := by
  unfold State.depart
  split
  · exact ⟨_, rfl⟩
  · dsimp only
    split <;> exact ⟨_, rfl⟩

theorem State.sendJoin_same (s : State) (ctx dest g : Nat) (data : List Byte) :
    ∃ F, s.sendJoin ctx dest g data = { s with fab := F } := by
  unfold State.sendJoin
  dsimp only
  split
  · exact ⟨_, rfl⟩
  · exact State.depart_same ..

/-- A message of the handshake takes a free choice and changes the fabric. -/
theorem State.tell_same (s : State) (ctx dest g : Nat) : ∃ F, s.tell ctx dest g = { s with free := s.free + 1, fab := F } :=
  State.sendJoin_same ..

theorem State.tell_tim (s : State) (ctx dest g : Nat) : (s.tell ctx dest g).tim = s.tim := by
  obtain ⟨F, hF⟩ := s.tell_same ctx dest g
  rw [hF]

/-- The leader tells every member. -/
def State.tellAll (s : State) (g : Nat) (j : Joining) : State := j.members.foldl (fun s m => s.tell j.context m.device g) s

theorem State.tellAll_tim (s : State) (g : Nat) (j : Joining) : (s.tellAll g j).tim = s.tim :=
  foldl_keeps State.tim _ (fun _ _ => State.tell_tim ..) _ _

/-! The leader's choice (R356). -/

/-- The first multiple of p from 20 ms after a time on. -/
def startAfter (now p : Nat) : Nat := (now + 20000000 + p - 1) / p * p

theorem startAfter_first (now : Nat) {p : Nat} (hp : 0 < p) :
    now + 20000000 ≤ startAfter now p ∧ startAfter now p % p = 0 ∧ startAfter now p < now + 20000000 + p := by
  have hdiv := Nat.div_add_mod' (now + 20000000 + p - 1) p
  have hmod := Nat.mod_lt (now + 20000000 + p - 1) hp
  unfold startAfter
  exact ⟨by omega, Nat.mul_mod_left _ _, by omega⟩

/-- Equal digests name no device. -/
theorem Joining.differs_none {j : Joining} (h : ∀ m ∈ j.members, m.digest = j.digest) : j.differs = none := by
  have hsame : (j.members.filter fun m => m.digest != j.digest) = [] := List.filter_eq_nil_iff.2 fun m hm => by simp [h m hm]
  unfold Joining.differs
  rw [hsame]
  rfl

/-- Once the last member has reported and all agree, the leader sends GO to Solstice. -/
theorem State.lead_agreed {s : State} {g : Nat} {j : Joining} (hjoin : (s.sched g).joining = some j)
    (hleader : j.leader = s.fab.device.toNat) (hgo : j.go = none) (hall : j.members.length + 1 = (s.sched g).members)
    (hmembers : ∀ m ∈ j.members, m.offset.isSome = true ∧ m.digest = j.digest ∧ m.tod = true) (hspread : j.spread ≤ 100)
    (htod : s.tim.todValid = true) :
    s.lead g = (s.tellAll g j).go g j 0 (startAfter s.now ((s.sched g).period 0)) j.spread := by
  have hreported : (j.members.any fun m => m.offset.isNone) = false := List.any_eq_false.2 fun m hm => by
    obtain ⟨hoffset, -, -⟩ := hmembers m hm
    simpa [← Option.isSome_iff_ne_none] using hoffset
  have hready : ¬ (decide (j.leader ≠ s.fab.device.toNat) || j.go.isSome || j.members.length + 1 != (s.sched g).members ||
      j.members.any fun m => m.offset.isNone) = true := by simp [hleader, hgo, hall, hreported]
  have htods : (j.members.all (·.tod)) = true := List.all_eq_true.2 fun m hm => by
    obtain ⟨-, -, h⟩ := hmembers m hm
    exact h
  have hdigests : j.differs = none := Joining.differs_none fun m hm => by
    obtain ⟨-, h, -⟩ := hmembers m hm
    exact h
  have htim := s.tellAll_tim g j
  unfold State.tellAll at htim
  unfold State.lead
  dsimp only
  rw [hjoin]
  dsimp only
  rw [if_neg hready, hdigests]
  dsimp only
  rw [if_neg (Nat.not_lt.2 hspread), htim, htod, htods]
  unfold State.now
  rw [htim]
  rfl

/-- GO stands in its schedule (R355 step 7). -/
theorem State.go_joining (s : State) (g : Nat) (j : Joining) (cause t0 spread : Nat) :
    ((s.go g j cause t0 spread).sched g).joining = some { j with go := some (cause, t0, spread) } := by
  unfold State.go
  dsimp only
  split
  · rw [State.sched_armEpoch, State.sched_setSched]
  · rw [State.sched_setSched]

/-! The handshake (R355). -/

/-- A schedule that joins is in state 2, and the device is in service. -/
theorem State.joining_some {s : State} {g : Nat} {j : Joining} (h : s.joining g = some j) :
    (s.sched g).state = 2 ∧ s.serving = true ∧ (s.sched g).joining = some j := by
  unfold State.joining at h
  split at h
  · next hin =>
    obtain ⟨hstate, hserving⟩ : (s.sched g).state = 2 ∧ s.serving = true := by simpa using hin
    exact ⟨hstate, hserving, h⟩
  · cases h

section Handshake
variable {s : State} {g : Fin 4} {j : Joining} (h : s.joining g = some j)
include h

/-- The leader takes a member that it has not yet. -/
theorem execHello_taken {d : BitVec 16} (q : BitVec 256) (hleader : j.leader = s.fab.device.toNat) (hd : d.toNat ≠ j.leader)
    (hmember : (s.sched g).member d.toNat = true) (hnew : ∀ m ∈ j.members, m.device ≠ d.toNat) : execHello g d q s =
      .next ((s.setJoining g { j with members := j.members ++ [{ device := d.toNat, digest := q }] }).tell j.context d.toNat g) := by
  have hfresh : (j.members.any fun m => m.device == d.toNat) = false := List.any_eq_false.2 fun m hm => by simp [hnew m hm]
  unfold execHello
  rw [h]
  dsimp only
  rw [if_neg]
  simp [hleader, hmember, hfresh, hleader ▸ hd]

/-- A member measures its offset by the times of its HELLO and its REPLY. -/
theorem execReply_measured (t2 t3 : BitVec 64) (hmember : j.leader ≠ s.fab.device.toNat) (hnone : j.offset = none) :
    execReply g t2 t3 s = .next ((s.setJoining g { j with
      offset := some ((((t2.toNat : Int) - j.t1) - ((s.now : Int) - t3.toNat)) / 2) }).tell j.context j.leader g) := by
  unfold execReply
  rw [h]
  dsimp only
  rw [if_neg (by simp [hmember, hnone])]

/-- The leader notes what its one member reports. -/
theorem execTime_reported {d : BitVec 16} (o : Int) (tod : Bool) {m : JoinMember} (hleader : j.leader = s.fab.device.toNat)
    (hone : j.members = [m]) (hd : m.device = d.toNat) (hnone : m.offset = none) : execTime g d o tod s =
      .next ((s.setJoining g { j with members := [{ m with offset := some o, tod := tod }] }).lead g) := by
  unfold execTime
  rw [h]
  dsimp only
  rw [if_neg (not_not.2 hleader), hone, List.map_singleton, if_pos (by simp [hd, hnone])]

section Go
variable (hmember : j.leader ≠ s.fab.device.toNat) (hnone : j.go = none)
include hmember hnone

theorem execGo_inTime (cause : Fin 3) {t0 : Nat} (spread : Nat) (ht : s.now + 10 ^ 6 ≤ t0) :
    execGo g (.run cause t0 spread) s = .next (s.go g j cause t0 spread) := by
  unfold execGo
  rw [h]
  dsimp only
  rw [if_neg (by simp [hmember, hnone]), if_neg (Nat.not_lt.2 ht)]

theorem execGo_late (cause : Fin 3) {t0 : Nat} (spread : Nat) (ht : t0 < s.now + 10 ^ 6) :
    execGo g (.run cause t0 spread) s = .next (s.cancel j.cmd .timeout) := by
  unfold execGo
  rw [h]
  dsimp only
  rw [if_neg (by simp [hmember, hnone]), if_pos ht]

theorem execGo_mismatch (d : Nat) : execGo g (.mismatch d) s = .next (s.mismatch j d) := by
  unfold execGo
  rw [h]
  dsimp only
  rw [if_neg (by simp [hmember, hnone])]

end Go

theorem execJoinTimeout_ends (hnone : j.go = none) (hdue : j.deadline ≤ s.now) :
    execJoinTimeout g s = .next (s.cancel j.cmd .timeout) := by
  unfold execJoinTimeout
  rw [h]
  dsimp only
  rw [if_neg (by simp [hnone, hdue])]

/-- At T0 the job runs, the schedule has joined, and the command ends with the mode and the spread. -/
theorem execJoinT0_runs {cause t0 spread : Nat} (hgo : j.go = some (cause, t0, spread)) (ht : t0 ≤ s.now) :
    execJoinT0 g s = .next ((((s.startRun g cause t0).setSched g { (s.startRun g cause t0).sched g with joining := none }).modCmd j.cmd
      fun c => { c with info := if cause = 0 then 0 else 1 }).finish j.cmd .ok 0 (satTo 0xFFFFFFFF spread)) := by
  obtain ⟨hstate, hserving, hjoin⟩ := State.joining_some h
  have hdue : ¬ (decide (s.now < t0) || !s.serving) = true := by simp [ht, hserving]
  unfold execJoinT0
  dsimp only
  rw [hjoin]
  dsimp only
  rw [hgo]
  dsimp only
  rw [if_neg hdue, if_pos hstate]

end Handshake

/-- A job runs on Solstice or in fallback, from T0 on, in epoch 0. -/
theorem State.startRun_started (s : State) (g cause t0 : Nat) : ((s.startRun g cause t0).sched g).state = (if cause = 0 then 3 else 4) ∧
    ((s.startRun g cause t0).sched g).t0 = BitVec.ofNat 64 t0 ∧ ((s.startRun g cause t0).sched g).epoch = 0 := by
  unfold State.startRun
  dsimp only
  split
  · next hcause =>
    obtain ⟨y, hy, hepoch, -, -, hstate, ht0⟩ := State.sample_keeps (s.setSched g _) g false
    rw [hy, State.sched_setSched, hepoch, hstate, ht0, State.sched_setSched]
    exact ⟨rfl, rfl, rfl⟩
  · rw [State.sched_setSched]
    exact ⟨rfl, rfl, rfl⟩

/-- Settles O48: each message of the handshake by its lemma; the leader's choice by `State.lead_agreed`. -/
theorem joinFindsOneStart : Obligations.JoinFindsOneStart := by
  unfold Obligations.JoinFindsOneStart
  refine ⟨?command, ?handshake⟩
  case command =>
    intro s u f r i c hstarts
    exact hstarts.runs (exec_join f r i s)
  case handshake =>
    intro s g j h
    obtain ⟨-, -, hjoin⟩ := State.joining_some h
    refine ⟨?hello, ?reply, ?time, ?go, ?runs, ?timeout, ?leads⟩
    case hello => exact fun d q hleader hd hmember hnew => execHello_taken h q hleader hd hmember hnew
    case reply => exact fun t2 t3 hmember hnone => execReply_measured h t2 t3 hmember hnone
    case time => exact fun d o tod m hleader hone hd hnone => execTime_reported h o tod hleader hone hd hnone
    case go =>
      exact fun hmember hnone cause t0 spread => ⟨execGo_inTime h hmember hnone cause spread, execGo_late h hmember hnone cause spread,
        execGo_mismatch h hmember hnone⟩
    case runs => exact fun cause t0 spread hgo ht => ⟨execJoinT0_runs h hgo ht, State.startRun_started ..⟩
    case timeout => exact fun hnone hdue => execJoinTimeout_ends h hnone hdue
    case leads =>
      intro hleader hgo hall hslot hmembers hspread htod
      have hperiod : 0 < (s.sched g).period 0 := Nat.mul_pos (by decide) (Nat.pos_of_ne_zero hslot)
      refine ⟨startAfter s.now ((s.sched g).period 0), ?_, startAfter_first _ hperiod⟩
      rw [State.lead_agreed hjoin hleader hgo hall hmembers hspread htod, State.go_joining]
      rfl

end Sys2Proof.Machine
end

section
/-! PROOFS. The queue of commands, what reset leaves, and the host's rings from the doorbell to the final status word: the statements
StepRunsFront, ResetState and RingsGiveTheirCommands. -/

namespace Sys2Proof.Machine

/-! The queue of commands and reset. -/

theorem step_cons {s : State} {c : Instr} {rest : List Instr} (h : s.pending = c :: rest) : step s = exec c { s with pending := rest } := by
  unfold step
  rw [h]

/-- Settles O1: the branch of a step with a command at the front. -/
theorem stepRunsFront : Obligations.StepRunsFront := by
  unfold Obligations.StepRunsFront
  intro s c rest h
  exact step_cons h

@[simp] theorem State.core_reset (n : Nat) : State.reset.core n = {} := rfl
@[simp] theorem State.ctx_reset (x : Nat) : State.reset.ctx x = {} := rfl

theorem State.reset_memoryCanonical : State.reset.memoryCanonical := rfl

/-- Settles O2: reset lists no core, no context and no measurement, so each reads as its default. -/
theorem resetState : Obligations.ResetState := by
  unfold Obligations.ResetState
  refine ⟨rfl, rfl, rfl, fun n => ?cores, rfl, rfl, fun k => tabGet_nil 0 k, fun x => ?ctxs, rfl, rfl, State.reset_memoryCanonical⟩
  case cores =>
    rw [State.core_reset]
    exact ⟨rfl, rfl, rfl⟩
  case ctxs => rw [State.ctx_reset]

/-! The doorbell (R366). -/

theorem State.rouse_idle {s : State} (h : s.tim.idle = 0) : s.rouse = s := if_pos h

theorem execHostRingTail_awake {s : State} (f : Fin 16) (k : Fin 4) (v : BitVec 32) (h : s.hostWrites = true) (hidle : s.tim.idle = 0) :
    execHostRingTail f k v s = .next (s.writeTail f k v) := by
  have hawake : (s.writeTail f k v).tim.idle = 0 := hidle
  unfold execHostRingTail
  rw [if_pos h, State.rouse_idle hawake]

theorem State.ring_writeTail_over {s : State} {f k : Nat} {v : Word} (h : 2 ^ (s.ring f k).sizeLog2.toNat < (v - (s.ring f k).head).toNat) :
    (s.writeTail f k v).ring f k = { s.ring f k with overflow := true } := by
  simp only [State.writeTail, if_pos h, State.ring_setRing]

theorem State.ring_writeTail_within {s : State} {f k : Nat} {v : Word} (h : (v - (s.ring f k).head).toNat ≤ 2 ^ (s.ring f k).sizeLog2.toNat) :
    (s.writeTail f k v).ring f k = { s.ring f k with tail := v } := by
  simp only [State.writeTail, if_neg (Nat.not_lt.2 h), State.ring_setRing]

theorem State.ring_writeTail_other (s : State) {f k g j : Nat} (v : Word) (h : g ≠ f ∨ j ≠ k) :
    (s.writeTail f k v).ring g j = s.ring g j := State.ring_setRing_other s _ h

/-! The control register (R365, R368, R389). -/

/-- A ring as a control write sets it up, before it is enabled (R365). -/
def Ring.setup (r : Ring) (v : Word) : Ring :=
  { r with ringVa := bit v 30, statusVa := bit v 29, sizeLog2 := BitVec.ofNat 5 (fld v 20 16), vector := BitVec.ofNat 3 (fld v 10 8) }

section Ctrl
variable {s : State} {f k : Nat} {v : Word}

theorem State.writeRingCtrl_enabled (h : (s.ring f k).enable = true) :
    s.writeRingCtrl f k v = s.setRing f k { s.ring f k with enable := bit v 31 } := if_pos h

section Setup
variable (h : (s.ring f k).enable = false) (hv : bit v 31 = true)
include h hv

theorem State.writeRingCtrl_enables (hlo : 4 ≤ fld v 20 16) (hhi : fld v 20 16 ≤ 16) :
    s.writeRingCtrl f k v = s.setRing f k { (s.ring f k).setup v with enable := true, head := 0, tail := 0 } := by
  simp [State.writeRingCtrl, Ring.setup, h, hv, hlo, hhi]

theorem State.writeRingCtrl_refuses (hsize : fld v 20 16 < 4 ∨ 16 < fld v 20 16) :
    s.writeRingCtrl f k v = s.setRing f k { (s.ring f k).setup v with cause := 1 } := by
  have hbad : ¬ (4 ≤ fld v 20 16 ∧ fld v 20 16 ≤ 16) := by omega
  simp [State.writeRingCtrl, Ring.setup, h, hv, hbad]

end Setup
end Ctrl

theorem execHostRingCtrl_writes {s : State} (f : Fin 16) (k : Fin 4) (v : BitVec 32) (h : s.hostWrites = true) :
    execHostRingCtrl f k v s = .next (s.writeRingCtrl f k v) := by
  unfold execHostRingCtrl
  rw [if_pos h]

/-! The end of a command (R373 to R376). -/

/-- What its end leaves: the commands without it, and the host's side with its status word and its interrupt. -/
theorem State.finish_host_final {s : State} {c : Cmd} {st : Status} (detail result : Nat) (hcmd : s.cmd? c.id = some c)
    (hpending : c.status = .pending) (hva : c.statusVa = false) (hmute : c.mute = false) (hlaunch : c.launch = none) (hst : st ≠ .pending)
    (hpartial : st ≠ .partialResult) :
    let y := { c with status := st, detail := BitVec.ofNat 16 detail, started := true, waiting := false }
    let d := if c.progresses then y else { y with
      progress := BitVec.ofNat 32 result, mark := BitVec.ofNat 32 (result / 2 ^ 32) }
    ∃ H, s.finish c.id st detail result = { s with cmds := s.cmds.filter (fun x => x.id != c.id), host := H } ∧
      H.mem = memWrN (memWrN s.host.mem (hostAddr c.fn (c.statusAt + 8)) (leBytes 8 d.word1)) (hostAddr c.fn c.statusAt)
        (leBytes 8 d.word0) ∧
      H.msix = s.host.msix ++ (if c.interrupt then [(c.fn, c.vector)] else []) := by
  intro y d
  refine ⟨_, State.finish_final detail result hcmd hpending hva hmute hlaunch hst hpartial, ?mem, ?msix⟩
  case mem => dsimp only
  case msix => rfl

/-! Packets (R367, R368, R370). -/

section Take
variable {s : State} {f : Fin 16} {k : Fin 4} (h : s.mayTake f k = true)
include h

theorem execPacketReadTimeout_disables : execPacketReadTimeout f k s = .next (s.disableRing f k 2) := by
  unfold execPacketReadTimeout
  rw [if_pos h]

variable (hva : (s.ring f k).ringVa = false)
include hva

theorem execPacketTake_unread : execPacketTake f k none s = .next (s.disableRing f k 2) := by
  simp [execPacketTake, h, hva]

theorem execPacketTake_read (p : Line) : execPacketTake f k (some p) s = .next (s.takePacket f k p) := by
  simp [execPacketTake, h, hva]

end Take

section Packet
variable {s : State} (f k : Nat) {p : Line}

/-- A packet whose CRC is right is in hand, its status word PENDING. -/
theorem State.takePacket_right (hcrc : crc32 ((lineBytes p).take 60) = byteFld p 0x3C 4) :
    s.takePacket f k p = (s.holdPacket f k p).post s.nextCmd := by
  simp [State.takePacket, hcrc]

/-- A packet whose CRC fails ends its command at once. -/
theorem State.takePacket_wrong (hcrc : crc32 ((lineBytes p).take 60) ≠ byteFld p 0x3C 4) :
    s.takePacket f k p = ((s.holdPacket f k p).post s.nextCmd).finish s.nextCmd .badCrc := by
  simp [State.takePacket, hcrc]

theorem State.ring_holdPacket : (s.holdPacket f k p).ring f k = { s.ring f k with head := (s.ring f k).head + 1 } :=
  State.ring_setRing ..

variable (hids : ∀ d ∈ s.cmds, d.id < s.nextCmd)
include hids

/-- A new command is found by its number. -/
theorem State.cmd?_holdPacket : (s.holdPacket f k p).cmd? (s.packetCmd f k p).id = some (s.packetCmd f k p) := by
  have hnone : s.cmds.find? (fun c => c.id == s.nextCmd) = none :=
    List.find?_eq_none.2 fun x hx => by have := hids x hx; simp; omega
  unfold State.cmd?
  rw [State.holdPacket_cmds, State.packetCmd_id, List.find?_append, hnone]
  simp

/-- Without the new command the commands in hand are those from before. -/
theorem State.holdPacket_dropped : (s.holdPacket f k p).cmds.filter (fun x => x.id != s.nextCmd) = s.cmds := by
  have hold : s.cmds.filter (fun x => x.id != s.nextCmd) = s.cmds :=
    List.filter_eq_self.2 fun x hx => by have := hids x hx; simp; omega
  rw [State.holdPacket_cmds, List.filter_append, hold]
  simp

/-- Posting the PENDING of a new command changes the host's side alone (R374). -/
theorem State.post_holdPacket (hva : (s.ring f k).statusVa = false) :
    let c := s.packetCmd f k p
    ∃ H, (s.holdPacket f k p).post s.nextCmd = { s.holdPacket f k p with host := H } ∧
      H.mem = memWrN (memWrN s.host.mem (hostAddr c.fn (c.statusAt + 8)) (leBytes 8 c.word1)) (hostAddr c.fn c.statusAt)
        (leBytes 8 c.word0) := by
  intro c
  refine ⟨_, s.post_held f k p hids hva, ?mem⟩
  case mem => dsimp only [c]

/-- A packet whose CRC fails leaves the commands in hand as they were, with HEAD past it. -/
theorem State.takePacket_dropped (hva : (s.ring f k).statusVa = false) (hcrc : crc32 ((lineBytes p).take 60) ≠ byteFld p 0x3C 4) :
    ((s.takePacket f k p).ring f k).head = (s.ring f k).head + 1 ∧ (s.takePacket f k p).cmds = s.cmds ∧ (s.takePacket f k p).mem = s.mem := by
  obtain ⟨H, hpost, -⟩ := State.post_holdPacket (p := p) f k hids hva
  have hcmd := State.cmd?_holdPacket (p := p) f k hids
  have hring := State.ring_holdPacket (s := s) (p := p) f k
  have hdropped := State.holdPacket_dropped (p := p) f k hids
  rw [State.takePacket_wrong f k hcrc, hpost]
  obtain ⟨G, hfinal, -⟩ := State.finish_host_final (s := { s.holdPacket f k p with host := H }) (st := .badCrc) 0 0 hcmd rfl hva rfl rfl
    (by decide) (by decide)
  rw [State.packetCmd_id] at hfinal
  rw [hfinal]
  exact ⟨congrArg Ring.head hring, hdropped, rfl⟩

end Packet

/-- Settles O49: each write and packet by its lemma, and the final status by `State.finish_final`. -/
theorem ringsGiveTheirCommands : Obligations.RingsGiveTheirCommands := by
  unfold Obligations.RingsGiveTheirCommands
  refine ⟨?doorbell, ?control, ?packets, ?final⟩
  case doorbell =>
    intro s f k v h hidle r
    exact ⟨_, execHostRingTail_awake f k v h hidle, State.ring_writeTail_over, State.ring_writeTail_within,
      fun g j hother => State.ring_writeTail_other s v hother, rfl, rfl, rfl⟩
  case control =>
    intro s f k v h r set
    rw [exec_hostRingCtrl, execHostRingCtrl_writes f k v h]
    exact ⟨fun hon => congrArg _ (State.writeRingCtrl_enabled hon),
      fun hoff hv hlo hhi => congrArg _ (State.writeRingCtrl_enables hoff hv hlo hhi),
      fun hoff hv hsize => congrArg _ (State.writeRingCtrl_refuses hoff hv hsize)⟩
  case packets =>
    intro s f k p htake hva r
    refine ⟨fun hstatus hids => ⟨fun hcrc => ?_, fun hcrc => ?_⟩, execPacketTake_unread htake hva, execPacketReadTimeout_disables htake⟩
    · refine ⟨_, s.packetCmd f k p, execPacketTake_read htake hva p, ?_⟩
      obtain ⟨H, hpost, hmem⟩ := State.post_holdPacket (p := p) f k hids hstatus
      rw [State.takePacket_right f k hcrc, hpost]
      exact ⟨congrArg Ring.head (State.ring_holdPacket (p := p) f k), rfl, rfl, rfl, rfl, rfl, rfl, rfl, rfl, hmem, rfl, rfl⟩
    · exact ⟨_, execPacketTake_read htake hva p, State.takePacket_dropped f k hids hstatus hcrc⟩
  case final =>
    intro s c st detail result hcmd hpending hva hmute hlaunch hst hpartial y d t
    obtain ⟨H, hfinal, hmem, hmsix⟩ := State.finish_host_final detail result hcmd hpending hva hmute hlaunch hst hpartial
    have ht : t = { s with cmds := s.cmds.filter (fun x => x.id != c.id), host := H } := hfinal
    rw [ht]
    exact ⟨rfl, hmem, hmsix, rfl, rfl, rfl⟩

end Sys2Proof.Machine
end

section
/-! PROOFS. Sharing the cores: the scheduler's choice, pre-emption, the deadline monitor, the run limit and the teardown: the statement
CoresAreShared. -/

namespace Sys2Proof.Machine

/-! The smallest virtual time (R399). -/

/-- The scan of a list for the smallest virtual time, from a context b on. -/
theorem foldl_smallestV (v : Tab Nat) (l : List Nat) (b : Nat) :
    let x := l.foldl (fun b x => if zGet v x < zGet v b then x else b) b
    x ∈ b :: l ∧ ∀ y ∈ b :: l, zGet v x ≤ zGet v y := by
  induction l generalizing b with
  | nil => simp
  | cons c l ih =>
    obtain ⟨hmem, hmin⟩ := ih (if zGet v c < zGet v b then c else b)
    rw [List.foldl_cons]
    by_cases h : zGet v c < zGet v b
    · rw [if_pos h] at hmem hmin ⊢
      have hc := hmin c List.mem_cons_self
      refine ⟨List.mem_cons_of_mem _ hmem, fun y hy => ?_⟩
      rcases List.mem_cons.1 hy with rfl | hy
      · omega
      · exact hmin y hy
    · rw [if_neg h] at hmem hmin ⊢
      have hb := hmin b List.mem_cons_self
      refine ⟨?_, fun y hy => ?_⟩
      · rcases List.mem_cons.1 hmem with hx | hx
        · exact List.mem_cons.2 (.inl hx)
        · exact List.mem_cons_of_mem _ (List.mem_cons_of_mem _ hx)
      · rcases List.mem_cons.1 hy with rfl | hy
        · exact hb
        rcases List.mem_cons.1 hy with rfl | hy
        · omega
        · exact hmin y (List.mem_cons_of_mem _ hy)

theorem smallestV_least {v : Tab Nat} {l : List Nat} {x : Nat} (h : smallestV v l = some x) : x ∈ l ∧ ∀ y ∈ l, zGet v x ≤ zGet v y := by
  cases l with
  | nil => cases h
  | cons b l =>
    cases h
    exact foldl_smallestV v l b

/-! The scheduler's decision (R399). -/

section Decision
variable {s : State} {n : Fin 576} (hserving : s.serving = true) (hassigned : (s.core n).assigned = false) (hstopped : (s.core n).stopped = false)
include hserving hassigned hstopped

theorem execSchedulerDecision_free {x : Nat} (hfree : (s.core n).resident = false)
    (hx : smallestV (s.plan n).v (s.waitingOn n) = some x) : execSchedulerDecision n s = .next (s.giveCore n x) := by
  simp [execSchedulerDecision, hserving, hassigned, hstopped, hfree, hx]

theorem execSchedulerDecision_held {x : Nat} (hres : (s.core n).resident = true) (hnext : (s.plan n).next = none)
    (hms : (s.plan n).since + 10 ^ 6 ≤ s.now)
    (hx : smallestV (s.plan n).v ((s.core n).context.toNat :: (s.waitingOn n).filter (· != (s.core n).context.toNat)) = some x) :
    execSchedulerDecision n s = .next (s.setPlan n (if x = (s.core n).context.toNat then { s.plan n with since := s.now }
      else { s.plan n with next := some x })) := by
  have hwait : ¬ ((s.plan n).next.isSome || decide (s.now < (s.plan n).since + 10 ^ 6)) = true := by
    rw [hnext]
    simpa using hms
  unfold execSchedulerDecision
  dsimp only
  rw [hserving, hassigned, hstopped, hres, if_neg (by decide), if_neg (by decide), if_neg hwait, hx]
  dsimp only
  split <;> rfl

end Decision

/-! Pre-emption (R402 to R405). -/

/-- The core once it has completed and drained what it can (R402 step 2). -/
def State.drain (s : State) (n : Nat) : State :=
  (State.drainStores n 32 (s.modCore n fun c => Core.finishVxe 64 c)).finishCopies n

/-- The kernel of a drained core is saved and the core vacated (R402 steps 3 and 4). -/
def State.saveKernel (v : State) (n : Nat) : State :=
  let c := v.core n
  let me := c.context.toNat
  let s := { v with saved := tabSet v.saved me (tabSet (tabGet [] v.saved me) n (c.toSave v.now (v.plan n).since)) }
  let s := s.modCtx me fun y => { y with switches := y.switches + 1 }
  let s := s.setCore n { c.vacant with sp := [], vxe := { elems := c.vxe.elems }, prev := none }
  s.setPlan n { s.plan n with next := none }

section Preemption
variable {s : State} {n : Fin 576} {x : Nat}

/-- The pre-emption of a core that runs, for a context that waits. -/
theorem execPreemption_drains (hnext : (s.plan n).next = some x) : execPreemption n s = .next (
    if !s.live n || s.quiet n then s
    else if !(s.waitingOn n).contains x then s.setPlan n { s.plan n with next := none }
    else if !(s.drain n).live n || !(s.drain n).drained n then s.drain n
    else ((s.drain n).saveKernel n).giveCore n x) := by
  unfold execPreemption State.drain State.saveKernel
  rw [hnext]

theorem execPreemption_saves (hnext : (s.plan n).next = some x) (hlive : s.live n = true) (hquiet : s.quiet n = false)
    (hwaits : (s.waitingOn n).contains x = true) (hstill : (s.drain n).live n = true) (hdrained : (s.drain n).drained n = true) :
    execPreemption n s = .next (((s.drain n).saveKernel n).giveCore n x) := by
  rw [execPreemption_drains hnext, hlive, hquiet, hwaits, hstill, hdrained, if_neg (by decide), if_neg (by decide), if_neg (by decide)]

end Preemption

section Saved
variable (v : State) (n : Nat)

theorem State.saveKernel_savedOn :
    (v.saveKernel n).savedOn (v.core n).context.toNat n = some ((v.core n).toSave v.now (v.plan n).since) := by
  simp [State.saveKernel, State.savedOn]

theorem State.saveKernel_switches :
    ((v.saveKernel n).ctx (v.core n).context.toNat).switches = (v.ctx (v.core n).context.toNat).switches + 1 := by
  simp only [State.saveKernel, State.ctx_setPlan, State.ctx_setCore, State.ctx_modCtx]
  rfl

theorem State.saveKernel_vacant : ((v.saveKernel n).core n).resident = false ∧ ((v.saveKernel n).core n).sp = [] := by
  simp [State.saveKernel, Core.vacant]

theorem State.saveKernel_next : ((v.saveKernel n).plan n).next = none := by
  simp [State.saveKernel]

theorem State.saveKernel_core_other {m : Nat} (h : m ≠ n) : (v.saveKernel n).core m = v.core m := by
  simp only [State.saveKernel, State.core_setPlan, State.core_setCore_other _ _ (Ne.symm h), State.core_modCtx]
  rfl

theorem State.saveKernel_mem : (v.saveKernel n).mem = v.mem := rfl

end Saved

/-! The deadline monitor (R408, R409) and the run limit (R380). -/

section Launches
variable {s : State} {f : Fin 16} {k : Fin 4} {i : BitVec 32} {c : Cmd} {l : Launch}

section Executed
variable (hcmd : s.cmdAt f k i.toNat = some c) (hlaunch : c.launch = some l) (hserving : s.serving = true)
include hcmd hlaunch hserving

theorem execDeadlineEvaluation_evaluates (htear : (s.ctx c.ctx).state ≠ .tearing) :
    execDeadlineEvaluation f k i s = .next (s.evaluate c l) := by
  have hgoes : ¬ (!s.serving || (s.ctx c.ctx).state == .tearing) = true := by simp [hserving, htear]
  unfold execDeadlineEvaluation
  rw [hcmd]
  dsimp only
  rw [hlaunch]
  dsimp only
  rw [if_neg hgoes]

theorem execRunLimitExpiry_tears (hlimit : l.startAt + l.runLimit * 10 ^ 6 ≤ s.now) (htear : (s.ctx c.ctx).tear = none) :
    execRunLimitExpiry f k i s = .next (s.setCtx c.ctx { s.ctx c.ctx with
      state := .tearing, tear := some { cause := .runLimit, cmd := some c.id, started := s.now } }) := by
  have hpast : ¬ (!s.serving || decide (s.now < l.startAt + l.runLimit * 10 ^ 6)) = true := by
    rw [hserving]
    simpa using hlimit
  unfold execRunLimitExpiry
  rw [hcmd]
  dsimp only
  rw [hlaunch]
  dsimp only
  rw [if_neg hpast, State.tear, State.modCtx, htear]
  rfl

end Executed

theorem State.evaluate_noDeadline (h : s.deadlineOf l = none) : s.evaluate c l = s := by
  unfold State.evaluate
  rw [h]

/-- The LAUNCH is switched to its fallback when the primary's projection or the fallback's own duration passes the deadline. -/
theorem State.evaluate_switches {d : Nat} {p : Kernel} (hd : s.deadlineOf l = some d) (hfall : l.fall = some p) (hprim : l.switched = false) :
    let m := { l with late := l.late || decide (d < s.now) }
    let u := if d < s.now then s.noteLate c l else s
    d < u.projection c m ∨ d ≤ s.now + (u.ctx c.ctx).longest p.desc + 100000 → s.evaluate c l = u.switchModel c m p := by
  intro m u hpast
  have hnow : (if d < s.now then s.noteLate c l else s).now = s.now := by
    unfold State.noteLate
    dsimp only
    split
    · split <;> rfl
    · rfl
  have hgoes : (!l.switched && (decide (d < u.projection c m) || decide (d ≤ s.now + (u.ctx c.ctx).longest p.desc + 100000))) = true := by
    simpa [hprim] using hpast
  unfold State.evaluate
  rw [hd]
  dsimp only
  split
  case h_1 hnone => cases hnone.symm.trans hfall
  case h_2 q hq =>
    cases hq.symm.trans hfall
    rw [hnow]
    exact if_pos hgoes

end Launches

/-! Teardown (R411, R412). -/

/-- Every core of a context stops. -/
def State.stopCores (s : State) (l : List Nat) : State := l.foldl (fun s n => s.modCore n fun c => { c with stopped := true }) s

theorem State.stopCores_stopped (l : List Nat) (s : State) (n : Nat) (h : n ∈ l ∨ (s.core n).stopped = true) :
    ((s.stopCores l).core n).stopped = true := by
  induction l generalizing s with
  | nil => simpa [State.stopCores] using h
  | cons m l ih =>
    refine ih _ ?_
    by_cases hm : m = n
    · subst hm
      exact .inr (by rw [State.core_modCore])
    · rw [State.core_modCore_other _ _ hm]
      rcases h with h | h
      · exact .inl ((List.mem_cons.1 h).resolve_left (Ne.symm hm))
      · exact .inr h

theorem State.stopCores_mem (s : State) (l : List Nat) : (s.stopCores l).mem = s.mem := by
  unfold State.stopCores
  refine foldl_keeps State.mem _ (fun s n => ?_) l s
  rfl
theorem State.stopCores_ctxs (s : State) (l : List Nat) : (s.stopCores l).ctxs = s.ctxs := by
  unfold State.stopCores
  refine foldl_keeps State.ctxs _ (fun s n => ?_) l s
  rfl


/-- A context's teardown goes on to a step. -/
theorem State.setStep_tear {s : State} {k j : Nat} {t : Teardown} (h : (s.ctx k).tear = some t) :
    s.setStep k j = s.setCtx k { s.ctx k with tear := some { t with step := j } } := by
  rw [State.setStep, State.modCtx, h]
  rfl

section Teardown
variable {s : State} {k : Nat} {t : Teardown} (htear : (s.ctx k).tear = some t)
include htear

theorem State.tearStep_stops (h : t.step = 0) : s.tearStep k =
    ({ s.stopCores (s.ctxCores k) with saved := tabDel (s.stopCores (s.ctxCores k)).saved k } : State).setStep k 1 := by
  unfold State.tearStep
  rw [htear]
  dsimp only
  rw [h]
  rfl

/-- Step 0: the context's cores have stopped, and nothing of it is saved. -/
theorem State.tearStep_stopped (h : t.step = 0) : ((s.tearStep k).ctx k).tear = some { t with step := 1 } ∧ tabGet? (s.tearStep k).saved k = none ∧
    (∀ n ∈ s.ctxCores k, ((s.tearStep k).core n).stopped = true) ∧ (s.tearStep k).mem = s.mem := by
  have hctx : (({ s.stopCores (s.ctxCores k) with saved := tabDel (s.stopCores (s.ctxCores k)).saved k } : State).ctx k).tear = some t := by
    unfold State.ctx
    rw [State.stopCores_ctxs]
    exact htear
  rw [State.tearStep_stops htear h, State.setStep_tear hctx]
  refine ⟨by rw [State.ctx_setCtx], ?_, fun n hn => State.stopCores_stopped _ _ _ (.inl hn), s.stopCores_mem _⟩
  exact (tabGet?_tabDel _ _ _).trans (if_pos rfl)

theorem State.tearStep_answered (h : t.step = 1) (hanswered : s.answered k = true) :
    s.tearStep k = s.setCtx k { s.ctx k with tear := some { t with step := 2 } } := by
  unfold State.tearStep
  rw [htear]
  dsimp only
  rw [h]
  exact (if_pos hanswered).trans (State.setStep_tear htear)

theorem State.tearStep_releases (h : t.step = 2) : s.tearStep k = (s.release k t).setStep k 3 := by
  unfold State.tearStep
  rw [htear]
  dsimp only
  rw [h]
  rfl

theorem State.tearStep_statuses (h : t.step = 3) : s.tearStep k = (s.tearStatuses k t).setStep k 4 := by
  unfold State.tearStep
  rw [htear]
  dsimp only
  rw [h]
  rfl

theorem State.tearStep_ends (h : t.step = 4) : s.tearStep k = s.tearEnd k t := by
  unfold State.tearStep
  rw [htear]
  dsimp only
  rw [h]
  rfl

end Teardown

section TearEnd
variable {s : State} {k : Nat} {t : Teardown}

theorem State.tearEnd_faulted (h : t.cause = .fault ∨ t.cause = .runLimit) :
    s.tearEnd k t = s.setCtx k { s.ctx k with state := .faulted, tear := none, reason := t.reason } := by
  unfold State.tearEnd
  rcases h with h | h <;> rw [h] <;> rfl

theorem State.tearEnd_reset (h : t.cause = .flr) : s.tearEnd k t = s.setCtx k (s.ctx k).freed := by
  unfold State.tearEnd
  rw [h]
  rfl

theorem State.tearEnd_destroyed {id : Nat} (h : t.cause = .destroy) (hcmd : t.cmd = some id) :
    s.tearEnd k t = (s.setCtx k (s.ctx k).freed).finish id .ok := by
  unfold State.tearEnd
  rw [h, hcmd]
  rfl

end TearEnd

theorem execTeardown_steps {s : State} (k : BitVec 8) (h : s.serving = true) : execTeardown k s = .next (s.tearStep k.toNat) := by
  simp [execTeardown, h]

/-- Settles O54: each decision by its lemma, and the teardown step by step. -/
theorem coresAreShared : Obligations.CoresAreShared := by
  unfold Obligations.CoresAreShared
  refine ⟨?decides, fun v l x => smallestV_least, ?preempts, ?launches, ?teardown⟩
  case decides =>
    intro s n x hserving hassigned hstopped
    exact ⟨execSchedulerDecision_free hserving hassigned hstopped, execSchedulerDecision_held hserving hassigned hstopped⟩
  case preempts =>
    intro s n x hnext hlive hquiet hwaits v c me hstill hdrained
    have hv : v = s.drain n := rfl
    clear_value v
    subst hv
    obtain ⟨hres, hsp⟩ := (s.drain n).saveKernel_vacant n
    exact ⟨_, execPreemption_saves hnext hlive hquiet hwaits hstill hdrained, State.saveKernel_savedOn _ n, State.saveKernel_switches _ n,
      hres, hsp, State.saveKernel_next _ n, fun m hm => State.saveKernel_core_other _ n hm, State.saveKernel_mem _ n⟩
  case launches =>
    intro s f k i c l hcmd hlaunch hserving
    exact ⟨execDeadlineEvaluation_evaluates hcmd hlaunch hserving, State.evaluate_noDeadline,
      fun d hd p hfall hprim => State.evaluate_switches hd hfall hprim, execRunLimitExpiry_tears hcmd hlaunch hserving⟩
  case teardown =>
    intro s k t hserving htear
    rw [exec_teardown, execTeardown_steps k hserving]
    refine ⟨fun h => ⟨_, rfl, State.tearStep_stopped htear h⟩, fun h hanswered => congrArg _ (State.tearStep_answered htear h hanswered),
      fun h => congrArg _ (State.tearStep_releases htear h), fun h => congrArg _ (State.tearStep_statuses htear h), fun h hcause => ?fault,
      fun h hcause => ?flr, fun id h hcause hcmd => ?destroy⟩
    case fault => rw [State.tearStep_ends htear h, State.tearEnd_faulted hcause]
    case flr => rw [State.tearStep_ends htear h, State.tearEnd_reset hcause]
    case destroy => rw [State.tearStep_ends htear h, State.tearEnd_destroyed hcause hcmd]

end Sys2Proof.Machine
end

section
/-! PROOFS. Hangs, resets and recoveries: what a fault of class 2 or 3 makes due, the stop of a recovery, its first and its last step,
its overrun, and fault notices: the statement RecoveriesRunTheirSteps. -/

namespace Sys2Proof.Machine

/-! The recovery that a fault makes due (R20, R458). -/

/-- A fault above what is due or runs governs: its recovery is due, its record stands, and the rest of the recovery's state stays. -/
theorem State.arise_governs {s : State} {cls : Nat} (r : FaultRec) (hstate : s.recov.state = 0 ∨ s.recov.state = 1)
    (hcls : (if s.recov.state = 0 then s.recov.due else s.recov.state.toNat + 1) < cls) :
    ∃ L d cov, s.arise cls r = { s with log := L, recov := { s.recov with due := cls, record := s.log.next.toNat, detected := d, covers := cov } } ∧
      L.next = s.log.next + 1 ∧
      tabGet? L.recs s.log.next.toNat = some { FaultRec.govern { r with cls := BitVec.ofNat 8 cls } with time := s.tim.now } := by
  have h2 : s.recov.state ≠ 2 := by rcases hstate with h | h <;> rw [h] <;> decide
  have h3 : s.recov.state ≠ 3 := by rcases hstate with h | h <;> rw [h] <;> decide
  unfold State.arise
  dsimp only
  rw [if_neg h3, if_neg h2, if_neg (Nat.not_le.2 hcls)]
  obtain ⟨L, hmod, hnext⟩ := State.modRecords_same
    (s.openFaults ++ if (if s.recov.state = 0 then s.recov.due else s.recov.state.toNat + 1) = 0 then [] else [s.recov.record]) s FaultRec.subsume
  have hat := State.record_at { s with log := L } (FaultRec.govern { r with cls := BitVec.ofNat 8 cls })
  rw [hmod, ← hnext]
  exact ⟨_, _, _, rfl, rfl, hat⟩

/-! The stop (R455, R459). -/

/-- A fold whose every step changes one part of the state changes that part alone. -/
theorem foldl_puts {α β γ : Type} (put : α → γ → α) (hsame : ∀ a, ∃ c, a = put a c) (hput : ∀ a c d, put (put a c) d = put a d) {g : α → β → α}
    (hg : ∀ a b, ∃ c, g a b = put a c) (l : List β) (a : α) : ∃ c, l.foldl g a = put a c := by
  induction l generalizing a with
  | nil => exact hsame a
  | cons b l ih =>
    obtain ⟨c, hc⟩ := hg a b
    obtain ⟨d, hd⟩ := ih (g a b)
    exact ⟨d, by rw [List.foldl_cons, hd, hc, hput]⟩

/-- The state with another cache, other memory, another fabric. -/
def State.putCache (s : State) (K : Cache) : State := { s with cache := K }
def State.putMem (s : State) (M : Memory) : State := { s with mem := M }
def State.putFab (s : State) (F : Fabric) : State := { s with fab := F }

theorem State.refuseAll_cache (s : State) (n : Nat) : ∃ K, s.refuseAll n = s.putCache K := by
  unfold State.refuseAll
  exact foldl_puts State.putCache (fun s => ⟨s.cache, rfl⟩) (fun _ _ _ => rfl) (fun _ _ => ⟨_, rfl⟩) _ (s.setSlice n _)

theorem State.refuseEach_cache (s : State) (ps : Tab Slice) : ∃ K, ps.foldl (fun s p => s.refuseAll p.1) s = s.putCache K :=
  foldl_puts State.putCache (fun s => ⟨s.cache, rfl⟩) (fun _ _ _ => rfl) (fun s p => s.refuseAll_cache p.1) ps s

theorem State.moveChans_mem (s : State) (old new : BitVec 4) : ∃ M, s.moveChans old new = s.putMem M := by
  refine foldl_puts State.putMem (fun s => ⟨s.mem, rfl⟩) (fun _ _ _ => rfl) (fun s n => ?_) (List.range 256) s
  split
  · exact ⟨_, rfl⟩
  · exact ⟨s.mem, rfl⟩

theorem State.giveNotice_fab (s : State) (g : Nat) : ∃ F, s.giveNotice g = s.putFab F := by
  unfold State.giveNotice
  dsimp only
  split
  · exact ⟨s.fab, rfl⟩
  · exact foldl_puts State.putFab (fun s => ⟨s.fab, rfl⟩) (fun _ _ _ => rfl) (fun s d => s.sendJoin_same ..) _ s

theorem State.errorInbound_fab (s : State) : ∃ F, s.errorInbound = s.putFab F :=
  foldl_puts State.putFab (fun s => ⟨s.fab, rfl⟩) (fun _ _ _ => rfl) (fun s _ => s.depart_same ..) s.fab.inbound
    { s with fab := { s.fab with inbound := [] } }

/-- The cores of a halted device. -/
def State.stoppedCores (s : State) : Tab Core := s.cores.map fun p => (p.1, { p.2 with stopped := true })

theorem State.stoppedCores_stopped (s : State) : ∀ c ∈ s.stoppedCores, c.2.stopped = true := by
  intro c hc
  obtain ⟨p, -, rfl⟩ := List.mem_map.1 hc
  rfl

/-- The first half of the stop: slices refuse, cores stop, the device is awake. -/
def State.stopParts (s : State) : State :=
  let t := if s.cache.coh.down then s else s.cache.slices.foldl (fun s p => s.refuseAll p.1) s
  { t with
    cores := t.stoppedCores
    cache := { t.cache with coh := { t.cache.coh with down := true } }
    tim := { t.tim with idle := 0, wakeEnd := none, held := 0 } }

/-- Schedules that run stop. -/
def State.stopScheds (s : State) : State :=
  { s with sol := { s.sol with sched := s.sol.sched.map fun p =>
    (p.1, if p.2.state = 3 || p.2.state == 4 then { p.2 with state := 5 } else p.2) } }

/-- The second half of the stop: notices leave, schedules stop, what waits for an answer gets an error. -/
def State.tellStop (s : State) : State :=
  ((([0, 1, 2, 3].foldl State.giveNotice (s.moveChans 3 2)).stopScheds.errorInbound).errorHeld 0).errorHeld 1

theorem State.halt_halves (s : State) : s.halt = s.stopParts.tellStop := by
  unfold State.halt State.stopParts State.tellStop State.stopScheds State.stoppedCores
  with_reducible rfl

theorem State.stopParts_same (s : State) : ∃ K T, s.stopParts = { s with cores := s.stoppedCores, cache := K, tim := T } ∧ K.coh.down = true := by
  obtain ⟨K, hrefuse⟩ : ∃ K, (if s.cache.coh.down then s else s.cache.slices.foldl (fun s p => s.refuseAll p.1) s) = s.putCache K := by
    split
    · exact ⟨s.cache, rfl⟩
    · exact s.refuseEach_cache _
  unfold State.stopParts
  rw [hrefuse]
  exact ⟨_, _, rfl, rfl⟩

theorem State.tellStop_same (s : State) : ∃ M F L O, s.tellStop = { s with mem := M, fab := F, links := L, sol := O } := by
  obtain ⟨M, hchans⟩ := s.moveChans_mem 3 2
  obtain ⟨F, hnotices⟩ := foldl_puts State.putFab (fun s => ⟨s.fab, rfl⟩) (fun _ _ _ => rfl) State.giveNotice_fab [0, 1, 2, 3] (s.putMem M)
  obtain ⟨G, hinbound⟩ := ((s.putMem M).putFab F).stopScheds.errorInbound_fab
  unfold State.tellStop
  rw [hchans, hnotices, hinbound]
  exact ⟨_, _, _, _, rfl⟩

/-- The stop of a recovery stops the cores, takes the coherent domain down and wakes the device; of the rest it changes links, memory
channels, fabric and schedules alone. -/
theorem State.halt_same (s : State) : ∃ K M T L F O, s.halt =
      { s with cores := s.stoppedCores, cache := K, mem := M, tim := T, links := L, fab := F, sol := O } ∧ K.coh.down = true := by
  obtain ⟨K, T, hparts, hdown⟩ := s.stopParts_same
  obtain ⟨M, F, L, O, htell⟩ := s.stopParts.tellStop_same
  refine ⟨K, M, T, L, F, O, ?_, hdown⟩
  rw [State.halt_halves, htell, hparts]

/-! Hangs (R449, R451). -/

/-- What a declared hang leaves: its flag, the compute-part reset due, and the record that governs. -/
def State.hung (s t : State) : Prop :=
  t.mw.hang = true ∧ t.recov.due = 2 ∧ t.log.next = s.log.next + 1 ∧
    (∃ r, tabGet? t.log.recs t.recov.record = some r ∧ r.cls = 2 ∧ r.cause = 0x07 ∧ r.tagValid = false) ∧ t.mem = s.mem

theorem State.declareHang_hung {s : State} (hstate : s.recov.state = 0) (hdue : s.recov.due < 2) : s.hung s.declareHang := by
  obtain ⟨L, d, cov, harise, hnext, hrec⟩ := State.arise_governs (cls := 2) (FaultRec.untagged s 0x07 s.mw.lastBeat.toNat) (.inl hstate)
    (by rwa [if_pos hstate])
  unfold State.declareHang
  rw [if_pos hstate, harise]
  exact ⟨rfl, rfl, hnext, ⟨_, hrec, rfl, rfl, rfl⟩, rfl⟩

theorem execMidwinterHang_declares {s : State} (hon : s.sup.on = true) (hboot : s.hub.bootStatus = 0)
    (hbeat : s.mw.lastBeat.toNat + 5 * 10 ^ 7 ≤ s.now) : execMidwinterHang s = .next s.declareHang := by
  have hlate : ¬ (!s.sup.on || s.hub.bootStatus != 0 || decide (s.now < s.mw.lastBeat.toNat + 5 * 10 ^ 7)) = true := by
    rw [hon, hboot]
    simpa using hbeat
  unfold execMidwinterHang
  rw [if_neg hlate]

theorem State.declareHang_ignored {s : State} (hstate : s.recov.state ≠ 0) : s.declareHang = s := if_neg hstate

/-- What FORCE_HANG writes beside it: the size of the samples. -/
def State.setSample (s : State) (v : Word) : State :=
  if fld v 6 0 ≤ 64 then { s with mw := { s.mw with sampleKib := BitVec.ofNat 7 (fld v 6 0) } } else s

theorem State.setSample_same (s : State) (v : Word) : ∃ k, s.setSample v = { s with mw := { s.mw with sampleKib := k } } := by
  unfold State.setSample
  split
  · exact ⟨_, rfl⟩
  · exact ⟨s.mw.sampleKib, rfl⟩

theorem State.writeMwCtrl_physical (s : State) (v : Word) : s.writeMwCtrl 0 v = if bit v 31 then (s.setSample v).declareHang else s.setSample v := rfl

theorem State.writeMwCtrl_virtual {s : State} {f : Nat} (v : Word) (h : f ≠ 0) : s.writeMwCtrl f v = s := if_pos h

theorem execForceHang_writes {s : State} (f : Fin 16) (v : BitVec 32) (h : s.hostWrites = true) :
    execForceHang f v s = .next (s.writeMwCtrl f v) := by
  unfold execForceHang
  rw [if_pos h]

theorem State.writeMwCtrl_hung {s : State} {v : Word} (hstate : s.recov.state = 0) (hdue : s.recov.due < 2) (hforce : bit v 31 = true) :
    s.hung (s.writeMwCtrl 0 v) := by
  obtain ⟨k, hsample⟩ := s.setSample_same v
  rw [State.writeMwCtrl_physical, if_pos hforce, hsample]
  exact State.declareHang_hung hstate hdue

/-- During a recovery a write of MW_CTRL declares nothing. -/
theorem State.writeMwCtrl_recovering {s : State} (f : Nat) (v : Word) (hstate : s.recov.state ≠ 0) :
    (s.writeMwCtrl f v).mw.hang = s.mw.hang ∧ (s.writeMwCtrl f v).recov = s.recov ∧ (s.writeMwCtrl f v).log = s.log := by
  by_cases hf : f = 0
  · obtain ⟨k, hsample⟩ := s.setSample_same v
    have hsame : s.writeMwCtrl 0 v = s.setSample v := by
      rw [State.writeMwCtrl_physical, State.declareHang_ignored (by rwa [hsample]), ite_self]
    rw [hf, hsame, hsample]
    exact ⟨rfl, rfl, rfl⟩
  · rw [State.writeMwCtrl_virtual v hf]
    exact ⟨rfl, rfl, rfl⟩

/-! The compute-part reset (R455). -/

/-- The recovery of a compute-part reset that begins. -/
def Recovery.beginReset (r : Recovery) : Recovery :=
  { r with state := 1, step := 1, due := 0, computeResets := BitVec.ofNat 8 (min 255 (r.computeResets.toNat + 1)) }

section Reset
variable {s : State} (bist : List (Fin 48 × BitVec 13)) (hon : s.sup.on = true) (hpart : s.sup.partOff = false)

section Executed
include hon hpart

theorem execComputePartReset_begins (hstate : s.recov.state = 0) (hdue : s.recov.due = 2) :
    execComputePartReset bist s = .next ({ s with recov := s.recov.beginReset } : State).halt := by
  simp [execComputePartReset, hon, hpart, hstate, hdue, State.computeStep, Recovery.beginReset]

theorem execComputePartReset_continues (hstate : s.recov.state = 1) (hdue : s.recov.due ≠ 3) : execComputePartReset bist s =
    .next (({ s with recov := { s.recov with step := s.recov.step + 1 } } : State).computeStep (s.recov.step.toNat + 1) bist) := by
  simp [execComputePartReset, hon, hpart, hstate, hdue]

end Executed

theorem State.computeStep_last (s : State) : s.computeStep 8 bist =
    (if (s.endCommands.endRecovery s.recov.memLost).hub.shortRow.isSome then
      (s.endCommands.endRecovery s.recov.memLost).outOfService else s.endCommands.endRecovery s.recov.memLost) := by
  simp only [State.computeStep]

/-- After its last step the device is in service, or out of it for want of cores, and beats count from now. -/
theorem State.computeStep_ends (s : State) : ((s.computeStep 8 bist).recov.state = 0 ∨ (s.computeStep 8 bist).recov.state = 3) ∧
    (s.computeStep 8 bist).recov.due = 0 ∧ (s.computeStep 8 bist).mw.lastBeat = (s.computeStep 8 bist).tim.now := by
  rw [State.computeStep_last]
  split
  · exact ⟨.inr rfl, rfl, rfl⟩
  · exact ⟨.inl rfl, rfl, rfl⟩

end Reset

/-- A reset that overruns its bound makes a full recovery due (R450). -/
theorem execResetOverrun_due {s : State} (hstate : s.recov.state = 1) (hdue : s.recov.due ≠ 3) (htime : s.recov.detected + 25 * 10 ^ 7 ≤ s.now) :
    ∃ t, execResetOverrun s = .next t ∧ t.mw.overrun = true ∧ t.recov.due = 3 ∧ t.recov.state = 1 ∧ t.mem = s.mem := by
  have hover : (decide (s.recov.state = 1) && s.recov.due != 3 && decide (s.recov.detected + 25 * 10 ^ 7 ≤ s.now)) = true := by
    simpa [hstate, hdue] using htime
  obtain ⟨L, d, cov, harise, -, -⟩ := State.arise_governs (s := { s with mw := { s.mw with overrun := true } }) (cls := 3)
    { FaultRec.untagged { s with mw := { s.mw with overrun := true } } 0x15 s.recov.step.toNat with die := BitVec.ofNat 8 7 } (.inr hstate)
    (by simp [hstate])
  unfold execResetOverrun
  rw [if_pos hover, State.deviceFault, harise]
  exact ⟨_, rfl, rfl, rfl, hstate, rfl⟩

/-! The full recovery (R450, R462). -/

section Full
variable {s : State} {x : RecoveryInputs}

section Executed
variable (hon : s.sup.on = true) (hpart : s.sup.partOff = false) (hcool : s.pwr.therm = false ∨ x.cool = true)
include hon hpart hcool

theorem execFullRecovery_steps {k : Nat} (hnext : s.fullNext = some k) : execFullRecovery x s = .next
    (({ (if s.recov.state = 2 then s else s.beginFull) with
        recov := { (if s.recov.state = 2 then s else s.beginFull).recov with step := BitVec.ofNat 4 k } } : State).fullStep k x) := by
  have hgoes : ¬ (!s.sup.on || s.sup.partOff || (s.pwr.therm && !x.cool)) = true := by
    rw [hon, hpart]
    rcases hcool with h | h <;> simp [h]
  unfold execFullRecovery
  rw [if_neg hgoes, hnext]

end Executed

theorem State.fullNext_first (hstate : s.recov.state = 0) (hdue : s.recov.due = 3) : s.fullNext = some 1 := by
  simp [State.fullNext, hstate, hdue]

theorem State.fullNext_last (hstate : s.recov.state = 2) (hstep : s.recov.step = 7) : s.fullNext = some 8 := by
  simp [State.fullNext, hstate, hstep]

theorem State.fullStep_first (s : State) : s.fullStep 1 x = s.halt := by simp only [State.fullStep]

theorem State.fullStep_last (s : State) : s.fullStep 8 x =
    ((if !s.recov.refreshed then s.loseMemory x.image else s.settleCtxs true).endCommands).endRecovery (!s.recov.refreshed) := by
  simp only [State.fullStep]

end Full

/-- A full recovery that overruns its bound leaves the device out of service. -/
theorem execRecoveryOverrun_leaves {s : State} (hstate : s.recov.state = 2) (hpart : s.sup.partOff = false)
    (htime : s.recov.started + 6 * 10 ^ 9 ≤ s.now) : execRecoveryOverrun s = .next s.outOfService := by
  have hover : (decide (s.recov.state = 2) && !s.sup.partOff && decide (s.recov.started + 6 * 10 ^ 9 ≤ s.now)) = true := by
    simpa [hstate, hpart] using htime
  unfold execRecoveryOverrun
  rw [if_pos hover]

/-! Fault notices (R460). -/

/-- The record of a notice. -/
def State.noticeRec (s : State) (g : Nat) (n : Line) : FaultRec :=
  { cls := 4, cause := BitVec.ofNat 8 (lineRd n 2 1), status := BitVec.ofNat 8 Status.faulted.code, tagValid := true
    context := BitVec.ofNat 8 (s.sched g).joinCtx, partition := (s.ctx (s.sched g).joinCtx).partition, srcDevice := BitVec.ofNat 16 (lineRd n 4 2) }

/-- A notice stops its job's schedule and is recorded; with no join under way and no LAUNCH in hand it does no more. -/
theorem execFaultNotice_stops {s : State} {n : BitVec 512} {g : Nat} (hon : s.sup.on = true) (hshut : s.shut = false) (hkind : lineRd n 0 1 = 0x10)
    (hcrc : crc32 ((lineBytes n).take 60) = lineRd n 0x3C 4) (hg : s.noticed n = some g) (hjoin : (s.sched g).joining = none)
    (hlaunch : ∀ c ∈ s.cmds, c.launch = none) :
    execFaultNotice n s = .next ((s.setSched g { s.sched g with state := 5 }).record (s.noticeRec g n)).2 := by
  have hmatches : ¬ (!s.sup.on || s.shut || lineRd n 0 1 != 0x10 || crc32 ((lineBytes n).take 60) != lineRd n 0x3C 4) = true := by
    simp [hon, hshut, hkind, hcrc]
  have hnone : s.cmds.filter (fun c => c.launch.isSome && (s.streamCtxs g).contains c.ctx) = [] :=
    List.filter_eq_nil_iff.2 fun c hc => by simp [hlaunch c hc]
  unfold execFaultNotice
  rw [if_neg hmatches, hg]
  dsimp only
  split
  case h_1 j hj => cases hj.symm.trans hjoin
  case h_2 =>
    rw [hnone]
    rfl

/-- Settles O56: each command by its lemma, the first step of either recovery by `State.halt_same`. -/
theorem recoveriesRunTheirSteps : Obligations.RecoveriesRunTheirSteps := by
  unfold Obligations.RecoveriesRunTheirSteps
  refine ⟨?hangs, ?force, ?reset, ?resetOverrun, ?full, ?fullOverrun, ?notice⟩
  case hangs =>
    intro s hstate hdue hangs
    refine ⟨fun hon hboot hbeat => ?_, fun v hwrites hforce => ?_⟩
    · exact ⟨_, execMidwinterHang_declares hon hboot hbeat, State.declareHang_hung hstate hdue⟩
    · exact ⟨_, execForceHang_writes 0 v hwrites, State.writeMwCtrl_hung hstate hdue hforce⟩
  case force =>
    intro s f v hwrites
    rw [exec_forceHang, execForceHang_writes f v hwrites]
    refine ⟨fun hf => ?_, fun hstate => ⟨_, rfl, State.writeMwCtrl_recovering f v hstate⟩⟩
    rw [State.writeMwCtrl_virtual v fun h => hf (Fin.ext h)]
  case reset =>
    intro s bist hon hpart
    refine ⟨fun hstate hdue => ?_, fun hstate hdue _ => execComputePartReset_continues bist hon hpart hstate hdue, fun hstate hdue hstep => ?_⟩
    · obtain ⟨K, M, T, L, F, O, hhalt, hdown⟩ := State.halt_same { s with recov := s.recov.beginReset }
      refine ⟨_, execComputePartReset_begins bist hon hpart hstate hdue, ?_⟩
      have hbytes := State.halt_bytes { s with recov := s.recov.beginReset }
      rw [hhalt] at hbytes ⊢
      exact ⟨rfl, rfl, rfl, rfl, State.stoppedCores_stopped s, hdown, hbytes⟩
    · refine ⟨_, execComputePartReset_continues bist hon hpart hstate hdue, ?_⟩
      rw [hstep]
      exact State.computeStep_ends bist _
  case resetOverrun => exact fun s hstate hdue htime => execResetOverrun_due hstate hdue htime
  case full =>
    intro s x hon hpart hcool
    refine ⟨fun hstate hdue => ?_, fun hstate hstep => ?_⟩
    · refine ⟨_, execFullRecovery_steps hon hpart hcool (State.fullNext_first hstate hdue), ?_⟩
      rw [State.fullStep_first, if_neg (by rw [hstate]; decide)]
      obtain ⟨K, M, T, L, F, O, hhalt, -⟩ := State.halt_same { s.beginFull with recov := { s.beginFull.recov with step := BitVec.ofNat 4 1 } }
      rw [hhalt]
      exact ⟨rfl, rfl, rfl, rfl, rfl, rfl, State.stoppedCores_stopped s⟩
    · refine ⟨_, execFullRecovery_steps hon hpart hcool (State.fullNext_last hstate hstep), ?_⟩
      rw [State.fullStep_last, if_pos hstate]
      exact ⟨rfl, rfl, rfl⟩
  case fullOverrun => exact fun s hstate hpart htime => ⟨_, execRecoveryOverrun_leaves hstate hpart htime, rfl, rfl, rfl⟩
  case notice =>
    intro s n g hon hshut hkind hcrc hg hjoin hlaunch
    refine ⟨_, execFaultNotice_stops hon hshut hkind hcrc hg hjoin hlaunch, ?_, rfl, rfl, rfl, _, State.record_at _ _, rfl, rfl, rfl⟩
    exact congrArg Schedule.state (State.sched_setSched s g _)

end Sys2Proof.Machine
end

section
/-! PROOFS. Power-up and boot: the always-on domain leaves reset, each step that fails, what boot leaves where all succeed: the
statement BootEntersService. -/

namespace Sys2Proof.Machine

/-! Power-up (R491, R492). -/

section PowerUp
variable {s : State} (hoff : s.sup.on = false) (hpwr : s.sup.pwrOk = true) (hreset : s.sup.resetN = true)
include hoff hpwr hreset

theorem execPowerUp_leavesReset (hmain : s.sup.mainOk = true) :
    execPowerUp s = .next { s with sup := { s.sup with on := true }, host := { s.host with linkUp := s.sup.refclkOk } } := by
  simp [execPowerUp, hoff, hpwr, hreset, hmain]

theorem execPowerUp_waits (hmain : s.sup.mainOk = false) :
    execPowerUp s = .next { s with sup := { s.sup with pwrOkBad := true } } := by
  simp [execPowerUp, hoff, hpwr, hreset, hmain]

end PowerUp

/-! Steps that fail (R476, R477). -/

/-- A boot that has failed: BOOT_STATUS is FAULTED, and the lock is set. -/
def State.bootFailed (s : State) : Prop := s.hub.bootStatus = 0x31 ∧ s.sec.locked = true

theorem State.bootFail_failed (s : State) (reason : Nat) : (s.bootFail reason).bootFailed := ⟨rfl, rfl⟩
theorem State.endBoot_failed (s : State) : (s.endBoot 0x31).bootFailed := ⟨rfl, rfl⟩

section Steps
variable {s t : State} {b : BootInputs}

/-- Without a seed boot ends with reason 1. -/
theorem State.bootImage_seedless (h : b.seed = false) : s.bootImage b = .error (s.bootFail 1) := by
  simp [State.bootImage, h]

theorem State.bootImage_failed (h : s.bootImage b = .error t) : t.bootFailed := by
  unfold State.bootImage at h
  dsimp only at h
  split at h
  case isTrue => cases h; exact State.bootFail_failed ..
  case isFalse =>
  split at h
  case h_1 => cases h; exact State.bootFail_failed ..
  case h_2 =>
  split at h
  case isTrue => cases h; exact State.bootFail_failed ..
  case isFalse =>
  split at h
  case h_1 => cases h; exact State.bootFail_failed ..
  case h_2 => cases h

theorem State.bootRecords_failed (h : s.bootRecords b = .error t) : t.bootFailed := by
  unfold State.bootRecords at h
  dsimp only at h
  split at h
  case isTrue => cases h; exact State.bootFail_failed ..
  case isFalse =>
  split at h
  case h_1 => cases h; exact State.bootFail_failed ..
  case h_2 =>
  split at h
  case isTrue => cases h; exact State.bootFail_failed ..
  case isFalse => cases h

theorem State.bootTrain_failed {x : TrainInputs} (h : s.bootTrain x = .error t) : t.bootFailed := by
  unfold State.bootTrain at h
  dsimp only at h
  split at h
  case isTrue => cases h
  case isFalse => cases h; exact State.endBoot_failed _

end Steps

/-! The end of a boot that succeeds (R476, R477, R480). -/

/-- Does a state differ from another in its security registers alone? -/
def State.sameButSec (s t : State) : Prop := ∃ S, t = { s with sec := S }

theorem State.sameButSec.trans {s t u : State} (h : s.sameButSec t) (hu : t.sameButSec u) : s.sameButSec u := by
  obtain ⟨S, rfl⟩ := h
  obtain ⟨T, rfl⟩ := hu
  exact ⟨T, rfl⟩

theorem State.sameButSec_refl (s : State) : s.sameButSec s := ⟨s.sec, rfl⟩

theorem State.sameButSec_raiseCounter (s : State) (k v : Nat) : s.sameButSec (s.raiseCounter k v) := by
  unfold State.raiseCounter
  split <;> exact ⟨_, rfl⟩

/-- Step 9: the counters of the image and of the configuration record are raised. -/
def State.raiseCounters (s : State) (i : List Byte) : State :=
  let t := (s.raiseCounter 0 (byteAt i 8 4)).raiseCounter 1 (byteAt s.sec.config 8 4)
  if (byteAt i 0x11 1).testBit 0 then t.raiseCounter 3 (byteAt i 0x10 1) else t

theorem State.sameButSec_raiseCounters (s : State) (i : List Byte) : s.sameButSec (s.raiseCounters i) := by
  have htwo := (s.sameButSec_raiseCounter 0 (byteAt i 8 4)).trans (State.sameButSec_raiseCounter _ 1 (byteAt s.sec.config 8 4))
  unfold State.raiseCounters
  dsimp only
  split
  · exact htwo.trans (State.sameButSec_raiseCounter ..)
  · exact htwo

/-- Step 9: the debug mode that the record asks for. -/
def State.setDebugMode (s : State) : State :=
  let mode := byteAt s.sec.config 0xC 4 / 4
  if mode = 0 then s else ({ s with sec := { s.sec with debugMode := BitVec.ofNat 2 mode } } : State).secEvent 9 mode 0

theorem State.sameButSec_setDebugMode (s : State) : s.sameButSec s.setDebugMode := by
  unfold State.setDebugMode
  dsimp only
  split
  · exact s.sameButSec_refl
  · exact ⟨_, rfl⟩

theorem State.bootEnd_raised (s : State) {b : BootInputs} (i : List Byte) (h : b.raise9 = true) :
    s.bootEnd b i = ((s.raiseCounters i).setDebugMode).armHeartbeat.endBoot 0 := by
  unfold State.bootEnd
  rw [h]
  rfl

theorem State.trainSites_same (s : State) : ∃ L, s.trainSites = { s with links := L } := by
  have hstep : ∀ (s : State) (k : Nat), ∃ L, (if s.siteCfg k 0x101 1 = 0 then s.setSite k {}
      else (s.setLink (8 + k) { state := 1 }).setSite k { state := .training }) = { s with links := L } := fun s k => by
    split <;> exact ⟨_, rfl⟩
  obtain ⟨L0, h0⟩ := hstep s 0
  obtain ⟨L1, h1⟩ := hstep { s with links := L0 } 1
  refine ⟨L1, ?_⟩
  unfold State.trainSites
  rw [List.foldl_cons, h0, List.foldl_cons, h1, List.foldl_nil]

/-- Once its counters are raised, boot ends in service, locked, with the hub, the firmware's entry and the security registers changed. -/
theorem State.bootEnd_serves (s : State) {b : BootInputs} (i : List Byte) (h : b.raise9 = true) :
    ∃ S C M, S.locked = true ∧ s.bootEnd b i = { s with hub := { s.hub with bootStatus := 0 }, sec := S, cal := C, mw := M } := by
  obtain ⟨S, hsec⟩ := (s.sameButSec_raiseCounters i).trans (State.sameButSec_setDebugMode _)
  rw [s.bootEnd_raised i h, hsec]
  exact ⟨_, _, _, rfl, rfl⟩

/-! The course of boot (R476). -/

section Boot
variable {s : State} {b : BootInputs}

theorem execBoot_pending (hon : s.sup.on = true) (hpending : s.hub.bootStatus = 1) (hpart : s.sup.partOff = false) :
    execBoot b s = .next (s.boot b) := by
  simp [execBoot, hon, hpending, hpart]

theorem State.boot_imageFails {t : State} (h : s.bootImage b = .error t) : s.boot b = t := by
  unfold State.boot
  rw [h]

section Image
variable {u : State} {i : List Byte} (himage : s.bootImage b = .ok (u, i))
include himage

theorem State.boot_mapFails {t : State} {code : Nat} (h : u.buildMap b.map b.sparing (some b.factory) = .error (t, code)) :
    s.boot b = t.endBoot code := by
  unfold State.boot
  rw [himage]
  dsimp only
  rw [h]

section Map
variable {v : State} (hmap : u.buildMap b.map b.sparing (some b.factory) = .ok v)
include hmap

theorem State.boot_recordsFail {t : State} (h : v.bootRecords b = .error t) : s.boot b = t := by
  unfold State.boot
  rw [himage]
  dsimp only
  rw [hmap]
  dsimp only
  rw [h]

section Records
variable {w : State} (hrecords : v.bootRecords b = .ok w)
include hrecords

theorem State.boot_trainingFails {t : State} (h : w.bootTrain b.train = .error t) : s.boot b = t := by
  unfold State.boot
  rw [himage]
  dsimp only
  rw [hmap]
  dsimp only
  rw [hrecords]
  dsimp only
  rw [h]

/-- A boot whose steps all succeed serves, with the memory and the segments that step 7 sets. -/
theorem State.boot_serves {x : State} (h : w.bootTrain b.train = .ok x) (hraise : b.raise9 = true) :
    (s.boot b).hub.bootStatus = 0 ∧ (s.boot b).sec.locked = true ∧ (s.boot b).mem.bytes = bootMemory i ∧
      (s.boot b).fab.segs = joinExports x.fab.size ∧ (s.boot b).cores = x.cores := by
  have hboot : s.boot b = (({ x with mem := { x.mem with bytes := bootMemory i, errs := [] }
                                     fab := { x.fab with segs := joinExports x.fab.size } } : State).trainSites).bootEnd b i := by
    unfold State.boot
    rw [himage]
    dsimp only
    rw [hmap]
    dsimp only
    rw [hrecords]
    dsimp only
    rw [h]
  rw [hboot]
  generalize hx : ({ x with mem := { x.mem with bytes := bootMemory i, errs := [] }
                            fab := { x.fab with segs := joinExports x.fab.size } } : State) = y
  obtain ⟨L, hsites⟩ := y.trainSites_same
  obtain ⟨S, C, M, hlock, hend⟩ := State.bootEnd_serves { y with links := L } i hraise
  rw [hsites, hend, ← hx]
  exact ⟨rfl, hlock, rfl, rfl, rfl⟩

end Records
end Map
end Image
end Boot

/-- Settles O57: power-up by its two lemmas, and one lemma for each step at which boot may end. -/
theorem bootEntersService : Obligations.BootEntersService := by
  unfold Obligations.BootEntersService
  refine ⟨?power, ?boot⟩
  case power =>
    intro s hoff hpwr hreset
    exact ⟨execPowerUp_leavesReset hoff hpwr hreset, execPowerUp_waits hoff hpwr hreset⟩
  case boot =>
    intro s b hon hpending hpart
    have hexec : exec (.boot b) s = .next (s.boot b) := execBoot_pending hon hpending hpart
    rw [hexec]
    refine ⟨fun t himage => ?image, fun hseed => ?seed, fun u i himage => ⟨fun t code hmap => ?map, fun v hmap => ⟨fun t hrecords => ?records,
      fun w t hrecords htrain => ?training, fun w x hrecords htrain hraise => ?serves⟩⟩⟩
    case image => exact ⟨congrArg _ (State.boot_imageFails himage), State.bootImage_failed himage⟩
    case seed =>
      rw [State.boot_imageFails (State.bootImage_seedless hseed)]
      exact ⟨_, rfl, rfl, rfl, rfl⟩
    case map =>
      rw [State.boot_mapFails himage hmap]
      exact ⟨_, rfl, rfl, rfl⟩
    case records => exact ⟨congrArg _ (State.boot_recordsFail himage hmap hrecords), State.bootRecords_failed hrecords⟩
    case training => exact ⟨congrArg _ (State.boot_trainingFails himage hmap hrecords htrain), State.bootTrain_failed htrain⟩
    case serves => exact ⟨_, rfl, State.boot_serves himage hmap hrecords htrain hraise⟩

end Sys2Proof.Machine
end

section
/-! PROOFS. Supplies, pins and the sideband: what the always-on domain draws from, the compute part without its supply, PWR_OK and
RESET_N, the registers that the sideband reads: the statement SuppliesAndPins. -/

namespace Sys2Proof.Machine

/-! What the always-on domain draws from (R488, R490). -/

section Feed
variable {s : State}

theorem State.feed_onMain (h : 224 ≤ s.sup.vinMain.toNat) : s.feed = s.modSup fun u => { u with onAux := false } := if_pos h

theorem State.feed_holds (hlo : 216 ≤ s.sup.vinMain.toNat) (hhi : s.sup.vinMain.toNat < 224) (haux : s.sup.onAux = false) : s.feed = s := by
  unfold State.feed
  dsimp only
  rw [if_neg (Nat.not_le.2 hhi), haux, if_neg (by decide), if_pos hlo]

theorem State.feed_goesOver (h : s.sup.vinMain.toNat < 216) (hok : s.sup.auxOk = true) (haux : s.sup.onAux = false) :
    s.feed = s.modSup fun u => { u with onAux := true, switchovers := if u.on then satByte u.switchovers else u.switchovers } := by
  have hlow : ¬ 224 ≤ s.sup.vinMain.toNat := by omega
  unfold State.feed
  dsimp only
  rw [if_neg hlow, haux, if_neg (by decide), if_neg (Nat.not_le.2 h), if_pos hok]

/-- With VIN_AUX in its range a change of VIN_MAIN takes no power from the domain. -/
theorem State.feed_powered (h : s.sup.vinMain.toNat < 216) (hok : s.sup.auxOk = true) :
    ∃ U, s.feed = { s with sup := U } ∧ U.on = s.sup.on ∧ U.partOff = s.sup.partOff := by
  cases haux : s.sup.onAux with
  | false => exact ⟨_, State.feed_goesOver h hok haux, rfl, rfl⟩
  | true =>
    have hlow : ¬ 224 ≤ s.sup.vinMain.toNat := by omega
    refine ⟨s.sup, ?_, rfl, rfl⟩
    unfold State.feed
    dsimp only
    rw [if_neg hlow, haux, if_pos rfl, if_pos hok]

end Feed

/-- The watch over PWR_OK notes since when it is high without VIN_MAIN, and no more. -/
theorem State.watchPwrOk_same (s : State) : ∃ b, s.watchPwrOk = { s with sup := { s.sup with badSince := b } } := ⟨_, rfl⟩

/-! VIN_MAIN and VIN_AUX (R488 to R490, R494, R497). -/

section Main
variable {s : State} {v : BitVec 8}

theorem execVinMainSag_goesOver (hlow : v.toNat < 216) (hok : s.sup.auxOk = true) (haux : s.sup.onAux = false) (hon : s.sup.on = true) :
    ∃ t, execVinMainSag v s = .next t ∧ t.sup.onAux = true ∧ t.sup.vinMain = v ∧ t.sup.mainOk = false ∧
      t.sup.switchovers = satByte s.sup.switchovers ∧ t.recov = s.recov ∧ t.tim = s.tim ∧ t.mem = s.mem := by
  have hout : inRange v = false := by
    have : ¬ 228 ≤ v.toNat := by omega
    simp [inRange, this]
  have hfeed := State.feed_goesOver (s := s.setMain v) hlow hok haux
  obtain ⟨b, hwatch⟩ := (s.setMain v).feed.watchPwrOk_same
  unfold execVinMainSag
  rw [hwatch, hfeed]
  exact ⟨_, rfl, rfl, rfl, hout, if_pos hon, rfl, rfl, rfl⟩

theorem execVinMainSag_holds (hlo : 216 ≤ v.toNat) (hhi : v.toNat < 224) (haux : s.sup.onAux = false) :
    ∃ t, execVinMainSag v s = .next t ∧ t.sup.onAux = false ∧ t.sup.vinMain = v ∧ t.mem = s.mem := by
  have hfeed := State.feed_holds (s := s.setMain v) hlo hhi haux
  unfold execVinMainSag
  rw [hfeed]
  exact ⟨_, rfl, haux, rfl, rfl⟩

/-- Power comes back to the compute part with PWR_OK and VIN_MAIN; the rest of the supplies stays. -/
theorem State.powerBack_same (s : State) : ∃ R off, s.powerBack = { s with sup := { s.sup with partOff := off }, recov := R } ∧
    (s.sup.pwrOk = true → s.sup.mainOk = true → off = false) := by
  unfold State.powerBack
  split
  · exact ⟨_, false, rfl, fun _ _ => rfl⟩
  case isFalse h =>
    exact ⟨s.recov, s.sup.partOff, rfl, fun hpwr hmain => by simpa [hpwr, hmain] using h⟩

theorem execVinMainReturn_back (h : 224 ≤ v.toNat) : ∃ t, execVinMainReturn v s = .next t ∧ t.sup.onAux = false ∧ t.sup.vinMain = v ∧
    t.sup.mainOk = inRange v ∧ (inRange v = true → s.sup.pwrOk = true → t.sup.partOff = false) ∧ t.mem = s.mem := by
  have hfeed := State.feed_onMain (s := s.setMain v) h
  obtain ⟨R, off, hback, hoff⟩ := ((s.setMain v).modSup fun u => { u with onAux := false }).powerBack_same
  obtain ⟨b, hwatch⟩ := (s.setMain v).feed.powerBack.watchPwrOk_same
  unfold execVinMainReturn
  rw [hwatch, hfeed, hback]
  exact ⟨_, rfl, rfl, rfl, rfl, fun hin hpwr => hoff hpwr hin, rfl⟩

theorem execVinAuxChange_onMain (haux : s.sup.onAux = false) (hmain : 216 ≤ s.sup.vinMain.toNat) :
    ∃ t, execVinAuxChange v s = .next t ∧ t.sup.auxOk = inRange v ∧ t.sup.vinAux = v ∧ t.sup.onAux = false ∧ t.mem = s.mem := by
  unfold execVinAuxChange
  rcases Nat.lt_or_ge s.sup.vinMain.toNat 224 with hhi | hhi
  · rw [State.feed_holds (s := s.modSup fun u => { u with vinAux := v, auxOk := inRange v }) hmain hhi haux]
    exact ⟨_, rfl, rfl, rfl, haux, rfl⟩
  · rw [State.feed_onMain (s := s.modSup fun u => { u with vinAux := v, auxOk := inRange v }) hhi]
    exact ⟨_, rfl, rfl, rfl, rfl, rfl⟩

/-- A recorded fault leaves the note that the compute part has no power. -/
theorem State.arise_noPower (s : State) (c : Nat) (r : FaultRec) : (s.arise c r).recov.noPower = s.recov.noPower := by
  unfold State.arise
  dsimp only
  generalize (if s.recov.state = 0 then s.recov.due else s.recov.state.toNat + 1) = cur
  split
  · rfl
  split
  · split <;> rfl
  split
  · rfl
  · obtain ⟨L, hmod, -⟩ := State.modRecords_same (s.openFaults ++ if cur = 0 then [] else [s.recov.record]) s FaultRec.subsume
    rw [hmod]
    rfl

theorem execVinMainLoss_takesDown (hlow : v.toNat < 200) (hok : s.sup.auxOk = true) (hon : s.sup.on = true) (hpart : s.sup.partOff = false)
    (hboot : s.hub.bootStatus ≠ 1) :
    ∃ t, execVinMainLoss v s = .next t ∧ t.sup.partOff = true ∧ t.recov.noPower = true ∧ t.log.next = s.log.next + 1 ∧
      (s.recov.state = 0 → s.recov.due < 3 → t.recov.due = 3) ∧ (∀ c ∈ t.cores, c.2.stopped = true) ∧ t.tim = s.tim := by
  obtain ⟨U, hfeed, hUon, hUpart⟩ := State.feed_powered (s := s.setMain v) (Nat.lt_trans hlow (by decide)) hok
  obtain ⟨b, hwatch⟩ := (s.setMain v).feed.watchPwrOk_same
  have hgoes : ¬ (!U.on) = true := by rw [show U.on = true from hUon.trans hon]; decide
  have hpowered : ¬ U.partOff = true := by rw [show U.partOff = false from hUpart.trans hpart]; decide
  unfold execVinMainLoss
  rw [if_neg (Nat.not_le.2 hlow), hwatch, hfeed]
  refine ⟨_, congrArg _ ((if_neg hgoes).trans ((if_neg hpowered).trans (if_neg hboot))), ?_⟩
  unfold State.deviceFault
  rw [State.arise_sup, State.arise_noPower, State.arise_next, State.arise_cores, State.arise_tim]
  exact ⟨rfl, rfl, rfl, fun hstate hdue => State.arise_due _ hstate hdue, State.stoppedCores_stopped s, rfl⟩

end Main

/-! PWR_OK (R493, R494, R497). The flush of a power-down leaves the supplies. -/

section Flush
variable (s : State)

theorem State.startTxn_sup (n a k : Nat) (t : Txn) (filling : Bool) (waiters : List Req) :
    (s.startTxn n a k t filling waiters).sup = s.sup := by
  have hsnoops (id : Nat) (u : State) : (t.owed.foldl (fun s o => s.snoop n a o.2.msg [o.1] id) u).sup = u.sup := by
    refine foldl_keeps State.sup _ (fun u o => ?_) _ u
    rfl
  unfold State.startTxn
  dsimp only
  split <;> exact hsnoops _ _

theorem State.dropLine_sup (n k : Nat) (t : Tag) : (s.dropLine n k t).sup = s.sup := by
  unfold State.dropLine
  dsimp only
  split
  · rfl
  split
  · rfl
  · exact State.startTxn_sup ..

theorem State.flushWay_sup (n k : Nat) : (s.flushWay n k).sup = s.sup := by
  unfold State.flushWay
  extract_lets sl w t w' u
  have ht : u.sup = s.sup := by
    simp only [u, State.setSlice_sup, t]
    split
    · exact State.chanWrite_sup ..
    · rfl
  split
  · rfl
  split
  · rw [State.dropLine_sup, ht]
  · exact ht

theorem State.readGood_sup (a : Nat) (r0 r1 : HalfRead) : (s.readGood a r0 r1).2.sup = s.sup := by
  unfold State.readGood
  dsimp only
  split
  · rfl
  · exact State.chanWrite_sup ..

theorem State.chanRead_sup (a source : Nat) (t : Tag) (first second : ErrPat) : (s.chanRead a source t first second).2.sup = s.sup := by
  unfold State.chanRead
  dsimp only
  split
  · exact State.readGood_sup ..
  split
  · exact State.readGood_sup ..
  · rfl

theorem State.notify_sup (a : Nat) : (s.notify a).sup = s.sup := rfl

theorem State.redAtMemory_sup (r : Req) (first second : ErrPat) : (s.redAtMemory r first second).2.sup = s.sup := by
  have hread := s.chanRead_sup r.line 1 r.tag first second
  unfold State.redAtMemory
  dsimp only
  split
  case h_1 u hu =>
    rw [hu] at hread
    exact (State.arise_sup ..).trans hread
  case h_2 old u hu =>
    rw [hu] at hread
    dsimp only
    rw [State.notify_sup, State.chanWrite_sup]
    exact hread

theorem State.drainForwarded_sup (n : Nat) : (s.drainForwarded n).sup = s.sup := by
  unfold State.drainForwarded
  exact foldl_keeps State.sup _ (fun u r => u.redAtMemory_sup r [] []) _ (s.modSlice n fun sl => { sl with forwarded := [] })

theorem State.flushAll_sup : s.flushAll.sup = s.sup := by
  unfold State.flushAll
  refine foldl_keeps State.sup _ (fun s p => ?_) s.cache.slices s
  refine (State.drainForwarded_sup _ _).trans (foldl_keeps State.sup _ (fun u w => ?_) p.2.ways s)
  exact State.flushWay_sup ..

end Flush

/-- The recovery of a power-down, which follows a fall of PWR_OK (R493). -/
def State.beginPowerDown (s : State) : State :=
  { s with recov := { s.recov with
    state := 2, step := 1, due := 0, started := s.now, refreshed := false, powerDown := true
    fullRecoveries := BitVec.ofNat 8 (min 255 (s.recov.fullRecoveries.toNat + 1)) } }

/-- Steps 1 to 3 of a full recovery, as a power-down runs them. -/
def State.settleMemory (s : State) : State := s.beginPowerDown.halt.flushAll.moveChans 2 3

theorem State.putMem_sup (s : State) (M : Memory) : (s.putMem M).sup = s.sup := rfl

theorem State.settleMemory_sup (s : State) : s.settleMemory.sup = s.sup := by
  obtain ⟨K, M, T, L, F, O, hhalt, -⟩ := s.beginPowerDown.halt_same
  obtain ⟨N, hchans⟩ := s.beginPowerDown.halt.flushAll.moveChans_mem 2 3
  unfold State.settleMemory
  rw [hchans, State.putMem_sup, State.flushAll_sup, hhalt]
  rfl

theorem State.powerDown_settles (s : State) : ∃ r, s.powerDown =
    ({ s.settleMemory with recov := { s.settleMemory.recov with step := 3, refreshed := r } } : State).powerOff true := by
  refine ⟨(List.range 256).all fun n => (s.settleMemory.chan n).state == 3, ?_⟩
  unfold State.powerDown State.settleMemory State.beginPowerDown
  with_reducible rfl

/-- The last step of a power-down: step 3 is done, and the power is away. -/
theorem State.powerOff_settled (s : State) (r : Bool) :
    let t := ({ s with recov := { s.recov with step := 3, refreshed := r } } : State).powerOff true
    t.sup = { s.sup with partOff := true } ∧ t.recov.noPower = true ∧ t.recov.step = 3 := ⟨rfl, rfl, rfl⟩

/-- The power-down ends at step 3, with the power away. -/
theorem State.powerDown_off (s : State) : s.powerDown.sup = { s.sup with partOff := true } ∧ s.powerDown.recov.noPower = true ∧
    s.powerDown.recov.step = 3 := by
  obtain ⟨r, hdown⟩ := s.powerDown_settles
  have hoff := s.settleMemory.powerOff_settled r
  rwa [← hdown, s.settleMemory_sup] at hoff

section PwrOk
variable {s : State} {n : Nat} (hpwr : s.sup.pwrOk = true)
include hpwr

theorem execPwrOkFall_short (h : n < 1000) : execPwrOkFall n s = .next (s.modSup fun u => { u with glitches := satByte u.glitches }) := by
  simp [execPwrOkFall, hpwr, h]

theorem execPwrOkFall_takesDown (h : 1000 ≤ n) (hon : s.sup.on = true) (hboot : s.hub.bootStatus ≠ 1) (hpart : s.sup.partOff = false)
    (hserving : s.serving = true) :
    ∃ t, execPwrOkFall n s = .next t ∧ t.sup.pwrOk = false ∧ t.sup.partOff = true ∧ t.recov.noPower = true ∧ t.recov.step = 3 := by
  have hgoes : ¬ (!s.sup.on || s.hub.bootStatus == 1 || s.sup.partOff) = true := by
    rw [hon, hpart]
    simpa using hboot
  have hfalls : execPwrOkFall n s =
      .next (((s.modSup fun u => { u with pwrOk := false }).watchPwrOk.deviceFault 0x14 0 7).powerDown) := by
    unfold execPwrOkFall
    rw [hpwr, if_neg (by decide), if_neg (Nat.not_lt.2 h)]
    exact congrArg _ ((if_neg hgoes).trans (if_pos hserving))
  obtain ⟨hsup, hnone, hstep⟩ := ((s.modSup fun u => { u with pwrOk := false }).watchPwrOk.deviceFault 0x14 0 7).powerDown_off
  refine ⟨_, hfalls, ?_, ?_, hnone, hstep⟩
  · rw [hsup, State.deviceFault, State.arise_sup]
    rfl
  · rw [hsup]

end PwrOk

theorem execPwrOkRise_back (s : State) :
    ∃ t, execPwrOkRise s = .next t ∧ t.sup.pwrOk = true ∧ (s.sup.mainOk = true → t.sup.partOff = false) ∧ t.mem = s.mem := by
  obtain ⟨R, off, hback, hoff⟩ := (s.modSup fun u => { u with pwrOk := true }).powerBack_same
  unfold execPwrOkRise
  rw [hback]
  exact ⟨_, rfl, rfl, fun hmain => hoff rfl hmain, rfl⟩

/-! RESET_N and PCIE_REFCLK (R495, R497). -/

section ResetN
variable {s : State}

@[simp] theorem State.resetCtx_sup (s : State) (k : Nat) : (s.resetCtx k).sup = s.sup := by unfold State.resetCtx; split <;> rfl
@[simp] theorem State.resetCtx_host (s : State) (k : Nat) : (s.resetCtx k).host = s.host := by unfold State.resetCtx; split <;> rfl

/-- Without commands in hand a Function Level Reset leaves the pins, the host's side and every other function. -/
theorem State.resetFn_pins {f : Nat} (h : s.cmds = []) :
    (s.resetFn f).cmds = [] ∧ (s.resetFn f).sup = s.sup ∧ (s.resetFn f).host = s.host ∧ (s.resetFn f).mem = s.mem ∧
      ∀ g, g ≠ f → (s.resetFn f).fn g = s.fn g := by
  have hidle : ∀ c ∈ s.cmds, c.fn ≠ f := by simp [h]
  have hfns : (s.resetFn f).fns = (s.setFn f {}).fns := by
    rw [State.resetFn_idle hidle]
    exact foldl_keeps State.fns _ State.resetCtx_fns _ _
  obtain ⟨hcmds, hmem, -⟩ := State.resetFn_keeps hidle
  refine ⟨hcmds.trans h, ?_, ?_, hmem, fun g hg => ?_⟩
  · rw [State.resetFn_idle hidle]
    exact foldl_keeps State.sup _ State.resetCtx_sup _ _
  · rw [State.resetFn_idle hidle]
    exact foldl_keeps State.host _ State.resetCtx_host _ _
  · unfold State.fn
    rw [hfns]
    exact State.fn_setFn_other _ _ (Ne.symm hg)

/-- The reset of several functions leaves each as at power-on. -/
theorem State.resetFns_reset (l : List Nat) (h : s.cmds = []) :
    (l.foldl State.resetFn s).sup = s.sup ∧ (l.foldl State.resetFn s).host = s.host ∧ (l.foldl State.resetFn s).mem = s.mem ∧
      ∀ f, f ∈ l ∨ s.fn f = {} → (l.foldl State.resetFn s).fn f = {} := by
  induction l generalizing s with
  | nil => exact ⟨rfl, rfl, rfl, fun f hf => hf.resolve_left (List.not_mem_nil)⟩
  | cons g l ih =>
    obtain ⟨hcmds, hsup, hhost, hmem, hother⟩ := State.resetFn_pins (f := g) h
    obtain ⟨ihsup, ihhost, ihmem, ihfn⟩ := ih hcmds
    refine ⟨ihsup.trans hsup, ihhost.trans hhost, ihmem.trans hmem, fun f hf => ihfn f ?_⟩
    by_cases hfg : f = g
    · exact .inr (hfg ▸ s.resetFn_fn f)
    · rcases hf with hf | hf
      · exact .inl ((List.mem_cons.1 hf).resolve_left hfg)
      · exact .inr ((hother f hfg).trans hf)

variable {n : Nat} (hreset : s.sup.resetN = true) (hon : s.sup.on = true)
include hreset hon

theorem execResetNLow_short (h : n < 100000) : execResetNLow n s = .next (s.modSup fun u => { u with resetPulses := satByte u.resetPulses }) := by
  simp [execResetNLow, hreset, hon, h]

theorem execResetNLow_resets (h : 100000 ≤ n) (hcmds : s.cmds = []) : ∃ t, execResetNLow n s = .next t ∧ t.sup.resetN = false ∧
    t.host.linkUp = false ∧ (∀ f, f < 16 → t.fn f = {}) ∧ t.mem = s.mem := by
  obtain ⟨hsup, hhost, hmem, hfn⟩ := State.resetFns_reset (s := (s.modSup fun u => { u with resetN := false }).retrain) (List.range 16) hcmds
  have hdown : (s.modSup fun u => { u with resetN := false }).retrain.host.linkUp = false := by simp [State.retrain, State.modSup]
  unfold execResetNLow
  rw [hreset, hon, if_neg (by decide), if_neg (by decide), if_neg (Nat.not_lt.2 h)]
  refine ⟨_, rfl, ?_, ?_, fun f hf => hfn f (.inl (List.mem_range.2 hf)), hmem⟩
  · rw [hsup]
    rfl
  · rw [hhost, hdown]

end ResetN

/-! The sideband (R500). -/

section Sideband
variable {s : State} {a : BitVec 7}

theorem execEntdaa_takes (hon : s.sup.on = true) (hnone : s.sup.i3cAddr = none) :
    execEntdaa a s = .next (s.modSup fun u => { u with i3cAddr := some a }) := by
  simp [execEntdaa, hon, hnone]

theorem Supplies.answers_iff {u : Supplies} (hon : u.on = true) : u.answers a = true ↔ a = 0x4C ∨ u.i3cAddr = some a := by
  simp [Supplies.answers, hon]

theorem execI3cPrivateWrite_selects (h : s.sup.answers a = true) (off : BitVec 24) :
    execI3cPrivateWrite a off s = .next (s.modSup fun u => { u with i3cSelect := off }) := by
  unfold execI3cPrivateWrite
  rw [if_pos h]

theorem execI3cPrivateRead_reads (h : s.sup.answers a = true) : execI3cPrivateRead a s = .next (s.modSup fun u => { u with
    i3cData := if sidebandReg s.sup.i3cSelect.toNat then BitVec.ofNat 32 (s.reg32 0 s.sup.i3cSelect.toNat) else 0 }) := by
  unfold execI3cPrivateRead
  dsimp only
  rw [if_pos h]

theorem execI3cPrivateRead_silent (h : ¬ s.sup.answers a = true) : execI3cPrivateRead a s = .next s := by
  unfold execI3cPrivateRead
  dsimp only
  rw [if_neg h]

end Sideband

/-- Settles O58: each change of a supply, a pin or the sideband by its lemma. -/
theorem suppliesAndPins : Obligations.SuppliesAndPins := by
  unfold Obligations.SuppliesAndPins
  refine ⟨?main, ?pins, ?link, ?sideband⟩
  case main =>
    intro s v
    exact ⟨execVinMainSag_goesOver, execVinMainSag_holds, execVinMainReturn_back, execVinMainLoss_takesDown, execVinAuxChange_onMain⟩
  case pins =>
    intro s n
    exact ⟨execPwrOkFall_short, execPwrOkFall_takesDown, execPwrOkRise_back s, execResetNLow_short, execResetNLow_resets⟩
  case link =>
    intro s
    refine ⟨⟨_, rfl, rfl, ?_, rfl⟩, ⟨_, rfl, rfl, ?_, rfl⟩, ⟨_, rfl, rfl, ?_, rfl⟩⟩ <;> simp [State.retrain, State.modSup]
  case sideband =>
    intro s a hon
    refine ⟨execEntdaa_takes hon, fun hmine => ?mine, fun hstatic hdynamic => ?other, rfl⟩
    case mine =>
      have hanswers := (Supplies.answers_iff hon).2 hmine
      exact ⟨execI3cPrivateWrite_selects hanswers, _, execI3cPrivateRead_reads hanswers, rfl, rfl⟩
    case other =>
      exact execI3cPrivateRead_silent fun h => ((Supplies.answers_iff hon).1 h).elim hstatic hdynamic

end Sys2Proof.Machine
end
